-- ==== Sys2Proof/Word.lean ====
section
/-!
DEFINITION. The word types of the block: the device numbers memory by bytes (R39), registers by
32 bit words (R417), hall time and latches by 64 bits (R16, R149) and Kretex instructions by 128 bits (R80).
-/
namespace Sys2Proof

/-- One byte of memory (R39). -/
abbrev Byte := BitVec 8
/-- One 32 bit register word (R417). -/
abbrev Word := BitVec 32
/-- Hall time, schedule time, latches, TA patterns: 64 bits (R16, R46, R149). -/
abbrev DWord := BitVec 64
/-- One Kretex instruction word (R80). -/
abbrev InsnWord := BitVec 128

end Sys2Proof
end

