-- ==== Sys2Proof/Syntax.lean ====
section
/-!
DEFINITION. The commands of the block: one constructor per row of spec/opcode_table.json, in the table's order,
with the row's operands, and the plain data types those operands are made of.
-/
namespace Sys2Proof

/-- The function that makes an access (R5, R386, R394). `mgmt` is the SPI management port; `peer` is a
remote register access by another device's physical function over class 4 (R211). -/
inductive Fn where
  | pf
  | vf (k : Nat)
  | mgmt
  | peer
  deriving DecidableEq, Repr, Inhabited

/-- The stream kinds of R79. -/
inductive StreamKind where
  | cell0 | cell1 | cell2 | cell3 | vx | uu | mov | ctl | clx | lmov | hdma
  deriving DecidableEq, Repr, Inhabited

/-- A stream of a partition: `own` is the index in OWN (R99) of the logical rank it serves, `unit` the logical
quarter, the link die (CLX, LMOV) or the logical HDMA channel (R77). -/
structure StreamId where
  part : Nat
  own  : Nat
  kind : StreamKind
  unit : Nat
  deriving DecidableEq, Repr, Inhabited

/-- A link end, as wired (R77): link die and link index. -/
structure LinkId where
  die  : Nat
  link : Nat
  deriving DecidableEq, Repr, Inhabited

/-- The KIND of a message (R209). -/
inductive MsgKind where
  | write | readReq | readReply | signal | ack | atomic | atomicReply | refusal | clx | mgmt
  deriving DecidableEq, Repr, Inhabited

/-- A message: the 32 byte header of R209 and its payload. R209 names a partition and no hosted rank, though a
partition may host several, each with an address space of its own (R176): `dstOwn` and `srcOwn` are the indices in
OWN of the ranks the message goes to and comes from (DESIGN CHOICE, log entry 10). -/
structure Msg where
  dstDev  : BitVec 16
  srcDev  : BitVec 16
  dstPart : BitVec 5
  srcPart : BitVec 5
  dstOwn  : BitVec 3
  srcOwn  : BitVec 3
  kind    : MsgKind
  epoch   : BitVec 32
  tag     : BitVec 16
  seq     : BitVec 16
  addr    : BitVec 64
  bytes   : BitVec 32
  arg     : BitVec 32
  payload : List Byte
  deriving DecidableEq, Repr, Inhabited

/-- A hold symbol (R29): a raise, or a release. -/
structure HoldSym where
  release : Bool
  domain  : BitVec 12
  source  : BitVec 16
  seq     : BitVec 8
  effect  : BitVec 64
  deriving DecidableEq, Repr, Inhabited

/-- A fabric hasp symbol (R166): an arrival or a release for generation `gen` of a hasp, from the partition of index
`src` in the domain's order to the partition of index `dst`. The hasp is named logically (DESIGN CHOICE, log entry
33: R208 gives the symbol's length and no fields). -/
structure HaspSym where
  release : Bool
  domain  : BitVec 12
  hasp    : Nat
  src     : Nat
  dst     : Nat
  gen     : BitVec 32
  deriving DecidableEq, Repr, Inhabited

/-- `TIM_STATUS.STATE` (R36). -/
inductive TimeState where
  | unlocked | acquiring | locked | holdover | lost | pintle | pintleFree
  deriving DecidableEq, Repr, Inhabited

/-- A TIME symbol as it reaches its receiver (R19): the sender's hall time at departure, depth and state; `back`, what the
sender measured of the last TIME symbol it had from this device (its own hall time at arrival less the stamp, in ps), which makes
the exchange two-way; and `fine`, the picoseconds by which the receiver's clock had passed its current unit at arrival
(DESIGN CHOICE, log entry 99: R19 names the two-way exchange and not how its second half travels). -/
structure TimeSym where
  hall   : BitVec 64
  depth  : BitVec 4
  state  : TimeState
  back   : Option Int
  fine   : Int
  deriving DecidableEq, Repr, Inhabited

/-- A complete pintle candidate, from an ELECT and its ELECTX (R208, R377). -/
structure Candidate where
  pri     : BitVec 8
  dev     : BitVec 16
  ident   : BitVec 128
  settled : Bool
  deriving DecidableEq, Repr, Inhabited

/-- A topology record (R380). -/
structure TopoRec where
  dev   : BitVec 16
  ident : BitVec 128
  depth : BitVec 4
  upLinks : Nat
  hops  : BitVec 8
  seq   : Nat
  deriving DecidableEq, Repr, Inhabited

/-- Which copy of a control symbol arrives (R208). -/
inductive CopyNo where
  | first | second | third
  deriving DecidableEq, Repr, Inhabited

/-- A copy of a control symbol at its receiver (R208), and whether its CRC-16 passes: the places of a symbol's fields are not
given (log entry 23), so the outcome of the check comes with the command. -/
structure SymCopy where
  no : CopyNo
  ok : Bool
  deriving DecidableEq, Repr, Inhabited

/-- What a control symbol says, with the copy that brings it (R208). -/
structure Copied (α : Type) where
  sym  : α
  copy : SymCopy
  deriving DecidableEq, Repr, Inhabited

/-- A received flit (R206): its envelope and its 256 bytes as FEC leaves them, and how many 10-bit symbols of its RS(544,514)
codeword were in error (R205): up to 15 are corrected. -/
structure Flit where
  env     : BitVec 64
  payload : List Byte
  symErrs : Nat
  deriving DecidableEq, Repr, Inhabited

/-- A 64-byte data block of DRAM that is read with errors in it (R180): its channel, its row, the local address of its first byte, and
the symbols of its stored word that are wrong, each with the difference. -/
structure BadBlock where
  ch   : Nat
  row  : Nat
  addr : Nat
  errs : List (Nat × Byte)
  deriving DecidableEq, Repr, Inhabited

/-- An operation at its visibility point (R88): whether the hardware has finished it, and which blocks its reads of DRAM found with
errors (R180, R304). -/
structure Finish where
  complete : Bool
  bad      : List BadBlock
  deriving DecidableEq, Repr, Inhabited

/-- Means over the last millisecond in watts (R330): at the regulators of each partition's quarters, and of the four link dies, the
mesh and the hub. -/
structure PowerMeans where
  parts  : List Nat
  shared : List Nat
  deriving DecidableEq, Repr, Inhabited

/-- What the monitors in the dies say (R319, R411): the hottest junction in tenths of a degree Celsius, offset by 1000, and whether a
wear indicator is past its limit. -/
structure Monitors where
  junction : Nat
  wear     : Bool
  deriving DecidableEq, Repr, Inhabited

/-- Where a fatal error was found (R315): the unit of its die, and the block that a read found, where the cause is an uncorrectable
block (R181). -/
structure FatalSite where
  unit  : BitVec 8
  block : Option BadBlock
  deriving DecidableEq, Repr, Inhabited

/-- How the sending of a drained page ends (R292, R295). -/
inductive DrainEnd where
  | landed | peerRefused | hostFault
  deriving DecidableEq, Repr, Inhabited

/-- A unit that a suite or a start-up phase finds failed (R326, R366, R370). -/
inductive FailedUnit where
  | cell (col cell : Nat)
  | channel (col ch : Nat)
  | row (col ch row : Nat)
  | quarter (q : Nat)
  | column (col : Nat)
  | linkDie (die : Nat)
  | other (die unit : BitVec 8)
  deriving DecidableEq, Repr, Inhabited

/-- Causes by which start-up stops (R366, R371). -/
inductive BootFail where
  | hubImage | linkImage | regulator | pll | mesh | allColumns | phaseTime
  deriving DecidableEq, Repr, Inhabited

/-- The four supply rails (R406) and the on-package regulators (R408). -/
inductive Rail where
  | main | auxiliary | standby | io | regulator
  deriving DecidableEq, Repr, Inhabited

/-- The unit that HUB_URST resets (R349). -/
inductive ResetUnit where
  | quarter (q : Nat)
  | linkDie (die : Nat)
  deriving DecidableEq, Repr, Inhabited

/-- The SEC unit whose command ends (R284, R342, R346). -/
inductive SecUnit where
  | receipt
  | report
  | key (part : Nat)
  deriving DecidableEq, Repr, Inhabited

/-- The commands. A stream row carries the stream that issues it and the 128 bit word at the stream's queue
head (R80); an event row names the object the event happens to; a register row names the function that makes
the access (R5) and the value written. -/
inductive Instr where
  | nop (s : StreamId) (w : InsnWord)
  | strike (s : StreamId) (w : InsnWord)
  | epochLeader (s : StreamId) (w : InsnWord)
  | epochMarker (s : StreamId) (w : InsnWord)
  | loop (s : StreamId) (w : InsnWord)
  | halt (s : StreamId) (w : InsnWord)
  | trap (s : StreamId) (w : InsnWord)
  | ladd (s : StreamId) (w : InsnWord)
  | lwait (s : StreamId) (w : InsnWord)
  | lsig (s : StreamId) (w : InsnWord)
  | lbind (s : StreamId) (w : InsnWord)
  | harr (s : StreamId) (w : InsnWord)
  | hcfg (s : StreamId) (w : InsnWord)
  | cld (s : StreamId) (w : InsnWord)
  | cst (s : StreamId) (w : InsnWord)
  | mmw (s : StreamId) (w : InsnWord)
  | mma (s : StreamId) (w : InsnWord)
  | tbi (s : StreamId) (w : InsnWord)
  | tbd (s : StreamId) (w : InsnWord)
  | cmask (s : StreamId) (w : InsnWord)
  | vld (s : StreamId) (w : InsnWord)
  | vst (s : StreamId) (w : InsnWord)
  | vbcast (s : StreamId) (w : InsnWord)
  | var (s : StreamId) (w : InsnWord)
  | vint (s : StreamId) (w : InsnWord)
  | vcmp (s : StreamId) (w : InsnWord)
  | vsel (s : StreamId) (w : InsnWord)
  | vtr (s : StreamId) (w : InsnWord)
  | vtrExpd (s : StreamId) (w : InsnWord)
  | vred (s : StreamId) (w : InsnWord)
  | cvt (s : StreamId) (w : InsnWord)
  | vrnd (s : StreamId) (w : InsnWord)
  | vseed (s : StreamId) (w : InsnWord)
  | vstep (s : StreamId) (w : InsnWord)
  | mcpy (s : StreamId) (w : InsnWord)
  | pfh (s : StreamId) (w : InsnWord)
  | lwr (s : StreamId) (w : InsnWord)
  | lrd (s : StreamId) (w : InsnWord)
  | latom (s : StreamId) (w : InsnWord)
  | lset (s : StreamId) (w : InsnWord)
  | cdesc (s : StreamId) (w : InsnWord)
  | credReduce (s : StreamId) (w : InsnWord)
  | credAllreduce (s : StreamId) (w : InsnWord)
  | cbc (s : StreamId) (w : InsnWord)
  | ca2aEqual (s : StreamId) (w : InsnWord)
  | ca2aUnequal (s : StreamId) (w : InsnWord)
  /-- The data phase of unequal all-to-all operation `op` of partition `part` begins (R241). -/
  | ca2aDataPhase (part : Nat) (op : Nat)
  | coaccSend (s : StreamId) (w : InsnWord)
  | coaccApply (s : StreamId) (w : InsnWord)
  | cring (s : StreamId) (w : InsnWord)
  | ucfgRule (s : StreamId) (w : InsnWord)
  | ucfgCombine (s : StreamId) (w : InsnWord)
  | uupd (s : StreamId) (w : InsnWord)
  | uchk (s : StreamId) (w : InsnWord)
  | ucomb (s : StreamId) (w : InsnWord)
  | ubor (s : StreamId) (w : InsnWord)
  | uborReturn (s : StreamId) (w : InsnWord)
  | hxferIn (s : StreamId) (w : InsnWord)
  | hxferOut (s : StreamId) (w : InsnWord)
  | hnote (s : StreamId) (w : InsnWord)
  | hirq (s : StreamId) (w : InsnWord)
  | dependentArm (s : StreamId)
  | holdPointMissed (s : StreamId)
  | holdTakeEffect (part : Nat)
  | holdMaxExpiry (part : Nat)
  | idleCatchUp (part : Nat)
  | operationVisibility (part : Nat) (op : Nat) (how : Finish)
  | operationLateComplete (part : Nat) (op : Nat)
  | cellPassEnd (part : Nat) (op : Nat)
  /-- The comparison that spare `spare` (16 or 17) of column `col` runs ends. -/
  | shadowCompareEnd (col : Nat) (spare : Nat) (mismatch : Bool)
  | lwaitDeadlineExpiry (part : Nat) (op : Nat)
  | haspStrikeComplete (hasp : Nat)
  | refreshPosition (col ch : Nat)
  /-- `bad` lists the blocks among the 256 bytes of the position that are read with errors. -/
  | scrubPosition (col ch : Nat) (bad : List BadBlock)
  | freezeRefresh (col ch : Nat)
  | keywayMoveCopyPage (part : Nat) (seg : Nat) (page : Nat)
  | snapshotDrainPage (part : Nat) (col : Nat) (how : DrainEnd)
  | recordCopyAccepted (part : Nat)
  | replayInject (part : Nat)
  | flitSend (l : LinkId)
  | flitReceive (l : LinkId) (f : Flit)
  | ackSend (l : LinkId)
  | timeTransferSend (l : LinkId)
  | symbolThirdCopy (l : LinkId)
  | settledElectSend
  | laneSymbolReceive (l : LinkId) (lane : Copied Nat)
  | holdSymbolReceive (l : LinkId) (h : Copied HoldSym)
  | nakReceive (l : LinkId) (pos : Copied (BitVec 16))
  | haspSymbolReceive (l : LinkId) (h : Copied HaspSym)
  | timeSymbolReceive (l : LinkId) (t : Copied TimeSym)
  /-- Cumulative position and the credits freed for classes 1 to 4. -/
  | ackReceive (l : LinkId) (pos : BitVec 16) (credits : Copied (List Nat))
  /-- The first time that the receiver holds both parts of a candidate, each from a copy whose check passed (R208). -/
  | electReceive (l : LinkId) (c : Candidate)
  | electionSettle
  | timeLockAcquired
  | holdoverTimeout
  | lostRelockRelease
  | pintleWaitNotice
  | pintleSlewDone
  | timeCodeFrame (frame : BitVec 125)
  | msgWrite (l : LinkId) (m : Msg)
  | msgReadRequest (l : LinkId) (m : Msg)
  | msgReadReply (l : LinkId) (m : Msg)
  | msgSignal (l : LinkId) (m : Msg)
  | msgAcknowledgement (l : LinkId) (m : Msg)
  | msgAtomic (l : LinkId) (m : Msg)
  | msgAtomicReply (l : LinkId) (m : Msg)
  | msgRefusal (l : LinkId) (m : Msg)
  | msgClx (l : LinkId) (m : Msg)
  | msgManagement (l : LinkId) (m : Msg)
  | topologyRecord (l : LinkId) (r : TopoRec)
  | topoSettle
  | laneFailure (l : LinkId) (lane : Nat)
  | linkSilenceTimeout (l : LinkId)
  /-- Training ends: the peer's device, die and link and the measured one-way delay. -/
  | linkTrained (l : LinkId) (peer : BitVec 16) (pdie : BitVec 2) (plink : BitVec 5) (delay : BitVec 16)
  | hdmaChunkComplete (port : Nat)
  | hdmaChunkTimeout (port : Nat)
  | pciePortDown (port : Nat)
  | decSegmentEnd
  | decMessageEnd (part : Nat)
  /-- `total` is the mean of the device's input over the last millisecond, in watts. -/
  | powerMsCheck (means : PowerMeans) (total : Nat)
  | powerHoldFrame (part : Nat)
  /-- `tcase` is the case temperature in tenths of a degree Celsius, offset by 1000 (R411). -/
  | thermalMsCheck (tcase : Nat) (dies : Monitors)
  /-- The boundary of number `k` lies at hall time k × 1,600,000,000 (R336). -/
  | vpwrInterval (k : Nat)
  | cperEccSummary
  | deadbolt (cause die : BitVec 8) (site : FatalSite)
  | firmwareWatchdogExpiry
  | deadboltReset
  /-- `ms` is the end of the phase in milliseconds after the beginning of the start (R373). -/
  | startupPhaseEnd (ms : BitVec 32) (failed : List FailedUnit)
  | phaseWatchdogExpiry (unit : Option FailedUnit) (cause : BootFail)
  /-- Whether the device's own monitors find all four rails in range (R407). -/
  | pwrOkRise (railsInRange : Bool)
  | pwrOkFall
  /-- A rail's level in millivolts after it left its range (R408). -/
  | railFault (rail : Rail) (mv : Nat)
  | perstNAssert
  | configRequest (port : Nat) (fn : Fn)
  | unsupportedAccess (fn : Fn) (off : BitVec 64) (size : Nat) (write : Bool)
  /-- A BAR2 access of `size` bytes at `off`; `data` is none for a read. -/
  | apertureAccess (off : BitVec 32) (size : Nat) (data : Option (BitVec 64))
  | vfFlr (vf : Nat)
  | pfReset
  /-- VF Enable and NumVFs after the configuration write (R384). -/
  | vfEnableClear (enable : Bool) (numVfs : Nat)
  | load (fn : Fn) (part : Nat)
  | loadDone (part : Nat)
  | start (fn : Fn) (part : Nat)
  | unload (fn : Fn) (part : Nat)
  | save (fn : Fn) (part : Nat)
  | restore (fn : Fn) (part : Nat)
  | ctxDone (part : Nat)
  | rewind (fn : Fn) (part : Nat)
  | rewindDone (part : Nat)
  | snapshotArm (fn : Fn) (part : Nat)
  | snapshotRestore (fn : Fn) (part : Nat)
  | snapshotRestoreDone (part : Nat)
  | dump (fn : Fn)
  | dumpDone
  | issue (fn : Fn)
  | report (fn : Fn)
  | secCommandDone (unit : SecUnit)
  | install (fn : Fn) (part : Nat)
  | decStart (fn : Fn) (part : Nat)
  | stage (fn : Fn) (target : BitVec 2)
  | stageDone
  | activate (fn : Fn) (target : BitVec 2)
  | cancel (fn : Fn) (target : BitVec 2)
  | activationWindowOpen
  | activationWindowClose
  | quarterReset (fn : Fn) (q : Nat)
  | linkDieReset (fn : Fn) (die : Nat)
  | unitResetDone (unit : ResetUnit)
  | katShort (fn : Fn)
  | katDeep (fn : Fn) (colMask : BitVec 20)
  | katDone (failed : List FailedUnit)
  | fltFlush (fn : Fn)
  | fltFlushDone (ok : Bool)
  | flashRead (fn : Fn) (sector : BitVec 12)
  | flashErase (fn : Fn) (sector : BitVec 12)
  | flashProgram (fn : Fn) (sector : BitVec 12)
  | flashCmdDone
  | move (fn : Fn) (part : BitVec 5) (seg : BitVec 12)
  /-- `reg` 0 is WIN, 1 the low and 2 the high word of HADDR. -/
  | hostwinWrite (fn : Fn) (part : Nat) (reg : Nat) (v : Word)
  | doorbell (fn : Fn) (queue : Nat) (tail : Word)
  | hallTimeWrite (fn : Fn) (v : Word)
  | hallTimeRead (fn : Fn)
  | pintleCfgWrite (fn : Fn) (v : Word)
  | holdLeadWrite (fn : Fn) (v : Word)
  | holdMaxWrite (fn : Fn) (v : Word)
  | domainActivate (fn : Fn) (part : Nat) (v : Word)
  | domainDeactivate (fn : Fn) (part : Nat) (v : Word)
  | rejoin (fn : Fn) (target : BitVec 16)
  | debugModeWrite (fn : Fn) (v : Word)
  | pfaultClear (fn : Fn) (part : Nat) (v : Word)
  | recConfigWrite (fn : Fn) (part : Nat) (off : Nat) (v : Word)
  | partitionConfigWrite (fn : Fn) (part : Nat) (off : Nat) (v : Word)
  | replThrWrite (fn : Fn) (v : Word)
  | shadowRateWrite (fn : Fn) (col : Nat) (v : Word)
  | linkDisable (fn : Fn) (l : LinkId) (v : Word)
  | wrrWrite (fn : Fn) (l : LinkId) (v : Word)
  | cperCfgWrite (fn : Fn) (v : Word)
  | apertureBaseWrite (fn : Fn) (high : Bool) (v : Word)
  /-- `block` 0 to 19 is a column's filter set, 20 to 23 a link die's; `off` the register's offset in it. -/
  | filterSetWrite (fn : Fn) (block : Nat) (off : Nat) (v : Word)
  | filterSetApply (block : Nat)
  | pmcCounterRead (fn : Fn) (off : BitVec 32)
  | lowWordRead (fn : Fn) (off : BitVec 32)
  | rcRegisterRead (fn : Fn) (off : BitVec 32)
  | msixUnmask (fn : Fn) (vector : Nat)
  | registerWrite (fn : Fn) (off : BitVec 32) (v : Word)
  /-- A READ frame of `count` words that clocks `extra` words beyond its last. -/
  | spiRead (addr : BitVec 24) (count extra : Nat)
  | spiWrite (addr : BitVec 24) (data : List Word)
  /-- A STATUS frame that clocks `extra` words beyond its last. -/
  | spiStatus (extra : Nat)
  | spiUnknownCommand (word0 word1 : Word) (words : Nat)
  /-- MGMT_CS_N rises mid word; `dataWord` says that the partial word was a data word. -/
  | spiFrameError (dataWord : Bool)
  | bypass
  | idcode
  | samplePreload (preload : List Bool)
  | extest (drive : List Bool)
  | jtagPrivate (ir : Nat)
  | perstNDeassert
  | pciePortUp (port : Nat)
  | serdesAdaptationEnd (die : Nat)
  | quarterRunEnd (col : Nat) (q : Nat) (failed : List FailedUnit)
  | mainRailLowNotice (mv : Nat)
  deriving DecidableEq, Repr

end Sys2Proof
end

