-- ==== Sys2Proof/Decode.lean ====
section
/-!
DEFINITION. The command that a word spells by the bits of spec/opcode_table.json. No row of that table gives its
command any bits (every "fields" list is empty), so no word spells a command.
-/
namespace Sys2Proof

/-- The command of a word of `nbits` bits, numbered as the table numbers them: none, since no row gives bits. -/
def decodeTableWord (nbits w : Nat) : Option Instr :=
  match nbits, w with
  | _, _ => none

end Sys2Proof
end

