-- ==== Sys2Proof/Machine/Bits.lean ====
section
/-!
DEFINITION. Bit fields, little-endian byte strings (R39), saturating counters and the CRCs of R206, R273 and R400.
-/
namespace Sys2Proof.Machine

/-- Bits `[lo + n - 1 : lo]` of `w`, as a number. -/
def fld {k : Nat} (w : BitVec k) (lo n : Nat) : Nat := (w.toNat >>> lo) % 2 ^ n

/-- Bit `i` of `w`. -/
def bit {k : Nat} (w : BitVec k) (i : Nat) : Bool := w.getLsbD i

/-- The number 1 or 0 for a flag. -/
def b2n (b : Bool) : Nat := if b then 1 else 0

/-- A word from its fields, each a (lowest bit, value) pair; fields do not overlap. -/
def pack (k : Nat) (fs : List (Nat × Nat)) : BitVec k :=
  BitVec.ofNat k (fs.foldl (fun acc f => acc + f.2 * 2 ^ f.1) 0)

/-- `w` with bits `[lo + n - 1 : lo]` replaced by `v`. -/
def putFld {k : Nat} (w : BitVec k) (lo n v : Nat) : BitVec k :=
  let mask := BitVec.ofNat k ((2 ^ n - 1) * 2 ^ lo)
  (w &&& ~~~mask) ||| (BitVec.ofNat k ((v % 2 ^ n) * 2 ^ lo))

/-- The number a little-endian byte string holds (R39). -/
def leNat : List Byte → Nat
  | [] => 0
  | b :: bs => b.toNat + 256 * leNat bs

/-- The `n` bytes of `v`, little-endian (R39). -/
def leBytes : Nat → Nat → List Byte
  | 0, _ => []
  | n + 1, v => BitVec.ofNat 8 v :: leBytes n (v / 256)

/-- The number a big-endian byte string holds. -/
def beNat (bs : List Byte) : Nat := bs.foldl (fun acc b => acc * 256 + b.toNat) 0

/-- The `n` bytes of `v`, big-endian. -/
def beBytes (n v : Nat) : List Byte := (leBytes n v).reverse

/-- `n` bytes of `bs` from offset `off`; zeros beyond its end. -/
def slice (bs : List Byte) (off n : Nat) : List Byte :=
  let got := (bs.drop off).take n
  got ++ List.replicate (n - got.length) 0

/-- The little-endian number in bytes `off` to `off + n - 1`. -/
def leAt (bs : List Byte) (off n : Nat) : Nat := leNat (slice bs off n)

/-- True where every byte of the slice is zero. -/
def zeroAt (bs : List Byte) (off n : Nat) : Bool := (slice bs off n).all (· == 0)

/-- `a / b` rounded up. -/
def ceilDiv (a b : Nat) : Nat := if b = 0 then 0 else (a + b - 1) / b

/-- `a` rounded up to a multiple of `b`. -/
def roundUp (a b : Nat) : Nat := ceilDiv a b * b

/-- A counter that saturates at its largest value. -/
def satAdd {k : Nat} (c : BitVec k) (n : Nat) : BitVec k :=
  BitVec.ofNat k (min (c.toNat + n) (2 ^ k - 1))

/-- Groups a list into runs of `n` elements, the last possibly shorter. `fuel` bounds the number of runs. -/
def chunksFuel {α : Type} (n : Nat) : Nat → List α → List (List α)
  | 0, _ => []
  | _, [] => []
  | f + 1, x :: xs => ((x :: xs).take n) :: chunksFuel n f ((x :: xs).drop n)

/-- Groups a list into runs of `n` elements. -/
def chunks {α : Type} (n : Nat) (xs : List α) : List (List α) := chunksFuel n xs.length xs

/-- The elements of `w` bits that bytes hold: nibbles low first (R40), wider ones little-endian (R39). -/
def unpack (w : Nat) (bs : List Byte) : List Nat :=
  if w < 8 then bs.flatMap (fun b => [b.toNat % 16, b.toNat / 16])
  else (chunks (w / 8) bs).map leNat

/-- Pairs of nibbles as bytes; an odd last one has a zero above it (R40). -/
def packNibbles : List Nat → List Byte
  | [] => []
  | [a] => [BitVec.ofNat 8 (a % 16)]
  | a :: b :: r => BitVec.ofNat 8 (a % 16 + 16 * (b % 16)) :: packNibbles r

/-- Elements of `w` bits as bytes (R39, R40). -/
def packElems (w : Nat) (xs : List Nat) : List Byte :=
  if w < 8 then packNibbles xs else xs.flatMap (leBytes (w / 8))

/-- Bytes of `k` elements of `w` bits. -/
def elemsSize (w k : Nat) : Nat := (w * k + 7) / 8

/-- One bit of a most-significant-bit-first CRC of width `k`. -/
def crcBit (k poly reg : Nat) (b : Bool) : Nat :=
  let top := (reg >>> (k - 1)) % 2 == 1
  let sh := (reg * 2) % 2 ^ k
  if top != b then sh ^^^ poly else sh

/-- A most-significant-bit-first CRC over the low `n` bits of `v`, highest bit first. -/
def crcBits (k poly : Nat) : Nat → Nat → Nat → Nat
  | reg, 0, _ => reg
  | reg, n + 1, v => crcBits k poly (crcBit k poly reg ((v >>> n) % 2 == 1)) n v

/-- A most-significant-bit-first CRC over bytes. -/
def crcBytes (k poly reg : Nat) (bs : List Byte) : Nat :=
  bs.foldl (fun r b => crcBits k poly r 8 b.toNat) reg

/-- The CRC-24 of a flit: polynomial 0x86_4CFB, initial value 0xFF_FFFF, over the payload and envelope bits [63:24]
(R206). The bit order is DEDUCED (log entry 25). -/
def crc24 (payload : List Byte) (envHigh : Nat) : Nat :=
  crcBits 24 0x864CFB (crcBytes 24 0x864CFB 0xFFFFFF payload) 40 envHigh

/-- The CRC-16 of a time code frame: polynomial 0x1021, initial value 0xFFFF, over bits 16 to 87 (R400). -/
def crc16 (n v : Nat) : Nat := crcBits 16 0x1021 0xFFFF n v

/-- One bit of a reflected CRC-64 step. -/
def crc64Step (reg : Nat) : Nat → Nat
  | 0 => reg
  | n + 1 => crc64Step (if reg % 2 == 1 then (reg / 2) ^^^ 0xC96C5795D7870F42 else reg / 2) n

/-- The running register of the CRC-64 of R273: polynomial 0x42F0_E1EB_A9EA_3693, reflected input and output (its
reflection is 0xC96C_5795_D787_0F42). -/
def crc64Reg (reg : Nat) (bs : List Byte) : Nat :=
  bs.foldl (fun r b => crc64Step (r ^^^ b.toNat) 8) reg

/-- The CRC-64 of R273: initial value and final XOR all ones. -/
def crc64 (bs : List Byte) : BitVec 64 :=
  BitVec.ofNat 64 (crc64Reg 0xFFFFFFFFFFFFFFFF bs ^^^ 0xFFFFFFFFFFFFFFFF)

end Sys2Proof.Machine
end

