-- ==== Sys2Proof/Machine/Float.lean ====
section
/-!
DEFINITION. The number formats of R38 to R50: exact values, rounding (R139 to R142), IEEE arithmetic (R131) and the
conversions of CVT (R138).
-/
namespace Sys2Proof.Machine

/-- A floating-point format: exponent bits, mantissa bits, bias, and whether it is one of the short formats (R41). -/
structure FFmt where
  ebits : Nat
  mbits : Nat
  bias : Nat
  short : Bool
  deriving DecidableEq, Repr

/-- The element formats of R38. -/
inductive Fmt where
  | fl (f : FFmt)
  | int (width : Nat) (signed : Bool)
  deriving DecidableEq, Repr

def fT4 : FFmt := { ebits := 2, mbits := 1, bias := 1, short := true }
def fT8 : FFmt := { ebits := 4, mbits := 3, bias := 7, short := true }
def fT8W : FFmt := { ebits := 5, mbits := 2, bias := 15, short := true }
def fT16 : FFmt := { ebits := 8, mbits := 7, bias := 127, short := false }
def fT32 : FFmt := { ebits := 8, mbits := 23, bias := 127, short := false }
def fTA : FFmt := { ebits := 11, mbits := 52, bias := 1023, short := false }

/-- The format of a code (R38); 0x6, 0x7, 0xE and 0xF are reserved. -/
def fmtOf : Nat → Option Fmt
  | 0 => some (.fl fT4) | 1 => some (.fl fT8) | 2 => some (.fl fT8W) | 3 => some (.fl fT16)
  | 4 => some (.fl fT32) | 5 => some (.fl fTA)
  | 8 => some (.int 8 true) | 9 => some (.int 8 false) | 10 => some (.int 16 true) | 11 => some (.int 32 true)
  | 12 => some (.int 32 false) | 13 => some (.int 64 true)
  | _ => none

def FFmt.width (f : FFmt) : Nat := 1 + f.ebits + f.mbits
/-- Width in bits (R38). -/
def Fmt.width : Fmt → Nat
  | .fl f => f.width
  | .int w _ => w

/-- A value: NaN, an infinity, or the exact `(-1)^neg × m × 2^e`. -/
inductive FV where
  | nan
  | inf (neg : Bool)
  | fin (neg : Bool) (m : Nat) (e : Int)
  deriving DecidableEq, Repr

/-- Weight of the last bit of a subnormal, as a power of two. -/
def FFmt.qmin (f : FFmt) : Int := 1 - (f.bias : Int) - f.mbits

/-- The value of a code (R42 to R48). -/
def FFmt.decode (f : FFmt) (c : Nat) : FV :=
  let neg := (c >>> (f.ebits + f.mbits)) % 2 == 1
  let e := (c >>> f.mbits) % 2 ^ f.ebits
  let m := c % 2 ^ f.mbits
  if f.short && neg && e == 0 && m == 0 then .nan
  else if !f.short && e == 2 ^ f.ebits - 1 then (if m == 0 then .inf neg else .nan)
  else if e == 0 then .fin neg m f.qmin
  else .fin neg (2 ^ f.mbits + m) (f.qmin + (e : Int) - 1)

/-- The canonical NaN (R48). -/
def FFmt.nan (f : FFmt) : Nat :=
  if f.short then 2 ^ (f.ebits + f.mbits) else (2 ^ f.ebits - 1) * 2 ^ f.mbits + 2 ^ (f.mbits - 1)

/-- The code of an infinity of a wide format. -/
def FFmt.inf (f : FFmt) (neg : Bool) : Nat := b2n neg * 2 ^ (f.ebits + f.mbits) + (2 ^ f.ebits - 1) * 2 ^ f.mbits

/-- The code of the largest finite value (R49). -/
def FFmt.maxFin (f : FFmt) (neg : Bool) : Nat :=
  b2n neg * 2 ^ (f.ebits + f.mbits) +
    (if f.short then 2 ^ (f.ebits + f.mbits) - 1 else (2 ^ f.ebits - 1) * 2 ^ f.mbits - 1)

/-- The rounding modes of R139; RSTO carries its draw (R140). -/
inductive RMode where
  | rne | rtz | rdn | rup
  | rsto (u : Nat)
  deriving DecidableEq, Repr

/-- Whether the magnitude `n + rem / 2^sh` rounds up to `n + 1` (R139, R140). -/
def RMode.up (r : RMode) (neg : Bool) (n rem sh : Nat) : Bool :=
  match r with
  | .rne => 2 * rem > 2 ^ sh || (2 * rem == 2 ^ sh && n % 2 == 1)
  | .rtz => false
  | .rdn => neg && rem != 0
  | .rup => !neg && rem != 0
  | .rsto u => decide (u < rem * 2 ^ 32 / 2 ^ sh)

/-- `m × 2^e` rounded to a multiple of `2^q`: that multiple. -/
def roundAt (r : RMode) (neg : Bool) (m : Nat) (e q : Int) : Nat :=
  if q ≤ e then m * 2 ^ (e - q).toNat
  else
    let sh := (q - e).toNat
    let n := m / 2 ^ sh
    let rem := m % 2 ^ sh
    if r.up neg n rem sh then n + 1 else n

/-- A value rounded once to the format (R139, R141, R142). `ovfNan` is the OVF bit of CVT. -/
def FFmt.encode (f : FFmt) (r : RMode) (ovfNan : Bool) (v : FV) : Nat :=
  match v with
  | .nan => f.nan
  | .inf neg => if f.short then (if ovfNan then f.nan else f.maxFin neg) else f.inf neg
  | .fin neg m e =>
    if m = 0 then (if f.short then 0 else b2n neg * 2 ^ (f.ebits + f.mbits)) else
    let top : Int := (Nat.log2 m : Int) + e
    let q := max (top - f.mbits) f.qmin
    let n := roundAt r neg m e q
    let code := (q - f.qmin).toNat * 2 ^ f.mbits + n
    let sgn := b2n neg * 2 ^ (f.ebits + f.mbits)
    if f.short then
      (if code ≥ 2 ^ (f.ebits + f.mbits) then (if ovfNan then f.nan else f.maxFin neg)
       else if code = 0 then 0 else sgn + code)
    else if code ≥ (2 ^ f.ebits - 1) * 2 ^ f.mbits then
      (match r with
       | .rtz => f.maxFin neg
       | .rdn => if neg then f.inf neg else f.maxFin neg
       | .rup => if neg then f.maxFin neg else f.inf neg
       | _ => f.inf neg)
    else sgn + code

/-- A value rounded once, RNE (R131). -/
def FFmt.rne (f : FFmt) (v : FV) : Nat := f.encode .rne false v

/-- The signed mantissa at exponent `e`, for an exponent not above the value's. -/
def scaled (neg : Bool) (m : Nat) (e base : Int) : Int :=
  let k : Int := (m * 2 ^ (e - base).toNat : Nat)
  if neg then -k else k

/-- Exact sum. An exact zero sum of operands that are not both −0 is +0 (R69). -/
def FV.add : FV → FV → FV
  | .nan, _ => .nan
  | _, .nan => .nan
  | .inf a, .inf b => if a == b then .inf a else .nan
  | .inf a, .fin _ _ _ => .inf a
  | .fin _ _ _, .inf b => .inf b
  | .fin na ma ea, .fin nb mb eb =>
    let e := min ea eb
    let t := scaled na ma ea e + scaled nb mb eb e
    if t = 0 then .fin (na && nb) 0 0 else .fin (decide (t < 0)) t.natAbs e

def FV.neg : FV → FV
  | .nan => .nan
  | .inf a => .inf (!a)
  | .fin n m e => .fin (!n) m e

def FV.abs : FV → FV
  | .nan => .nan
  | .inf _ => .inf false
  | .fin _ m e => .fin false m e

def FV.sub (a b : FV) : FV := a.add b.neg

/-- Exact product. -/
def FV.mul : FV → FV → FV
  | .nan, _ => .nan
  | _, .nan => .nan
  | .inf a, .inf b => .inf (a != b)
  | .inf a, .fin n m _ => if m = 0 then .nan else .inf (a != n)
  | .fin n m _, .inf b => if m = 0 then .nan else .inf (n != b)
  | .fin na ma ea, .fin nb mb eb => .fin (na != nb) (ma * mb) (ea + eb)

/-- Quotient to more than 100 bits and a sticky bit: enough that one rounding of it is the rounding of
the exact quotient. -/
def FV.div : FV → FV → FV
  | .nan, _ => .nan
  | _, .nan => .nan
  | .inf _, .inf _ => .nan
  | .inf a, .fin n _ _ => .inf (a != n)
  | .fin n _ _, .inf b => .fin (n != b) 0 0
  | .fin na ma ea, .fin nb mb eb =>
    if mb = 0 then (if ma = 0 then .nan else .inf (na != nb))
    else if ma = 0 then .fin (na != nb) 0 0
    else
      let k : Nat := 160
      let qt := ma * 2 ^ k / mb
      let st := if ma * 2 ^ k % mb = 0 then 0 else 1
      .fin (na != nb) (2 * qt + st) (ea - eb - k - 1)

/-- Integer square root, bit by bit. -/
def isqrtBits (n : Nat) : Nat → Nat → Nat
  | 0, r => r
  | i + 1, r =>
    let t := r + 2 ^ i
    isqrtBits n i (if t * t ≤ n then t else r)
def isqrt (n : Nat) : Nat := isqrtBits n (Nat.log2 n / 2 + 1) 0

/-- Square root to more than 128 bits and a sticky bit. -/
def FV.sqrt : FV → FV
  | .nan => .nan
  | .inf false => .inf false
  | .inf true => .nan
  | .fin n m e =>
    if m = 0 then .fin n 0 0
    else if n then .nan
    else
      let odd := e % 2 != 0
      let m' := (if odd then 2 * m else m) * 2 ^ 256
      let e' := (if odd then e - 1 else e) - 256
      let r := isqrt m'
      .fin false (2 * r + (if r * r = m' then 0 else 1)) (e' / 2 - 1)

/-- Compares two values that are not NaN; −0 and +0 are equal. -/
def FV.lt : FV → FV → Bool
  | .nan, _ => false
  | _, .nan => false
  | .inf a, .inf b => a && !b
  | .inf a, .fin _ _ _ => a
  | .fin _ _ _, .inf b => !b
  | .fin na ma ea, .fin nb mb eb =>
    let e := min ea eb
    decide (scaled na ma ea e < scaled nb mb eb e)

def FV.isNan : FV → Bool
  | .nan => true
  | _ => false

def FV.eq (a b : FV) : Bool := !a.isNan && !b.isNan && !a.lt b && !b.lt a

/-- True for a value with its sign bit set. -/
def FV.signed : FV → Bool
  | .nan => false
  | .inf n => n
  | .fin n _ _ => n

/-- The order of MIN and MAX: −0 below +0 (R131). -/
def FV.below (a b : FV) : Bool := a.lt b || (a.eq b && a.signed && !b.signed)

/-- NaN or infinity. -/
def FV.nonFinite : FV → Bool
  | .fin _ _ _ => false
  | _ => true

/-- The number that the low `w` bits of `c` hold (R50). -/
def intOf (w : Nat) (signed : Bool) (c : Nat) : Int :=
  let u := c % 2 ^ w
  if signed && u ≥ 2 ^ (w - 1) then (u : Int) - 2 ^ w else u

/-- The low `w` bits of an integer. -/
def ofInt (w : Nat) (v : Int) : Nat := (v % 2 ^ w).toNat

/-- The value of an element (R38). -/
def Fmt.decode (f : Fmt) (c : Nat) : FV :=
  match f with
  | .fl g => g.decode (c % 2 ^ g.width)
  | .int w sg => let v := intOf w sg c; .fin (decide (v < 0)) v.natAbs 0

/-- Smallest and largest values of an integer format (R50). -/
def intMin (w : Nat) (signed : Bool) : Int := if signed then -(2 ^ (w - 1)) else 0
def intMax (w : Nat) (signed : Bool) : Int := if signed then 2 ^ (w - 1) - 1 else 2 ^ w - 1

/-- A value converted to a format (R138 to R142). -/
def Fmt.encode (f : Fmt) (r : RMode) (ovfNan : Bool) (v : FV) : Nat :=
  match f with
  | .fl g => g.encode r ovfNan v
  | .int w sg =>
    match v with
    | .nan => 0
    | .inf neg => ofInt w (if neg then intMin w sg else intMax w sg)
    | .fin neg m e =>
      let n : Int := roundAt r neg m e 0
      let x := if neg then -n else n
      ofInt w (if x < intMin w sg then intMin w sg else if x > intMax w sg then intMax w sg else x)

/-! ### exp2 and log2 (R134) -/

/-- Bits of the fixed-point fractions used below. T32 arguments are multiples of 2^-149, and a value of exp2 or log2
that is not exact is irrational, so a result known to far more than 24 bits rounds as the exact value does. -/
def fxBits : Nat := 192
/-- ln 2 and 2 / ln 2 at that precision. -/
def fxLn2 : Nat := 4350955369971217654477563090224794165364344896676135745069
def fxTwoOverLn2 : Nat := 18111887089595741134167089618624923214743037179088274286946

/-- Sum of t^k / k! for k from `k0` on, from the term of index `k0 - 1`. -/
def expSeries (t : Nat) : Nat → Nat → Nat → Nat
  | 0, _, _ => 0
  | f + 1, k, term =>
    let term' := term * t / 2 ^ fxBits / k
    term' + expSeries t f (k + 1) term'

/-- 2^x for a T32 value (R134). -/
def FV.exp2 : FV → FV
  | .nan => .nan
  | .inf false => .inf false
  | .inf true => .fin false 0 0
  | .fin neg m e =>
    if m = 0 then .fin false 1 0
    else if (Nat.log2 m : Int) + e ≥ 9 then (if neg then .fin false 0 0 else .inf false)
    else
      let num : Int := m * 2 ^ (e + fxBits).toNat
      let x : Int := if neg then -num else num
      let n := x / 2 ^ fxBits
      let fr := (x % 2 ^ fxBits).toNat
      if fr = 0 then .fin false 1 n
      else
        let t := fr * fxLn2 / 2 ^ fxBits
        let v := 2 ^ fxBits + expSeries t 64 1 (2 ^ fxBits)
        .fin false (2 * v + 1) (n - fxBits - 1)

/-- Sum of z^(2k+1) / (2k+1). -/
def atanhSeries (z2 : Nat) : Nat → Nat → Nat → Nat
  | 0, _, _ => 0
  | f + 1, k, zp => zp / k + atanhSeries z2 f (k + 2) (zp * z2 / 2 ^ fxBits)

/-- log2 x for a T32 value (R134). -/
def FV.log2 : FV → FV
  | .nan => .nan
  | .inf neg => if neg then .nan else .inf false
  | .fin neg m e =>
    if m = 0 then .inf true
    else if neg then .nan
    else
      let k := Nat.log2 m
      let top : Int := (k : Int) + e
      if m = 2 ^ k then .fin (decide (top < 0)) top.natAbs 0
      else
        let y := m * 2 ^ fxBits / 2 ^ k
        let z := (y - 2 ^ fxBits) * 2 ^ fxBits / (y + 2 ^ fxBits)
        let s := atanhSeries (z * z / 2 ^ fxBits) 72 1 z
        let v : Int := top * 2 ^ fxBits + (s * fxTwoOverLn2 / 2 ^ fxBits : Nat)
        .fin (decide (v < 0)) (2 * v.natAbs + 1) (-(fxBits : Int) - 1)

end Sys2Proof.Machine
end

