-- ==== Sys2Proof/Machine/Dot.lean ====
section
/-!
DEFINITION. The dot product of one output element of a cell (R56, R59 to R75).
-/
namespace Sys2Proof.Machine

/-- What an operand pair fixes (R56): formats, reduction depth per pass, products per group, F, and the accumulator's
width (R64). -/
structure Pair where
  fa : FFmt
  fb : FFmt
  kpass : Nat
  group : Nat
  f : Nat
  w : Nat
  deriving DecidableEq, Repr

/-- The accepted pairs (R56). -/
def pairOf (a b : Nat) : Option Pair :=
  let one : Nat → Option FFmt := fun c => if c = 0 then some fT4 else if c = 1 then some fT8
    else if c = 2 then some fT8W else none
  if a = 3 ∧ b = 3 then some { fa := fT16, fb := fT16, kpass := 64, group := 8, f := 31, w := 48 }
  else if a = 0 ∧ b = 0 then some { fa := fT4, fb := fT4, kpass := 256, group := 32, f := 11, w := 24 }
  else
    match one a, one b with
    | some x, some y => some { fa := x, fb := y, kpass := 128, group := 16, f := 15, w := 24 }
    | _, _ => none

/-- The sticky flags of an element (R72). -/
structure Sticky where
  nan : Bool
  pinf : Bool
  ninf : Bool

/-- The flags that the products set (R72). -/
def stickyOf (ps : List FV) : Sticky :=
  { nan := ps.any (·.isNan), pinf := ps.any (· == .inf false), ninf := ps.any (· == .inf true) }

/-- A nonzero finite product with its exponent E(p) (R61). -/
structure Prod1 where
  neg : Bool
  m : Nat
  e : Int

def Prod1.top (p : Prod1) : Int := (Nat.log2 p.m : Int) + p.e

/-- The nonzero finite products among values. -/
def finites (ps : List FV) : List Prod1 := ps.filterMap (fun v =>
  match v with
  | .fin n m e => if m = 0 then none else some { neg := n, m := m, e := e }
  | _ => none)

/-- `m × 2^k` truncated toward zero. -/
def shiftTrunc (m : Nat) (k : Int) : Nat := if 0 ≤ k then m * 2 ^ k.toNat else m / 2 ^ (-k).toNat

/-- A non-empty group as (E_g, S_g) (R62). -/
def groupSum (f : Nat) (ps : List FV) : Option (Int × Int) :=
  match finites ps with
  | [] => none
  | p :: rest =>
    let eg := rest.foldl (fun m x => max m x.top) p.top
    let s := (p :: rest).foldl (fun acc x =>
      let q : Int := shiftTrunc x.m (x.e + f - eg)
      if x.neg then acc - q else acc + q) 0
    some (eg, s)

/-- A group sum on the chunk grid (R66). -/
def alignTo (s d : Int) : Int :=
  let q : Int := shiftTrunc s.natAbs d
  if s < 0 then -q else q

/-- True where a value fits the accumulator (R64). -/
def fits (w : Nat) (x : Int) : Bool := decide (-(2 ^ (w - 1)) ≤ x) && decide (x ≤ 2 ^ (w - 1) - 1)

/-- One attempt at a chunk: the accumulator, or nothing when an intermediate value overflows (R66). -/
def attempt (w : Nat) (ec : Int) : List (Int × Int) → Int → Option Int
  | [], a => some a
  | (eg, s) :: gs, a =>
    let x := alignTo s (eg - ec)
    if fits w x && fits w (a + x) then attempt w ec gs (a + x) else none

/-- The defined result of a chunk with its retry count (R67). No chunk needs more than 128 retries (R68). -/
def chunkRun (w : Nat) (gs : List (Int × Int)) : Nat → Int → Nat → Int × Int × Nat
  | 0, ec, n => (0, ec, n)
  | fuel + 1, ec, n =>
    match attempt w ec gs 0 with
    | some a => (a, ec, n)
    | none => chunkRun w gs fuel (ec + 4) (n + 1)

/-- Adds a value to a TA total, RNE (R69). -/
def addTA (total : Nat) (v : FV) : Nat := fTA.rne ((fTA.decode total).add v)

/-- One chunk added to a total, with its retry count (R65 to R69). -/
def chunkStep (p : Pair) (head : Nat) (total : Nat) (ps : List FV) : Nat × Nat :=
  let gs := (chunks p.group ps).filterMap (groupSum p.f)
  match gs with
  | [] => (total, 0)
  | (eg, _) :: _ =>
    let r := chunkRun p.w gs 140 (eg + 4 * head) 0
    let v : FV := if r.1 = 0 then .fin false 0 0 else .fin (decide (r.1 < 0)) r.1.natAbs (r.2.1 - p.f)
    (addTA total v, r.2.2)

/-- The chunks of one pass in K order: the total and the largest retry count. -/
def passStep (p : Pair) (c head : Nat) (total : Nat) (ps : List FV) : Nat × Nat :=
  (chunks (p.group * c) ps).foldl (fun acc ch =>
    let r := chunkStep p head acc.1 ch
    (r.1, max acc.2 r.2)) (total, 0)

/-- The delivery of R73. -/
def deliverTA (total : Nat) (k : Sticky) : Nat :=
  let out :=
    if k.nan || (k.pinf && k.ninf) then fTA.nan
    else if k.pinf then addTA total (.inf false)
    else if k.ninf then addTA total (.inf true)
    else total
  if (fTA.decode out).isNan then fTA.nan else out

/-- One output element (R74): its TA bits and the retry count of each pass. `c` is the chunk length. -/
def dotElement (p : Pair) (c head start : Nat) (as bs : List Nat) : Nat × List Nat :=
  let ps := List.zipWith (fun a b => (p.fa.decode a).mul (p.fb.decode b)) as bs
  let run := (chunks p.kpass ps).foldl (fun acc pass =>
    let r := passStep p c head acc.1 pass
    (r.1, acc.2 ++ [r.2])) (start, [])
  (deliverTA run.1 (stickyOf ps), run.2)

/-- The largest of two lists of repeat counts, pass by pass (R70). -/
def maxRepeats (a b : List Nat) : List Nat :=
  if a.isEmpty then b else List.zipWith max a b

end Sys2Proof.Machine
end

