-- ==== Sys2Proof/Config.lean ====
section
/-!
DEFINITION. What the specification leaves to the implementation or to the fuses. Every constant here is
opaque: it has no body, so no proof can rest on a value of it (log entries 1, 2, 20 to 24 and 62).
-/
namespace Sys2Proof.Config

/-- FREE VALUE: the random words that hardware draws (shadow selector, key pairs, signature nonces),
by a counter the step reads and advances (R308, R344; log entry 20). -/
opaque freeNat : Nat → Nat
/-- FREE VALUE: cycles by which debug mode lengthens an operation, by its word, its planned duration and the PSC at which it issues:
a function of program, data and mode, of which R97 gives only "about 0.7" (log entry 21). -/
opaque debugExtra : Nat → Nat → Nat → Nat
/-- FREE VALUE: the OFFSET field of `TIM_PARENT` for an offset in ps that its 16 bits do not hold (R36; log entry 99). -/
opaque farOffset : Int → BitVec 16
/-- FREE VALUE: number of an FLT CODE; R320 names the field and no values (log entry 22). -/
opaque fltCodeNumber : Nat → BitVec 16
/-- FREE VALUE: payload bytes of an FLT event, "defined per CODE" and not given (R320; log entry 22). -/
opaque fltPayload : Nat → Nat → BitVec 128
/-- FREE VALUE: CTRL bits of a flit. R208 gives the symbols' types, order and lengths, not the place of
their fields (log entry 23). -/
opaque ctrlBits : Nat → BitVec 20
/-- FREE VALUE: CPER header fields the specification does not place (R323; log entry 24). -/
opaque cperByte : Nat → Nat → Byte
/-- SECRET: the attestation key, derived from fuses inside SEC; it leaves by no path (R341). -/
opaque attestationKey : Nat
/-- The public key whose SHA-384 the fuses hold, against which firmware images are verified (R367). -/
opaque firmwareKeyX : Nat
/-- Second coordinate of the firmware public key (R367). -/
opaque firmwareKeyY : Nat
/-- The device's certificate chain in DER (R341): fixed from fuses. -/
opaque certByte : Nat → Byte
/-- Length in bytes of the certificate chain (R341). -/
opaque certLen : BitVec 32
/-- SHA-256 of the boot ROM (R342). -/
opaque bootRomDigest : BitVec 256
/-- Thrumpor's JEDEC manufacturer code in the JTAG IDCODE (R399): not given. -/
opaque jedecCode : BitVec 11
/-- Levels that the boundary scan register captures at the pins, by capture and cell (R399): the order and
number of cells is not given. -/
opaque boundaryCapture : Nat → Nat → Bool
/-- Number of cells of the boundary scan register (R399): not given. -/
opaque boundaryLength : Nat
/-- FREE VALUE: a byte of the known-answer suites' kernels' identity (R326). -/
opaque katKernel : Nat → Byte

/-- Digest of the image that a target's slot 0 holds as delivered (R342, R367): not given (log entry 62). -/
opaque deliveredDigest : Nat → BitVec 256

end Sys2Proof.Config
end

