-- ==== Sys2Proof/Machine/State.lean ====
section
/-!
DEFINITION. The state of the NT2596 as plain data, every field at its reset value. Tables over many like units are
sparse lists of (index, value) pairs in rising order that list no entry equal to the table's default; Machine/Ops.lean
holds their one reader and one writer. Fields that no rule names but that a rule implies (a transfer in progress)
say so.
-/
namespace Sys2Proof.Machine

/-- A sparse table, sorted by index, that lists no default entry. -/
abbrev Tab (α : Type) := List (Nat × α)

/-- Byte memory in the canonical form of Host.Cell. Local addresses of R174 number it. -/
abbrev Mem := List Host.Cell

/-- What the fuses fix (R3, R11, R342): never written by a command. -/
structure Fuses where
  revMajor    : BitVec 4 := 0xA
  revMinor    : BitVec 4 := 0x0
  linkPresent : BitVec 4 := 0xF
  stackH      : BitVec 4 := 0x8
  debugOff    : Bool := false
  svn         : BitVec 8 := 0
  identity    : BitVec 128 := 0
  deriving DecidableEq, Repr

/-- Hub registers and start-up state (R371 to R373, R319, R318, R326, R95, R385, R401, R380), the message sequence
numbers sent and accepted per device and class (R210), and the hasp symbols on their way through the hub, with the hall time at
which their partition acts on them (R166). -/
structure Hub where
  ready : Bool := false
  dupnum : Bool := false
  warm : Bool := false
  slotFallback : Bool := false
  bootFail : Bool := false
  stage : BitVec 8 := 0
  failcode : BitVec 8 := 0
  devnoValid : Bool := false
  devno : BitVec 16 := 0
  bootlog : Tab (BitVec 32) := []
  repl : BitVec 9 := 0
  ceMax : BitVec 12 := 0x100
  laneMax : BitVec 7 := 0x08
  chMin : BitVec 3 := 2
  cellMin : BitVec 2 := 1
  dbCount : BitVec 8 := 0
  dbCause : BitVec 8 := 0
  dbDie : BitVec 8 := 0
  dbUnit : BitVec 8 := 0
  katBusy : Bool := false
  katSuite : BitVec 4 := 0
  katResult : BitVec 8 := 0
  katFail : BitVec 32 := 0
  debugMode : Bool := false
  debugRefused : Bool := false
  aper : BitVec 64 := 0
  alert : BitVec 6 := 0
  alertEn : BitVec 32 := 0x3F
  topoSettled : Bool := false
  topoDup : Bool := false
  topo : Tab (BitVec 8) := []
  topoIdent : Tab (BitVec 128) := []
  topoSeq : Tab Nat := []
  topoChange : BitVec 64 := 0
  staleWr : BitVec 32 := 0
  staleLog : Tab (List Byte) := []
  txSeq : List (Nat × Nat × Nat) := []
  rxSeq : List (Nat × Nat × Nat) := []
  pwrOk : Bool := false
  stopped : Bool := true
  perst : Bool := false
  perstSince : BitVec 64 := 0
  railsWait : Bool := false
  deadboltPending : Bool := false
  deadboltAt : BitVec 64 := 0
  healthSeq : Nat := 0
  haspDue : List (BitVec 64 × Nat × HaspSym) := []
  deriving DecidableEq, Repr

/-- The TIM block and the device's part in the pintle tree (R16 to R21, R36, R377 to R379, R400). `pintlePri` to `pintleIdent`
are the candidate adopted in an election, `idPri` and `idDev` the elected pintle that `TIM_PINTLE_ID` shows; `phase` is what
slewing has gained on the array clock and not yet turned into a cycle, in units; `steppedAt` is the hall time of the last step. -/
structure Tim where
  state : TimeState := .unlocked
  depth : BitVec 4 := 0xF
  parentDie : BitVec 2 := 0
  parentLink : BitVec 5 := 0
  hall : BitVec 64 := 0
  src : Bool := false
  pri : BitVec 8 := 0xFF
  pintlePri : BitVec 8 := 0xFF
  pintleDev : BitVec 16 := 0xFFFF
  pintleIdent : BitVec 128 := 0
  idPri : BitVec 8 := 0xFF
  idDev : BitVec 16 := 0xFFFF
  lead : BitVec 24 := 0x00FA00
  maxMs : BitVec 20 := 0x0EA60
  int : BitVec 5 := 0
  delay : BitVec 16 := 0
  offset : BitVec 16 := 0
  settled : Bool := false
  waiting : Bool := false
  noticeAt : BitVec 64 := 0
  lastLower : BitVec 64 := 0
  ineligible : Bool := false
  holdoverAt : BitVec 64 := 0
  lockedAt : BitVec 64 := 0
  rejoin : Option (BitVec 16) := none
  codeGood : Nat := 0
  codeBad : Nat := 0
  codeValid : Bool := false
  codeT : BitVec 64 := 0
  slewing : Bool := false
  holdSeq : BitVec 8 := 0
  seen : List (Nat × Nat) := []
  startWritten : BitVec 2 := 0
  electAt : BitVec 64 := 0
  badCands : List Nat := []
  tree : BitVec 16 := 0xFFFF
  codeOff : BitVec 64 := 0
  slewFrames : Nat := 0
  phase : Int := 0
  steppedAt : BitVec 64 := 0
  deriving DecidableEq, Repr

/-- A raise or release in force or awaited in a domain (R29). `own` marks one this device sent. -/
structure HoldRec where
  source : BitVec 16
  seq : BitVec 8
  release : Bool
  effect : BitVec 64
  taken : Bool
  deriving DecidableEq, Repr

/-- The sources of a stall (R25). -/
inductive StallCause where
  | dram | retry | prefetch | remote | latch | snapshot | power
  deriving DecidableEq, Repr

/-- A domain slot `TIM_DOM[n]` (R37) with the holds in force and the stalls of its partition. `jump` is a catch-up (R26) under
way: the PSC value it goes to and the hall time at which the last operation it issued ends. -/
structure Dom where
  active : Bool := false
  domain : BitVec 12 := 0
  diam : BitVec 8 := 0
  held : Bool := false
  broken : Bool := false
  origin : BitVec 64 := 0
  heldTotal : BitVec 64 := 0
  heldSince : BitVec 64 := 0
  holdMaxSent : Bool := false
  psc : BitVec 64 := 0
  holdCount : BitVec 32 := 0
  lateStrike : BitVec 32 := 0
  holds : List HoldRec := []
  stalls : List (StallCause × Nat) := []
  lastPowerFrame : BitVec 64 := 0
  lostRaises : Nat := 0
  jump : Option (BitVec 64 × BitVec 64) := none
  deriving DecidableEq, Repr

/-- `HUB_LOAD[n].STATUS.STATE` (R98). -/
inductive LoadState where
  | empty | loading | loaded | running | done | faulted | failed
  deriving DecidableEq, Repr, Inhabited

/-- The metered power of a partition over 100 ms intervals of hall time (R336): the interval that runs with the sum and the number of
its milliseconds, and the one before it with its mean. -/
structure Meter where
  int : Nat := 0
  sum : Nat := 0
  cnt : Nat := 0
  lastInt : Nat := 0
  lastMean : Nat := 0
  deriving DecidableEq, Repr

/-- `HUB_PART[n]` and what the ward, the power control and the VF view keep per partition (R329 to R336, R360). `tagged` says that a
LOAD has given the partition a ward tag. -/
structure PartCfg where
  en : Bool := false
  vfown : Bool := false
  gen : BitVec 11 := 0
  cfgErr : Bool := false
  qmask : BitVec 80 := 0
  cap : BitVec 16 := 0x0E10
  pwr : BitVec 16 := 0
  lkrej : BitVec 32 := 0
  duty : BitVec 11 := 0
  vpwr : BitVec 16 := 0
  tagged : Bool := false
  meter : Meter := {}
  vfStall : BitVec 48 := 0
  vfPower : BitVec 48 := 0
  vfFrames : BitVec 48 := 0
  deriving DecidableEq, Repr

/-- `HUB_LOAD[n]` (R98). `unloading` says that the command in progress is UNLOAD. -/
structure LoadReg where
  state : LoadState := .empty
  result : BitVec 8 := 0
  param : BitVec 64 := 0
  unloading : Bool := false
  deriving DecidableEq, Repr

/-- `HUB_PFAULT[n]` (R94). -/
structure PFault where
  valid : Bool := false
  haz : BitVec 2 := 0
  detail : BitVec 8 := 0
  code : BitVec 8 := 0
  whr : BitVec 32 := 0
  qpos : BitVec 32 := 0
  insn : BitVec 128 := 0
  psc : BitVec 64 := 0
  addr : BitVec 64 := 0
  whr2 : BitVec 32 := 0
  qpos2 : BitVec 32 := 0
  psc2 : BitVec 64 := 0
  count : BitVec 32 := 0
  deriving DecidableEq, Repr

/-- `HUB_SYNC[n]` (R173), without the two counts that are computed. -/
structure SyncReg where
  dlValid : Bool := false
  dlLqtr : BitVec 8 := 0
  dlKind : BitVec 4 := 0
  dlLatch : BitVec 19 := 0
  dlTarget : BitVec 64 := 0
  stale : BitVec 32 := 0
  deriving DecidableEq, Repr

/-- `HUB_CTX[n]` (R170) and `HUB_RWD[n]` (R312). `restoring` says that the context command in progress is RESTORE. -/
structure CtxReg where
  busy : Bool := false
  restoring : Bool := false
  result : BitVec 8 := 0
  addr : BitVec 64 := 0
  len : BitVec 32 := 0
  rwdBusy : Bool := false
  rwdResult : BitVec 8 := 0
  substMux : BitVec 8 := 0
  substCells : BitVec 8 := 0
  deriving DecidableEq, Repr

/-- A transfer that a record window holds back until HDMA accepts its copy (R277): its hosted rank, its descriptor and payload,
the message that then counts as landed, or the operation (and how many bytes) that then has its host bytes; the PSC of its entry
where that is not the one at landing; the units of its record that HDMA has accepted and the ring position of the first; and
whether it has a record, or only waits behind an older one of its source and tag. -/
structure RecCopy where
  own : Nat
  desc : List Byte
  payload : List Byte
  msg : Option (Nat × Msg)
  op : Option (Nat × Nat)
  psc : Option (BitVec 64) := none
  units : Nat := 0
  pos : BitVec 32 := 0
  copy : Bool := true
  deriving DecidableEq, Repr

/-- `HUB_REC[n]` (R278). `logFrom` is the log position at which a replay began, `ending` says that it has reached its last strike
and lets the operations in flight end (R282). -/
structure RecReg where
  fp : Bool := false
  replay : Bool := false
  stopmm : Bool := false
  trace : Bool := false
  log2 : BitVec 5 := 0
  cfgErr : Bool := false
  ovf : Bool := false
  mm : Bool := false
  win : Bool := false
  corrupt : Bool := false
  nodata : Bool := false
  endd : Bool := false
  logBase : BitVec 64 := 0
  dataBase : BitVec 64 := 0
  dataSize : BitVec 32 := 0
  winFirst : BitVec 32 := 0
  winLast : BitVec 32 := 0
  winFirstNext : BitVec 32 := 0
  winLastNext : BitVec 32 := 0
  logWr : BitVec 32 := 0
  logRd : BitVec 32 := 0
  dataWr : BitVec 32 := 0
  dataRd : BitVec 32 := 0
  dropped : BitVec 32 := 0
  mmCount : BitVec 32 := 0
  mmPsc : BitVec 64 := 0
  mmPeer : BitVec 32 := 0
  mmTk : BitVec 32 := 0
  mmRec : BitVec 64 := 0
  mmGot : BitVec 64 := 0
  full : Bool := false
  waiting : List RecCopy := []
  outSeen : List (Nat × Nat) := []
  logFrom : BitVec 32 := 0
  ending : Bool := false
  deriving DecidableEq, Repr

/-- `KWY_SNAP[n].STATUS.STATE` (R302). -/
inductive SnapState where
  | idle | armed | draining | done | aborted
  deriving DecidableEq, Repr

/-- A copied page in the snapshot buffer of a column (R290): rank index, page number, its old bytes. -/
structure BufPage where
  own : Nat
  page : Nat
  col : Nat
  bytes : List Host.Cell
  deriving DecidableEq, Repr

/-- What the snapshot strike captures of one hosted rank (R288), with the digests the drain has made (R294). -/
structure SnapRank where
  own : Nat
  context : List Byte
  step : BitVec 32
  jobSeed : BitVec 64
  seeds : List (BitVec 64)
  digests : Tab (BitVec 256)
  deriving DecidableEq, Repr

/-- `KWY_SNAP[n]` and the snapshot in progress (R286 to R302). `tainted` says that a comparison has found a mismatch since the
state was last made whole, by a load, a rewind or a restore (R310). `reading` lists the page that the drain of each column reads
or sends: column, hosted rank, page, and whether it is a buffered copy (R292); `ctxSent` says that the contexts are on their way to
the peer (R293). -/
structure SnapReg where
  state : SnapState := .idle
  cfgErr : Bool := false
  rbusy : Bool := false
  arm : Bool := false
  dest : Bool := false
  buf : BitVec 4 := 8
  epoch : BitVec 32 := 0
  daddr : BitVec 64 := 0
  peer : BitVec 16 := 0
  grant : BitVec 32 := 0
  bufmax : BitVec 32 := 0
  stalls : BitVec 32 := 0
  raddr : BitVec 64 := 0
  rsrc : BitVec 32 := 0
  rown : BitVec 3 := 0
  rresult : BitVec 8 := 0
  restored : List Nat := []
  pages : List BufPage := []
  ranks : List SnapRank := []
  strikeHall : BitVec 64 := 0
  strikePsc : BitVec 64 := 0
  strikeEpoch : BitVec 32 := 0
  strikeFlags : BitVec 32 := 0
  tainted : Bool := false
  marked : List (Nat × Nat) := []
  reading : List (Nat × Nat × Nat × Bool) := []
  ctxSent : Bool := false
  deriving DecidableEq, Repr

/-- `SEC_KEY[n]`, `SEC_DEC[n]` and the partition's keys, messages and weight entries (R337 to R347). -/
structure DecMsg where
  src : BitVec 64
  own : Nat
  dst : Nat
  len : Nat
  slot : Nat
  iv : List Byte
  tag : List Byte
  pos : Nat
  result : BitVec 8
  cipher : List Byte
  deriving DecidableEq, Repr

/-- A weight entry of the escutcheon (R342). -/
structure WeightEntry where
  slot : BitVec 8
  result : BitVec 8
  len : BitVec 64
  cipher : BitVec 256
  plain : BitVec 256
  deriving DecidableEq, Repr

/-- The sealed path of one partition (R337 to R347). `keyWindow` says that the INSTALL in progress came in an activation window;
`slotWard` holds the ward tag of each key slot (R333). -/
structure KeyReg where
  keyBusy : Bool := false
  keyResult : BitVec 8 := 0
  keyAddr : BitVec 64 := 0
  decBusy : Bool := false
  decResult : BitVec 8 := 0
  decAddr : BitVec 64 := 0
  keyWindow : Bool := false
  slots : Tab (List Byte) := []
  slotWard : Tab (BitVec 16) := []
  ecdh : Option Nat := none
  msg : Option DecMsg := none
  count : Nat := 0
  weights : List WeightEntry := []
  deriving DecidableEq, Repr

/-- `KWY_PSTAT[n]` and `KWY_HOSTWIN[n]` (R204). -/
structure KwyPart where
  winEn : Bool := false
  winSize : BitVec 11 := 0
  winBase : BitVec 10 := 0
  haddr : BitVec 64 := 0
  dramPages : BitVec 32 := 0
  hostPages : BitVec 32 := 0
  moves : BitVec 32 := 0
  defer : BitVec 32 := 0
  rrej : BitVec 32 := 0
  deriving DecidableEq, Repr

/-- A segment entry of the placement plan (R185). -/
structure Seg where
  symbol : Nat
  flags : BitVec 8
  pclass : Nat
  homes : BitVec 8
  near : Nat
  size : Nat
  grant : Nat
  peer : Nat
  exp : Nat
  deriving DecidableEq, Repr

/-- A logical column entry (R185). -/
structure LCol where
  first : Nat
  count : Nat
  hot : Nat
  deriving DecidableEq, Repr

/-- An export entry (R186), offset and length in 4 KiB units. -/
structure Exp where
  seg : Nat
  off : Nat
  len : Nat
  rights : BitVec 8
  deriving DecidableEq, Repr

/-- An ORIGIN record (R219). -/
structure Origin where
  rank : Nat
  die : Nat
  link : Nat
  route : Nat
  altDie : Nat
  altLink : Nat
  altRoute : Nat
  deriving DecidableEq, Repr

/-- What the loader keeps of the loaded object and its parameter block (R76, R99, R184). -/
structure Obj where
  digest : BitVec 256
  core : BitVec 256
  ranks : Nat
  quarters : Nat
  planLead : Nat
  map : List (Nat × Nat)
  own : List Nat
  startTime : BitVec 64
  rhops : Nat
  cols : List LCol
  segs : List Seg
  exps : List Exp
  origins : List Origin
  dies : List Nat
  deriving DecidableEq, Repr

/-- The homes of R185. -/
inductive Home where
  | loc | neigh | remote | host
  deriving DecidableEq, Repr

/-- A page entry (R191): home, frame (a 2 MiB frame of the local address space), ward, COW mark, and the seal of
R338; `closed` says that the message that sealed it has not ended with OK. -/
structure Page where
  home : Home
  frame : Nat
  ward : BitVec 16
  cow : Bool
  sealed : Bool
  closed : Bool := false
  deriving DecidableEq, Repr

/-- A keyway move in progress (R190): the new frames, the pages copied and the pages dirtied since. -/
structure MoveRec where
  own : Nat
  seg : Nat
  home : Home
  frames : List Nat
  clean : List Nat
  deriving DecidableEq, Repr

/-- The binding of a loaded partition (R187): physical quarters of the logical quarters of each hosted rank in
order, physical cells of the logical cells, latches and hasps by rank index and logical number, queues by logical number
(the index of a STREAM section), HDMA channels; `muxed` are the logical cells that their pair serves (R314), `clxNames` the CLX streams
by each hosted rank's own names (R247), and `ward` is the tag that every bound latch carries (R333). -/
structure Bind where
  quarters : List Nat := []
  cells : List (Nat × Nat) := []
  latches : List (Nat × Nat) := []
  hasps : List (Nat × Nat) := []
  queues : List (Nat × Nat) := []
  hdma : List (Nat × Nat) := []
  muxed : List Nat := []
  clxNames : List (Nat × Nat × Nat) := []
  ward : BitVec 16 := 0
  deriving DecidableEq, Repr

/-- The spaces in which instructions of a stream can meet (R107, R129). -/
inductive Space where
  | mem (own : Nat)
  | tb (cell : Nat)
  | vreg
  | gen
  | slot (kind : Nat)
  deriving DecidableEq, Repr

/-- A range of a space, half open. -/
structure Rng where
  space : Space
  lo : Nat
  hi : Nat
  deriving DecidableEq, Repr

/-- The generator state of a VX slice (R126). `none` for the keys stands for the keys derived from the zero seeds. -/
structure VxGen where
  job : BitVec 64 := 0
  step : BitVec 32 := 0
  seeds : List (BitVec 64) := []
  deriving DecidableEq, Repr

/-- What a UUPD or a UCHK decides (R261, R263, R267): whether it counts as an update, its decision and the q it read. -/
structure UuDecided where
  upd : Bool
  dec : BitVec 2
  sq : Option (BitVec 64)
  deriving DecidableEq, Repr

/-- What a UUPD has done at its visibility point (R260, R267): the elements written and those left unchanged. -/
structure UuDone where
  written : Nat
  nonfin : Nat
  deriving DecidableEq, Repr

/-- An effect that an operation makes at its visibility point (R88). -/
inductive Wr where
  | mem (own : Nat) (addr : Nat) (bytes : List Byte)
  | tb (cell : Nat) (idx : Nat) (vals : List (BitVec 64))
  | vreg (quarter : Nat) (reg : Nat) (vals : List (BitVec 64))
  | latch (l : Nat) (amount : Nat)
  | bind (filled drained nbuf : Nat)
  | mask (window : BitVec 32) (mode : BitVec 2) (qbase kbase : BitVec 32)
  | gen (quarter : Nat) (g : VxGen)
  | lset (tag : BitVec 16) (cls : BitVec 2) (len : BitVec 24)
  | desc (own slot : Nat) (b : List Byte)
  | rule (slot : Nat) (b : List Byte)
  | comb (slot : Nat) (b : List Byte)
  | borrow (mask : BitVec 4) (sel : BitVec 2)
  | unborrow
  | uuDec (quarter : Nat) (act : UuDecided)
  | uuUpd (quarter : Nat) (act : UuDone)
  | nonfin (cell : Nat) (k : Nat)
  | post (bytes : List Byte)
  | hcfg (hasp : Nat) (kind : BitVec 2) (rlatch nslot : Nat)
  | irq
  deriving DecidableEq, Repr

/-- What kind of wait an operation makes at its visibility point. -/
inductive Wait where
  | none
  | latch (l : Nat) (target : Nat) (dln : Nat)
  | hasp (h : Nat) (gen : BitVec 32)
  deriving DecidableEq, Repr

/-- The multiply passes of an MMW or MMA (R70, R122): the cell, the pass time, for each pass its repeat count, the
pass in progress, the repeats it still owes and the hall time at which the repeat in progress ends. -/
structure Passes where
  cell : Nat
  time : Nat
  repeats : List Nat
  idx : Nat
  owed : Nat
  endAt : BitVec 64 := 0
  deriving DecidableEq, Repr

/-- The part that one hosted rank plays in a collective (R231, R247): its descriptor, which of its steps are done, how many of
its two requests for memory that is not here have gone out (R189, R192), and on the root the sums of squares of the two trees
(R237). -/
structure CollRank where
  own : Nat
  desc : List Byte
  up0 : Bool
  up1 : Bool
  down0 : Bool
  down1 : Bool
  sq : Bool
  counts : Bool
  data : Bool
  applied : Bool
  asked : Nat := 0
  sq0 : Nat := 0
  sq1 : Nat := 0
  deriving DecidableEq, Repr

/-- A collective operation in progress (R231): opcode and SUB, slot, root or shift, tag, and its hosted ranks. -/
structure Coll where
  opc : Nat
  sub : Nat
  slot : Nat
  root : Nat
  tag : BitVec 16
  strike : BitVec 64
  ranks : List CollRank
  deriving DecidableEq, Repr

/-- An operation in flight (R88): its stream, word and queue position, the PSC at which it issued and at which it
becomes visible, its unit, the ranges it reads and writes, what it will make visible, what it waits on, the bytes it
still expects from outside, its multiply passes and its collective; for debug mode the accesses ordered before it
(R96); whether its effects are computed only when what it reads from a remote home has arrived (R189); and whether a part of them
has been made and `pend` holds the rest (R290). -/
structure Op where
  id : Nat
  sid : StreamId
  word : InsnWord
  qpos : BitVec 32
  issue : BitVec 64
  vis : BitVec 64
  unit : Nat
  rd : List Rng
  wr : List Rng
  pend : List Wr
  wait : Wait
  want : Nat
  cause : StallCause
  passes : Option Passes
  coll : Option Coll
  stallFrom : Option (BitVec 64)
  expired : Bool
  known : List Nat
  deferred : Bool
  partly : Bool := false
  deriving DecidableEq, Repr

/-- One stream of a loaded partition (R79, R85, R86) with the state its engine keeps per stream (R116, R196, R228,
R257) and its patched image. Descriptor slots are kept for each hosted rank (R247), `descKey` numbers them. `reached` is the PSC at which it reached the instruction at its queue head (R27), `tried` says that its engine has not
accepted that instruction, and that nothing has happened since on which the acceptance depends (R88). -/
structure Stream where
  sid : StreamId
  rank : Nat
  queue : Nat
  image : List InsnWord
  epoch : BitVec 32 := 0
  ctr0 : BitVec 32 := 0
  ctr1 : BitVec 32 := 0
  ctr2 : BitVec 32 := 0
  ctr3 : BitVec 32 := 0
  halted : Bool := false
  stopped : Bool := false
  armed : Bool := false
  raised : Bool := false
  lastIssue : BitVec 64 := 0
  reached : BitVec 64 := 0
  tried : Bool := false
  interval : Nat := 0
  maskWindow : BitVec 32 := 0
  maskMode : BitVec 2 := 0
  maskQ : BitVec 32 := 0
  maskK : BitVec 32 := 0
  ltag : BitVec 16 := 0
  lcls : BitVec 2 := 0
  llen : BitVec 24 := 0
  descs : Tab (List Byte) := []
  rules : Tab (List Byte) := []
  combs : Tab (List Byte) := []
  bmask : BitVec 4 := 0
  bsel : BitVec 2 := 0
  collSeq : BitVec 16 := 0
  known : List Nat := []
  crc : BitVec 64 := 0xFFFFFFFFFFFFFFFF
  deriving DecidableEq, Repr

/-- A (source device, tag) entry (R159). -/
structure TagEntry where
  src : BitVec 16
  tag : BitVec 16
  landed : Nat
  consumed : Nat
  deriving DecidableEq, Repr

/-- A held signal (R159), in the order sent; `dead` marks one that met its condition and broke a pair bound. -/
structure HeldSig where
  src : BitVec 16
  tag : BitVec 16
  msg : Msg
  cls : Nat
  arrived : BitVec 64
  dead : Bool
  deriving DecidableEq, Repr

/-- A part of the memory that an operation reads and whose bytes must come from elsewhere (R189, R192): hosted rank, address,
length, and the peer rank with its address, or `hostPeer` for the host window. -/
structure Fetch where
  own : Nat
  addr : Nat
  len : Nat
  peer : Nat
  far : Nat
  deriving DecidableEq, Repr

/-- What a requester keeps per request identifier (R423): stream, operation, rank index, local address. -/
structure Req where
  ident : BitVec 16
  sid : StreamId
  op : Nat
  own : Nat
  addr : Nat
  deriving DecidableEq, Repr

/-- A message sent and not yet answered, so that a refusal finds its stream (R198, R423). -/
structure Sent where
  kind : MsgKind
  cls : Nat
  seq : BitVec 16
  dst : BitVec 16
  sid : StreamId
  qpos : BitVec 32
  word : InsnWord
  deriving DecidableEq, Repr

/-- A remote write, read or atomic that has issued and not left: its operation, hosted rank, instruction, KIND, the rank that it
goes to, class, tag, remote and local address, length, the ARG bits of an atomic, the bytes it carries, and whether those are here.
Later ones of its rank and tag leave after it (R199). -/
structure Outgoing where
  op : Nat
  own : Nat
  sid : StreamId
  qpos : BitVec 32
  word : InsnWord
  kind : MsgKind
  rank : Nat
  cls : Nat
  tag : BitVec 16
  far : Nat
  near : Nat
  len : Nat
  arg : Nat
  bytes : List Byte
  ready : Bool
  deriving DecidableEq, Repr

/-- A collective delivery that has landed (R239). -/
structure ClxIn where
  own : Nat
  tag : BitVec 16
  src : BitVec 16
  srcPart : BitVec 5
  srcOwn : BitVec 3
  addr : Nat
  len : Nat
  slot : Nat
  tree : Nat
  phase : Nat
  deriving DecidableEq, Repr

/-- An access that the hazard detector tracks (R96): a 256 byte granule or a total buffer row. `ann` is source device
× 65,536 + TAG for an external write. -/
structure Access where
  id : Nat
  space : Space
  granule : Nat
  write : Bool
  whr : BitVec 32
  qpos : BitVec 32
  psc : BitVec 64
  vis : BitVec 64
  sid : Option StreamId
  ann : Nat
  deriving DecidableEq, Repr

/-- The running state of a partition (R85, R88, R156, R159, R239, R289, R423). `clxWait` holds the rows of co-hosted ranks that
cannot be placed yet (hosted rank, class, message; R241), `localWait` the messages of this device that find no room (class and
message; R160, R290), `outbox` the remote accesses that have not left (R199), and `chDirty` what has been written behind a channel
copy: column, list position and page (R306). -/
structure Run where
  bindingEpoch : BitVec 32 := 0
  curOrigin : BitVec 64 := 0
  prevOrigin : BitVec 64 := 0
  firstOrigin : BitVec 64 := 0
  epochBase : BitVec 32 := 0
  streams : List Stream := []
  ops : List Op := []
  nextOp : Nat := 1
  pairs : List (Nat × Nat × Nat) := []
  tags : List TagEntry := []
  held : List HeldSig := []
  lastClass : List (Nat × Nat × Nat) := []
  reqs : List Req := []
  nextReq : BitVec 16 := 0
  sent : List Sent := []
  clxIn : List ClxIn := []
  clxWait : List (Nat × Nat × Msg) := []
  localWait : List (Nat × Msg) := []
  accesses : List Access := []
  nextAccess : Nat := 0
  latchKnown : Tab (List Nat) := []
  pages : Tab Page := []
  moves : List MoveRec := []
  swapReserved : List Nat := []
  remoteBuf : List (Nat × Nat × Nat × List Byte) := []
  outbox : List Outgoing := []
  chDirty : List (Nat × Nat × Nat) := []
  deriving DecidableEq, Repr

/-- Everything the device keeps for one partition. -/
structure Part where
  cfg : PartCfg := {}
  load : LoadReg := {}
  pfault : PFault := {}
  sync : SyncReg := {}
  ctx : CtxReg := {}
  recd : RecReg := {}
  snap : SnapReg := {}
  key : KeyReg := {}
  kwy : KwyPart := {}
  obj : Option Obj := none
  bind : Bind := {}
  run : Run := {}
  deriving DecidableEq, Repr

/-- A hasp (R163 to R166). `owner` is the partition it is bound to, `ward` the full tag of the load that bound it (R333); the two child flags and the two generations are
the fabric tree's state; `known0` and `known1` are, in debug mode, the accesses ordered before the arrivals of G and of G + 1
(R96, R152). -/
structure Hasp where
  owner : Option Nat := none
  ward : BitVec 16 := 0
  configured : Bool := false
  kind : BitVec 2 := 0
  rlatch : Nat := 0
  nslot : Nat := 0
  gen : BitVec 32 := 0
  mask0 : BitVec 64 := 0
  mask1 : BitVec 64 := 0
  fullAt : Option (BitVec 64) := none
  child0 : List (BitVec 32) := []
  child1 : List (BitVec 32) := []
  sentUp : Bool := false
  known0 : List Nat := []
  known1 : List Nat := []
  deriving DecidableEq, Repr

/-- A hardware queue (R167, R169). -/
structure Queue where
  base : BitVec 64 := 0
  en : Bool := false
  res : Bool := false
  part : BitVec 5 := 0
  kind : BitVec 4 := 0
  lqtr : BitVec 8 := 0
  log2 : BitVec 5 := 0
  head : BitVec 32 := 0
  tail : BitVec 32 := 0
  dberr : Bool := false
  wait : BitVec 4 := 0
  wpsc : BitVec 64 := 0
  ward : BitVec 16 := 0
  deriving DecidableEq, Repr

/-- `CELL_STATUS.ROLE` (R124). -/
inductive Role where
  | unbound | bound | shadowing | fenced
  deriving DecidableEq, Repr

/-- The instruction whose comparison a spare runs (R309): its partition, operation, architected cell, logical quarter,
issue PSC, queue entry index and the repeats of its passes, which the spare repeats too (R70, R71). -/
structure ShadowRec where
  part : Nat
  op : Nat
  cell : Nat
  lqtr : Nat
  psc : BitVec 64
  qpos : BitVec 32
  repeats : List Nat := []
  deriving DecidableEq, Repr

/-- A physical cell (R71, R124), with the shadow comparison a spare runs (R120, R309) and its fences (R326). -/
structure Cell where
  role : Role := .unbound
  mode : Bool := false
  fault : BitVec 8 := 0
  valid : Bool := false
  part : BitVec 5 := 0
  lqtr : BitVec 8 := 0
  lcell : BitVec 2 := 0
  retryPass : BitVec 32 := 0
  maxRepeat : BitVec 8 := 0
  nonfin : BitVec 16 := 0
  shadowDone : BitVec 32 := 0
  shadowSkip : BitVec 32 := 0
  witness : Bool := false
  fences : Nat := 0
  shadowOf : Option ShadowRec := none
  resident : Option Nat := none
  deriving DecidableEq, Repr

/-- A UU slice (R267); BUSY and the borrow fields of `UU_STATUS` are computed from the operations and the stream. -/
structure UuReg where
  lastDec : BitVec 2 := 0
  upd : BitVec 32 := 0
  skip : BitVec 32 := 0
  clip : BitVec 32 := 0
  nonfin : BitVec 32 := 0
  lastSq : BitVec 64 := 0
  deriving DecidableEq, Repr

/-- The copy of a channel to a spare (R306) and its pages that are copied. -/
structure ChanCopy where
  ch : Nat
  spare : Nat
  clean : List Nat
  deriving DecidableEq, Repr

/-- A column: `COL_SHADOW` to `COL_MM_QPOS` (R327), channels (R34, R305, R306). -/
structure Col where
  rate : BitVec 5 := 0
  failed : Bool := false
  cfgErr : Bool := false
  qfail : BitVec 4 := 0
  fenced : BitVec 18 := 0
  shadowMm : BitVec 32 := 0
  shadowStop : BitVec 32 := 0
  eccCe : BitVec 32 := 0
  eccUe : BitVec 32 := 0
  kat : BitVec 32 := 0
  mmValid : Bool := false
  mmPart : BitVec 5 := 0
  mmLqtr : BitVec 8 := 0
  mmCell : BitVec 5 := 0
  mmSpare : BitVec 5 := 0
  mmPsc : BitVec 64 := 0
  mmQpos : BitVec 32 := 0
  eccReported : BitVec 32 := 0
  retired : List (Nat × Nat) := []
  failedCh : List Nat := []
  lastRefresh : Tab (BitVec 64) := []
  passCe : Tab Nat := []
  rowsUsed : Tab Nat := []
  badRows : List (Nat × Nat × Nat) := []
  pendingRows : List (Nat × Nat) := []
  scrubPos : Tab Nat := []
  chCopy : List ChanCopy := []
  poison : List Nat := []
  katTurn : Option Nat := none
  refreshDone : Tab (BitVec 64) := []
  refreshFrom : Tab (BitVec 64) := []
  scrubFrom : Tab (BitVec 64) := []
  deriving DecidableEq, Repr

/-- A control symbol waiting to be sent (R208), with the flit times its current copy still takes and the copies
still to send. -/
inductive SymBody where
  | lane (n : Nat)
  | hold (h : HoldSym)
  | nak (pos : BitVec 16)
  | hasp (h : HaspSym)
  | time (t : TimeSym)
  | ack (pos : BitVec 16) (credits : List Nat)
  | elect (c : Candidate)
  | electx (c : Candidate)
  deriving DecidableEq, Repr

structure SymTx where
  body : SymBody
  left : Nat
  copies : Nat
  deriving DecidableEq, Repr

/-- A message in a send queue (R209, R212): class, tumbler stream and partition for class 0, route ID, the flits
already sent, the detour (die, link, route) that it takes when the link fails (R223), whether its last flit has left
once, and the collective that sends it, which waits for it to leave (R231). A transit flit is one entry. -/
structure TxMsg where
  cls : Nat
  part : Nat
  ts : Nat
  route : Nat
  bytes : List Byte
  sent : Nat
  transit : Bool
  hops : Nat
  alt : Option (Nat × Nat × Nat)
  gone : Bool := false
  op : Option (StreamId × BitVec 32) := none
  deriving DecidableEq, Repr

/-- A flit kept for retransmission (R207). -/
structure TxFlit where
  pos : BitVec 16
  cls : Nat
  env : BitVec 64
  payload : List Byte
  deriving DecidableEq, Repr

/-- One Sahver link (R206 to R226). `missing` lists the flits named in a NAK in the order in which their retransmissions
come, `symActed` and `symDone` what the receiver has acted on of the copies of a control symbol (R208), and `heard` what it
measured of the neighbour's last TIME symbol, in ps (R19). -/
structure LinkReg where
  state : Nat := 0
  spareIn : Bool := false
  spareFor : BitVec 2 := 0
  detour : Bool := false
  long : Bool := false
  delay : BitVec 16 := 0
  peerValid : Bool := false
  pdie : BitVec 2 := 0
  plink : BitVec 5 := 0
  pdev : BitVec 16 := 0
  disable : Bool := false
  w1 : BitVec 8 := 0x80
  w2 : BitVec 8 := 0x40
  w3 : BitVec 8 := 0x10
  cur1 : BitVec 8 := 0x80
  cur2 : BitVec 8 := 0x40
  cur3 : BitVec 8 := 0x10
  err : BitVec 5 := 0
  retx : BitVec 32 := 0
  tumbler : Tab (BitVec 32) := []
  route : Tab (BitVec 64) := []
  txPos : BitVec 16 := 0
  txFlit : Nat := 0
  ackAt : Nat := 0
  spareBad : Bool := false
  unacked : List (TxMsg × BitVec 16) := []
  txq : List TxMsg := []
  buf : List TxFlit := []
  resend : List TxFlit := []
  credit1 : Nat := 256
  credit2 : Nat := 256
  credit3 : Nat := 256
  credit4 : Nat := 256
  wrrTurn : Nat := 1
  wrrCount : Nat := 0
  cls4Used : Nat := 0
  cls4Period : Nat := 0
  sym : List SymTx := []
  third : List (SymBody × BitVec 64) := []
  rxPos : BitVec 16 := 0
  rxLast : BitVec 64 := 0
  missing : List (Nat × BitVec 16) := []
  rxHeld : List TxFlit := []
  partials : List (Nat × Nat × List Byte) := []
  rxMsgs : List (Nat × Msg) := []
  parked : List (Nat × Msg) := []
  blocked : List (Nat × Msg) := []
  freed1 : Nat := 0
  freed2 : Nat := 0
  freed3 : Nat := 0
  freed4 : Nat := 0
  symActed : Bool := false
  symDone : List (SymBody × BitVec 64) := []
  heard : Option Int := none
  nTime : Option TimeSym := none
  nCand : Option Candidate := none
  lastTime : BitVec 64 := 0
  dataOk : Bool := true
  deriving DecidableEq, Repr

/-- A link die (R224, R365). -/
structure DieReg where
  calDone : Bool := false
  unmeasured : Bool := false
  deriving DecidableEq, Repr

/-- Partition n's CLX block on a link die (R250). -/
structure ClxReg where
  en : Bool := false
  lastSlot : BitVec 8 := 0
  seq : BitVec 16 := 0
  spill : BitVec 32 := 0
  drop : BitVec 32 := 0
  skip : BitVec 32 := 0
  late : BitVec 32 := 0
  deriving DecidableEq, Repr

/-- The named events of the flight recorder (R320); their CODE numbers are not given (log entry 22). -/
inductive FltCode where
  | lateStrike | pintleWait | depthExceeded | holdover | timeLost | holdLate | holdMax | programFault | deadline
  | stale | haspDropped | doorbellRefused | remoteRefused | hopsDrop | routeDrop | parkDrop | answerDropped
  | treesMeet | shadowMismatch | shadowStop | deadbolt | rowRetired | channelRetired | eccUncorrectable
  | eccCorrected | replReason | cperDropped | snapshotAborted | slotFallback | noHealth | bootFail | powerStuck
  | thermalTrip | railStop | railLow | logFull | replayMismatch | resetIgnored | fieldTestFailed | columnFailed
  | linkFailed | pintleSource | codeInvalid
  deriving DecidableEq, Repr

/-- An FLT entry (R320). -/
structure FltEntry where
  hall : BitVec 64
  die : BitVec 8
  unit : BitVec 8
  code : FltCode
  part : BitVec 8
  sev : BitVec 8
  count : BitVec 16
  free : Nat
  deriving DecidableEq, Repr

/-- The FLT block (R320 to R323). `flushWr` and `flushHall` are `FLT_WR` and hall time at the flush in progress, `again`
says that another follows it. -/
structure Flt where
  ring : Tab FltEntry := []
  wr : BitVec 32 := 0
  page : BitVec 5 := 0
  busy : Bool := false
  err : Bool := false
  again : Bool := false
  flushWr : BitVec 32 := 0
  flushHall : BitVec 64 := 0
  cperBase : BitVec 64 := 0
  cperEn : Bool := false
  cperLog2 : BitVec 5 := 0
  cperWr : BitVec 32 := 0
  cperRd : BitVec 32 := 0
  deriving DecidableEq, Repr

/-- A PMC filter set (R356), in force and written. -/
structure Filter where
  fctl : BitVec 32 := 0x001F0FFF
  pmask : BitVec 32 := 0xFFFFFFFF
  alo : BitVec 64 := 0
  ahi : BitVec 64 := 0
  deriving DecidableEq, Repr

/-- The PMC block (R350 to R358, R410). `milli` holds the part of a joule that an energy counter has not counted, in
thousandths; `frameSeen` is one more than the last power-hold frame counted; `used` counts what each partition has used of the shared
units in the millisecond that runs (R330), and `vpwrInt` is the 100 ms interval at whose start VPWR was last updated (R336). -/
structure Pmc where
  ctr : Tab (BitVec 48) := []
  slackMin : Tab (BitVec 48) := []
  filters : Tab Filter := []
  written : Tab Filter := []
  rstamp : Tab (BitVec 64) := []
  dutyE : BitVec 11 := 0
  dutyT : BitVec 11 := 0
  milli : Tab Nat := []
  frameSeen : Nat := 0
  used : Tab Nat := []
  vpwrInt : Nat := 0
  deriving DecidableEq, Repr

/-- `SEC_FWUP.STATUS.STATE` (R348). -/
inductive FwState where
  | none | staging | staged | window
  deriving DecidableEq, Repr

/-- The SEC block (R171, R284, R342, R348). `decCur` and `decLast` are the partition whose segment the decryption engine
runs and the one it served last (R340). `rcptBlock` and `rcptCode` are the request block of the receipt in progress and what its
acceptance came to (R284). -/
structure Sec where
  dumpBusy : Bool := false
  dumpAddr : BitVec 64 := 0
  dumpLen : BitVec 32 := 0
  rcptBusy : Bool := false
  rcptResult : BitVec 8 := 0
  rcptReq : BitVec 64 := 0
  rcptOut : BitVec 64 := 0
  rcptFn : Option Nat := none
  rcptBlock : List Byte := []
  rcptCode : BitVec 8 := 0
  attBusy : Bool := false
  attResult : BitVec 8 := 0
  attReq : BitVec 64 := 0
  attOut : BitVec 64 := 0
  attFn : Option Nat := none
  fwState : FwState := .none
  fwResult : BitVec 8 := 0
  fwAddr : BitVec 64 := 0
  actTime : BitVec 64 := 0
  fwTarget : BitVec 2 := 0
  actAt : Option (BitVec 64) := none
  transition : Bool := false
  hubDigest : BitVec 256 := 0
  linkDigest : BitVec 256 := 0
  pendHub : BitVec 256 := 0
  pendLink : BitVec 256 := 0
  mepoch : BitVec 32 := 1
  unmeasured : BitVec 80 := 0
  decLast : Nat := 31
  decCur : Option Nat := none
  deriving DecidableEq, Repr

/-- `KWY_STATUS` (R204). -/
structure Kwy where
  busy : Bool := false
  cfgErr : Bool := false
  badaddr : BitVec 16 := 0
  deriving DecidableEq, Repr

/-- The management block, SPI and JTAG (R394 to R399), with the flash command in progress. -/
structure Mgmt where
  frame : BitVec 8 := 0
  short : BitVec 8 := 0
  overrun : BitVec 8 := 0
  badcmd : BitVec 8 := 0
  bank : BitVec 2 := 0
  aper : BitVec 64 := 0
  flashBusy : Bool := false
  flashResult : BitVec 8 := 0
  flashOp : BitVec 2 := 0
  flashSector : BitVec 12 := 0
  flashBuf : Mem := []
  ir : Nat := 0
  bypassBit : Bool := false
  idcode : BitVec 32 := 0
  bsr : List Bool := []
  pinsDriven : Bool := false
  deriving DecidableEq, Repr

/-- A chunk of host traffic waiting for or using a port (R389, R390): requester, request order, the port it uses or was
meant for, host bus address, length, the operation it serves, whether it is in progress, whether its bytes go to the host, and the
hosted rank that reads them. -/
structure Chunk where
  requester : Nat
  order : Nat
  port : Nat
  addr : Nat
  len : Nat
  op : Nat
  active : Bool
  out : Bool := false
  own : Nat := 0
  deriving DecidableEq, Repr

/-- A physical HDMA channel (R419). -/
structure HdmaCh where
  bound : Bool := false
  part : BitVec 5 := 0
  lch : BitVec 4 := 0
  outPorts : BitVec 2 := 0
  deriving DecidableEq, Repr

/-- PCIe, MSI-X and HDMA (R382 to R393, R419). -/
structure Pcie where
  up0 : Bool := false
  up1 : Bool := false
  vfEnable : Bool := false
  numVfs : Nat := 0
  chunks : List Chunk := []
  nextOrder : Nat := 0
  last0 : Nat := 32
  last1 : Nat := 32
  hdma : Tab HdmaCh := []
  unmasked : List Nat := []
  msixTable : Tab (BitVec 32) := []
  pendingBits : List Nat := []
  latches : Tab (BitVec 32) := []
  deriving DecidableEq, Repr

/-- The memories: column DRAM and SRAM windows by local address, host memory by bus address, boot flash, total
buffers by (cell, row, lane), vector registers by (quarter, register, lane), latches, generator states. -/
structure Store where
  mem : Mem := []
  host : Mem := []
  flash : Mem := []
  tb : Tab (BitVec 64) := []
  vreg : Tab (BitVec 64) := []
  latch : Tab (BitVec 64) := []
  gen : Tab VxGen := []
  deriving DecidableEq, Repr

/-- What the device sends out and an observer can take away: interrupts in order (function index, vector), messages
delivered outside the modelled device with their link, the words of the last SPI frame, what JTAG shifts out, the data and
completion status of the last host access. -/
structure Out where
  irqs : List (Nat × Nat) := []
  symbols : List (Nat × SymBody) := []
  flits : List (Nat × Flit) := []
  miso : List (BitVec 32) := []
  tdo : BitVec 32 := 0
  scan : List Bool := []
  data : BitVec 64 := 0
  unsupported : Bool := false
  retry : Bool := false
  deriving DecidableEq, Repr

/-- The state of the block, with the queue of commands that wait, first in, first out. `free` is the model's own
counter for free values (log entry 20). -/
structure State where
  fuses : Fuses := {}
  hub : Hub := {}
  tim : Tim := {}
  kwy : Kwy := {}
  sec : Sec := {}
  flt : Flt := {}
  pmc : Pmc := {}
  mgmt : Mgmt := {}
  pcie : Pcie := {}
  store : Store := {}
  out : Out := {}
  doms : Tab Dom := []
  parts : Tab Part := []
  hasps : Tab Hasp := []
  queues : Tab Queue := []
  cells : Tab Cell := []
  uus : Tab UuReg := []
  cols : Tab Col := []
  links : Tab LinkReg := []
  dies : Tab DieReg := []
  clxs : Tab ClxReg := []
  free : Nat := 0
  pending : List Instr := []
  deriving DecidableEq, Repr

/-- The state right after reset: powered, before the rising edge of PWR_OK (R362, R420), every register at the reset
value its home rule gives; where a rule gives none, the value of log entry 3. -/
def State.reset : State := {}

/-- Reasons for which the block stops. Raised only where R412 says that operation is not specified. -/
inductive Fault where
  /-- A supply rail beyond its absolute maximum rating (R412). Raised by RAIL_FAULT. Safe: the hardware "may be
  damaged" and nothing is said of what it then does. -/
  | beyondRatings
  deriving DecidableEq, Repr

/-- Reasons for which a command has no meaning. -/
inductive Refusal where
  /-- The command has no meaning in the model yet. Safe. -/
  | notModelled (mnemonic : String)
  /-- A private JTAG instruction in debug mode: R399 says only that it acts. Raised by JTAG_PRIVATE. Safe. -/
  | jtagPrivateUnspecified
  deriving DecidableEq, Repr

end Sys2Proof.Machine
end

