-- ==== Sys2Proof/Machine/Ops.lean ====
section
/-!
DEFINITION. Named operations over the state: the tables' one reader and one writer, the elementary effects through
which every command changes the state, their sequencing, and the address spaces (R174 to R178, R188 to R192).
-/
namespace Sys2Proof.Machine

/-! ### Tables -/

/-- The entry of a table at `k`, or the default. -/
def Tab.get {α : Type} (d : α) : Tab α → Nat → α
  | [], _ => d
  | (i, v) :: t, k => if k < i then d else if k = i then v else Tab.get d t k

/-- Writes `v` at `k`, keeping the canonical form: sorted, and no entry equal to the default `d`. -/
def Tab.set {α : Type} [DecidableEq α] (d : α) : Tab α → Nat → α → Tab α
  | [], k, v => if v = d then [] else [(k, v)]
  | (i, w) :: t, k, v =>
    if k < i then (if v = d then (i, w) :: t else (k, v) :: (i, w) :: t)
    else if k = i then (if v = d then t else (k, v) :: t)
    else (i, w) :: Tab.set d t k v

/-- Removes every entry from `lo` to below `hi`. -/
def Tab.clear {α : Type} (lo hi : Nat) (t : Tab α) : Tab α :=
  t.filter (fun e => e.1 < lo || hi ≤ e.1)

/-- The canonical form from index `lo` on. -/
def Tab.wfFrom {α : Type} [DecidableEq α] (d : α) : Nat → Tab α → Bool
  | _, [] => true
  | lo, (i, v) :: t => decide (lo ≤ i) && decide (v ≠ d) && Tab.wfFrom d (i + 1) t

/-- The canonical form: indices strictly rising, no entry equal to the default. -/
def Tab.wf {α : Type} [DecidableEq α] (d : α) (t : Tab α) : Bool := Tab.wfFrom d 0 t

/-- What an unlisted byte of DRAM, SRAM or host memory reads as (log entry 4). -/
def memDefault : Byte := 0
/-- What an unlisted byte of the boot flash reads as: erased NOR (log entry 5). -/
def flashDefault : Byte := 0xFF

/-- The canonical form of byte memory. -/
def Memory.wf (m : Mem) : Bool := Tab.wf memDefault m

/-- One byte of memory. -/
def Mem.read (m : Mem) (a : Nat) : Byte := Tab.get memDefault m a

/-- `n` bytes of memory from `a` up. -/
def Mem.readN (m : Mem) : Nat → Nat → List Byte
  | _, 0 => []
  | a, n + 1 => m.read a :: Mem.readN m (a + 1) n

/-- Writes bytes from `a` up. -/
def Mem.write (m : Mem) : Nat → List Byte → Mem
  | _, [] => m
  | a, b :: bs => Mem.write (Tab.set memDefault m a b) (a + 1) bs

/-- Writes bytes of the boot flash from `a` up. -/
def flashWrite (m : Mem) : Nat → List Byte → Mem
  | _, [] => m
  | a, b :: bs => flashWrite (Tab.set flashDefault m a b) (a + 1) bs

/-- `n` bytes of the boot flash. -/
def flashRead (m : Mem) : Nat → Nat → List Byte
  | _, 0 => []
  | a, n + 1 => Tab.get flashDefault m a :: flashRead m (a + 1) n

/-- Writes 64 bit values at rising indices. -/
def writeVals (t : Tab (BitVec 64)) : Nat → List (BitVec 64) → Tab (BitVec 64)
  | _, [] => t
  | i, v :: vs => writeVals (Tab.set 0 t i v) (i + 1) vs

/-! ### Effects -/

/-- The elementary effects. Every command changes the state through a list of these and through nothing else; none
of them writes the fuses or the queue of commands. -/
inductive Eff where
  | hub (h : Hub)
  | tim (t : Tim)
  | kwy (k : Kwy)
  | sec (x : Sec)
  | flt (f : Flt)
  | pmc (p : Pmc)
  | mgmt (m : Mgmt)
  | pcie (p : Pcie)
  | out (o : Out)
  | mem (a : Nat) (bs : List Byte)
  | host (a : Nat) (bs : List Byte)
  | flash (a : Nat) (bs : List Byte)
  | tb (i : Nat) (vs : List (BitVec 64))
  | vreg (i : Nat) (vs : List (BitVec 64))
  | latch (i : Nat) (v : BitVec 64)
  | gen (q : Nat) (g : VxGen)
  | clearMem (lo hi : Nat)
  | clearTb (lo hi : Nat)
  | clearVreg (lo hi : Nat)
  | dom (n : Nat) (d : Dom)
  | part (n : Nat) (p : Part)
  | hasp (n : Nat) (h : Hasp)
  | queue (n : Nat) (q : Queue)
  | cell (n : Nat) (c : Cell)
  | uu (n : Nat) (u : UuReg)
  | col (n : Nat) (c : Col)
  | link (n : Nat) (l : LinkReg)
  | die (n : Nat) (d : DieReg)
  | clx (n : Nat) (c : ClxReg)
  | free (n : Nat)

/-- What one elementary effect does. -/
def Eff.apply (e : Eff) (s : State) : State :=
  match e with
  | .hub h => { s with hub := h }
  | .tim t => { s with tim := t }
  | .kwy k => { s with kwy := k }
  | .sec x => { s with sec := x }
  | .flt f => { s with flt := f }
  | .pmc p => { s with pmc := p }
  | .mgmt m => { s with mgmt := m }
  | .pcie p => { s with pcie := p }
  | .out o => { s with out := o }
  | .mem a bs => { s with store := { s.store with mem := s.store.mem.write a bs } }
  | .host a bs => { s with store := { s.store with host := s.store.host.write a bs } }
  | .flash a bs => { s with store := { s.store with flash := flashWrite s.store.flash a bs } }
  | .tb i vs => { s with store := { s.store with tb := writeVals s.store.tb i vs } }
  | .vreg i vs => { s with store := { s.store with vreg := writeVals s.store.vreg i vs } }
  | .latch i v => { s with store := { s.store with latch := Tab.set 0 s.store.latch i v } }
  | .gen q g => { s with store := { s.store with gen := Tab.set {} s.store.gen q g } }
  | .clearMem lo hi => { s with store := { s.store with mem := Tab.clear lo hi s.store.mem } }
  | .clearTb lo hi => { s with store := { s.store with tb := Tab.clear lo hi s.store.tb } }
  | .clearVreg lo hi => { s with store := { s.store with vreg := Tab.clear lo hi s.store.vreg } }
  | .dom n d => { s with doms := Tab.set {} s.doms n d }
  | .part n p => { s with parts := Tab.set {} s.parts n p }
  | .hasp n h => { s with hasps := Tab.set {} s.hasps n h }
  | .queue n q => { s with queues := Tab.set {} s.queues n q }
  | .cell n c => { s with cells := Tab.set {} s.cells n c }
  | .uu n u => { s with uus := Tab.set {} s.uus n u }
  | .col n c => { s with cols := Tab.set {} s.cols n c }
  | .link n l => { s with links := Tab.set {} s.links n l }
  | .die n d => { s with dies := Tab.set {} s.dies n d }
  | .clx n c => { s with clxs := Tab.set {} s.clxs n c }
  | .free n => { s with free := n }

/-- Applies effects in order. -/
def applyAll : List Eff → State → State
  | [], s => s
  | e :: es, s => applyAll es (e.apply s)

/-- An action: the effects that a state calls for. -/
abbrev Act := State → List Eff

/-- The state after an action. -/
def Act.run (a : Act) (s : State) : State := applyAll (a s) s

/-- The action that does nothing. -/
def Act.skip : Act := fun _ => []

/-- Actions in order: each sees what those before it did. -/
def Act.all : List Act → Act
  | [], _ => []
  | a :: as, s =>
    let e := a s
    e ++ Act.all as (applyAll e s)

/-- An action under a condition on the state it meets. -/
def Act.when (c : State → Bool) (a : Act) : Act := fun s => if c s then a s else []

/-- An action under a condition known beforehand. -/
def Act.guard (c : Bool) (a : Act) : Act := fun s => if c then a s else []

/-- One action for each element of a list. -/
def Act.each {α : Type} (xs : List α) (f : α → Act) : Act := Act.all (xs.map f)

/-- An action that first looks at the state. -/
def Act.look (f : State → Act) : Act := fun s => f s s

/-! ### Readers and updates of the tables -/

def State.dom (s : State) (n : Nat) : Dom := Tab.get {} s.doms n
def State.part (s : State) (n : Nat) : Part := Tab.get {} s.parts n
def State.hasp (s : State) (n : Nat) : Hasp := Tab.get {} s.hasps n
def State.queue (s : State) (n : Nat) : Queue := Tab.get {} s.queues n
def State.cell (s : State) (n : Nat) : Cell := Tab.get {} s.cells n
def State.uu (s : State) (n : Nat) : UuReg := Tab.get {} s.uus n
def State.col (s : State) (n : Nat) : Col := Tab.get {} s.cols n
def State.die (s : State) (n : Nat) : DieReg := Tab.get {} s.dies n
def State.clx (s : State) (n : Nat) : ClxReg := Tab.get {} s.clxs n
def State.latch (s : State) (l : Nat) : BitVec 64 := Tab.get 0 s.store.latch l
def State.gen (s : State) (q : Nat) : VxGen := Tab.get {} s.store.gen q

/-- Index of a link in the table of links: 24 per die (R12). -/
def linkIdx (l : LinkId) : Nat := l.die * 24 + l.link
def State.link (s : State) (l : LinkId) : LinkReg := Tab.get {} s.links (linkIdx l)

def modHub (f : Hub → Hub) : Act := fun s => [.hub (f s.hub)]
def modTim (f : Tim → Tim) : Act := fun s => [.tim (f s.tim)]
def modKwy (f : Kwy → Kwy) : Act := fun s => [.kwy (f s.kwy)]
def modSec (f : Sec → Sec) : Act := fun s => [.sec (f s.sec)]
def modFlt (f : Flt → Flt) : Act := fun s => [.flt (f s.flt)]
def modPmc (f : Pmc → Pmc) : Act := fun s => [.pmc (f s.pmc)]
def modMgmt (f : Mgmt → Mgmt) : Act := fun s => [.mgmt (f s.mgmt)]
def modPcie (f : Pcie → Pcie) : Act := fun s => [.pcie (f s.pcie)]
def modOut (f : Out → Out) : Act := fun s => [.out (f s.out)]
def modDom (n : Nat) (f : Dom → Dom) : Act := fun s => [.dom n (f (s.dom n))]
def modPart (n : Nat) (f : Part → Part) : Act := fun s => [.part n (f (s.part n))]
def modRun (n : Nat) (f : Run → Run) : Act := modPart n (fun p => { p with run := f p.run })
def modHasp (n : Nat) (f : Hasp → Hasp) : Act := fun s => [.hasp n (f (s.hasp n))]
def modQueue (n : Nat) (f : Queue → Queue) : Act := fun s => [.queue n (f (s.queue n))]
def modCell (n : Nat) (f : Cell → Cell) : Act := fun s => [.cell n (f (s.cell n))]
def modUu (n : Nat) (f : UuReg → UuReg) : Act := fun s => [.uu n (f (s.uu n))]
def modCol (n : Nat) (f : Col → Col) : Act := fun s => [.col n (f (s.col n))]
def modLink (l : LinkId) (f : LinkReg → LinkReg) : Act := fun s => [.link (linkIdx l) (f (s.link l))]
def modDie (n : Nat) (f : DieReg → DieReg) : Act := fun s => [.die n (f (s.die n))]
def modClx (n : Nat) (f : ClxReg → ClxReg) : Act := fun s => [.clx n (f (s.clx n))]
def setLatch (l : Nat) (v : BitVec 64) : Act := fun _ => [.latch l v]
def writeMem (a : Nat) (bs : List Byte) : Act := fun _ => [.mem a bs]
def writeHost (a : Nat) (bs : List Byte) : Act := fun _ => [.host a bs]
def setGen (q : Nat) (g : VxGen) : Act := fun _ => [.gen q g]

/-- Takes the next free value: advances the counter and passes its value on (log entry 20). -/
def withFree (f : Nat → Act) : Act := fun s => Act.all [f s.free, fun t => [.free (t.free + 1)]] s

/-- The indices of the partitions (R328). -/
def allParts : List Nat := List.range 32
/-- Every link of the device (R12). -/
def allLinks : List LinkId := (List.range 96).map (fun i => ⟨i / 24, i % 24⟩)

/-! ### The local address space (R174, R175) -/

/-- What a local address names. -/
inductive Place where
  | dram (a : Nat)
  | sram (a : Nat)
  | host (bus : Nat)
  | reg (off : Nat)
  | bad
  deriving DecidableEq, Repr

def dramSpan : Nat := 0x800000000
def sramBase : Nat := 0x10000000000
def hostBase : Nat := 0x20000000000
def regBase : Nat := 0xF0000000000
def mib : Nat := 0x100000
def gib : Nat := 0x40000000
def pageSize : Nat := 0x200000

/-- Bytes of DRAM that a column has built: 4 GiB per die of its stack (R1, R4). -/
def colDram (s : State) : Nat := s.fuses.stackH.toNat * 4 * gib

/-- True at an offset that an SRAM window maps (R177, Sahver view: 18 cell stores). -/
def sramMapped (off : Nat) : Bool :=
  off < 0x2000000 || (0x4000000 ≤ off && off < 0x4000000 + 18 * 0x800000)

/-- The host bus address that the local host window offset `o` reaches (R192). -/
def hostWindow (s : State) (o : Nat) : Option Nat :=
  (allParts.filterMap (fun n =>
    let k := (s.part n).kwy
    let base := k.winBase.toNat * gib
    if k.winEn && base ≤ o && o < base + k.winSize.toNat * gib then some (k.haddr.toNat + (o - base)) else none)).head?

/-- What the local address `a` names (R174, R175, R4). -/
def place (s : State) (a : Nat) : Place :=
  if a < 20 * dramSpan then
    (if a % dramSpan < colDram s then .dram a else .bad)
  else if sramBase ≤ a && a < sramBase + 20 * 0x10000000 then
    (if sramMapped ((a - sramBase) % 0x10000000) then .sram a else .bad)
  else if hostBase ≤ a && a < hostBase + 0x10000000000 then
    (match hostWindow s (a - hostBase) with
     | some b => .host b
     | none => .bad)
  else if regBase ≤ a && a < regBase + 0x8000000 then .reg (a - regBase)
  else .bad

/-- The local address that an address held in a register or in a block names (R174): a Sahver address of this device, or a local
address as it stands. One with another device's number names nothing here (DEDUCED, log entry 117). -/
def localOf (s : State) (a : Nat) : Nat := if a / 2 ^ 48 = s.hub.devno.toNat then a % 2 ^ 48 else a

/-- Base of segment `i`: at the end of the segments before it (R188). -/
def segBase (segs : List Seg) (i : Nat) : Nat := ((segs.take i).map (·.size)).sum

/-- Key of a page in the page table: rank index and page number. -/
def pageKey (own page : Nat) : Nat := own * 0x80000 + page

/-- The frames to which a keyway move of the partition takes page `page` of hosted rank `own` (R190, R338). -/
def Part.movedTo (p : Part) (own page : Nat) : List Nat := match p.obj with
  | none => []
  | some o => p.run.moves.filterMap (fun m =>
      if m.own == own && m.home != .remote && segBase o.segs m.seg / pageSize ≤ page then
        m.frames[page - segBase o.segs m.seg / pageSize]? else none)

/-- True where a sealed page of some partition, or the copy that a keyway move makes of it, holds the address (R338). -/
def sealedAt (s : State) (a : Nat) : Bool :=
  s.parts.any (fun e => e.2.run.pages.any (fun pg => pg.2.sealed &&
    ((pg.2.frame == a / pageSize && (pg.2.home == .loc || pg.2.home == .neigh)) ||
      (e.2.movedTo (pg.1 / 0x80000) (pg.1 % 0x80000)).contains (a / pageSize))))

/-- One byte of memory by local address as the device's own machinery reads it; zero where nothing is mapped. -/
def peek (s : State) (a : Nat) : Byte :=
  match place s a with
  | .dram a => s.store.mem.read a
  | .sram a => s.store.mem.read a
  | .host b => s.store.host.read b
  | _ => 0

/-- `n` bytes by local address. -/
def peekN (s : State) : Nat → Nat → List Byte
  | _, 0 => []
  | a, n + 1 => peek s a :: peekN s (a + 1) n

/-- Writes one byte by local address; dropped where nothing is mapped. -/
def poke1 (a : Nat) (b : Byte) : Act := fun s =>
  match place s a with
  | .dram a => [.mem a [b]]
  | .sram a => [.mem a [b]]
  | .host h => [.host h [b]]
  | _ => []

/-- Writes bytes by local address. -/
def poke : Nat → List Byte → Act
  | _, [] => Act.skip
  | a, b :: bs => fun s =>
    let e := poke1 a b s
    e ++ poke (a + 1) bs (applyAll e s)

/-- Counts an access to an address that is not mapped (R175). -/
def countBad : Act := modKwy (fun k => { k with badaddr := satAdd k.badaddr 1 })

/-- A byte that an access by local address does not reach: nothing is mapped, or the page is sealed (R175, R338). -/
def barred (s : State) (a : Nat) : Bool := place s a == .bad || sealedAt s a

/-- A byte as the physical function, HDMA, the hub or the management port reads it by local address. -/
def outerByte (s : State) (a : Nat) : Byte := if barred s a then 0 else peek s a

/-- `n` bytes at an address that a register or a block holds. -/
def fetchAt (s : State) (a n : Nat) : List Byte := (List.range n).map (fun i => outerByte s (localOf s a + i))

/-- Counts one access for each range (address, length) of which a byte is barred (R4, R175, R338). -/
def accessed (rs : List (Nat × Nat)) : Act := Act.each rs (fun r =>
  Act.when (fun s => (List.range r.2).any (fun i => barred s (localOf s r.1 + i))) countBad)

/-- Writes bytes at an address that a register or a block holds, and counts what does not reach memory. -/
def storeAt (a : Nat) (bs : List Byte) : Act := fun s => Act.all [
  accessed [(a, bs.length)],
  Act.each bs.zipIdx (fun e => fun s =>
    if barred s (localOf s a + e.2) then [] else poke1 (localOf s a + e.2) e.1 s)] s

/-! ### The partition-logical address space (R176 to R178, R188, R192) -/

/-- What a partition-logical address reaches. -/
inductive Target where
  | loc (a : Nat)
  | remote (peer : Nat) (a : Nat)
  | out
  deriving DecidableEq, Repr

/-- The segment that holds a partition-logical address, with the offset in it. -/
def findSeg : List Seg → Nat → Nat → Option (Nat × Seg × Nat)
  | [], _, _ => none
  | g :: gs, i, a => if a < g.size then some (i, g, a) else findSeg gs (i + 1) (a - g.size)

/-- Page entry, if the page is mapped. -/
def Part.page (p : Part) (own page : Nat) : Option Page :=
  (p.run.pages.find? (fun e => e.1 == pageKey own page)).map (·.2)

/-- Key of a logical quarter of a hosted rank in the binding. -/
def Obj.qkey (o : Obj) (own lq : Nat) : Nat := own * o.quarters + lq

/-- Physical quarter of a logical quarter of a hosted rank. -/
def Part.quarter (p : Part) (own lq : Nat) : Option Nat :=
  match p.obj with
  | none => none
  | some o => if lq < o.quarters then p.bind.quarters[o.qkey own lq]? else none

/-- Storage index (column × 18 + cell) of a logical cell: the cell whose stores hold it. -/
def Part.cellOf (p : Part) (own lq j : Nat) : Option Nat :=
  match p.obj with
  | none => none
  | some o => (p.bind.cells.find? (fun e => e.1 == o.qkey own lq * 4 + j)).map (·.2)

/-- The physical cell that executes for a logical cell: its own, or its pair's when the two share one (R314). -/
def Part.execCell (p : Part) (own lq j : Nat) : Option Nat :=
  match p.obj with
  | none => none
  | some o =>
    let k := o.qkey own lq * 4 + j
    if p.bind.muxed.contains k then p.cellOf own lq (j ^^^ 1) else p.cellOf own lq j

/-- Local address of an SRAM offset of logical column `g` (R177, R178). -/
def Part.sram (p : Part) (own g off : Nat) : Option Nat :=
  match p.obj with
  | none => none
  | some o =>
    match o.cols[g]? with
    | none => none
    | some lc =>
      if off < 0x2000000 then
        let q := off / 0x800000
        if q < lc.count then
          (p.quarter own (lc.first + q)).map (fun pq =>
            sramBase + (pq / 4) * 0x10000000 + (pq % 4) * 0x800000 + off % 0x800000)
        else none
      else if 0x4000000 ≤ off ∧ off < 0x4000000 + 16 * 0x800000 then
        let i := (off - 0x4000000) / 0x800000
        if i / 4 < lc.count then
          (p.cellOf own (lc.first + i / 4) (i % 4)).map (fun c =>
            sramBase + (c / 18) * 0x10000000 + 0x4000000 + (c % 18) * 0x800000 + off % 0x800000)
        else none
      else none

/-- What the partition-logical address `a` of hosted rank `own` reaches (R176 to R178, R188, R189, R192). A sealed page is reached
only once its message has ended with OK (R338). -/
def Part.reach (p : Part) (own a : Nat) : Target :=
  match p.obj with
  | none => .out
  | some o =>
    if a < 0x10000000000 then
      (match findSeg o.segs 0 a with
       | none => .out
       | some (_, g, off) =>
         match p.page own (a / pageSize) with
         | none => .out
         | some pg =>
           if pg.closed then .out
           else if pg.home == .remote then
             .remote g.peer (((o.exps[g.exp]?).map (fun e => segBase o.segs e.seg + e.off * 4096)).getD 0 + off)
           else .loc (pg.frame * pageSize + a % pageSize))
    else if a < 0x10000000000 + 20 * 0x10000000 then
      (match p.sram own ((a - 0x10000000000) / 0x10000000) ((a - 0x10000000000) % 0x10000000) with
       | some x => .loc x
       | none => .out)
    else if 0x20000000000 ≤ a ∧ a < 0x20000000000 + p.kwy.winSize.toNat * gib ∧ p.kwy.winEn then
      .loc (hostBase + p.kwy.winBase.toNat * gib + (a - 0x20000000000))
    else .out

/-- True inside the ward of hosted rank `own`. -/
def Part.inWard (p : Part) (own a : Nat) : Bool := p.reach own a != .out

/-- First address of `[a, a + n)` outside the ward. -/
def Part.firstOut (p : Part) (own : Nat) : Nat → Nat → Option Nat
  | _, 0 => none
  | a, n + 1 => if p.inWard own a then Part.firstOut p own (a + 1) n else some a

/-- A byte that an operation in flight has fetched from a REMOTE home or from the host window (R189, R192), if it has arrived:
the one that arrived last. -/
def Run.fetchedAt (r : Run) (own a : Nat) : Option Byte :=
  (r.remoteBuf.find? (fun e => e.2.1 == own && e.2.2.1 ≤ a && a < e.2.2.1 + e.2.2.2.length)).bind
    (fun e => e.2.2.2[a - e.2.2.1]?)

/-- One byte by partition-logical address: zero outside the ward (R93). A byte of the host window is the one that HDMA has
brought (R192) or in replay the record has supplied (R281), if an operation asked for it. -/
def readL1 (s : State) (n own a : Nat) : Byte :=
  match (s.part n).reach own a with
  | .loc x =>
    if 0x20000000000 ≤ a then
      match (s.part n).run.fetchedAt own a with
      | some b => b
      | none => if (s.part n).recd.replay then 0 else peek s x
    else peek s x
  | .remote _ _ => ((s.part n).run.fetchedAt own a).getD 0
  | .out => 0

/-- `k` bytes by partition-logical address. -/
def readL (s : State) (n own : Nat) : Nat → Nat → List Byte
  | _, 0 => []
  | a, k + 1 => readL1 s n own a :: readL s n own (a + 1) k

/-- A little-endian number by partition-logical address. -/
def readLNat (s : State) (n own a k : Nat) : Nat := leNat (readL s n own a k)

/-- Pages of the snapshot buffer that a column may hold (R302): `BUF` units of 256 MiB. -/
def bufPages (p : Part) : Nat := p.snap.buf.toNat * 128

/-- The column in whose snapshot buffer a page's copy lies and whose drain takes the page: the column of its frame. A page of a
HOST home has none, and goes with the column that holds logical quarter 0 of its rank, as the context does (DESIGN CHOICE, log
entry 114). -/
def Part.pageCol (p : Part) (own : Nat) (pg : Page) : Nat :=
  if pg.home == .host then (p.quarter own 0).getD 0 / 4 else pg.frame * pageSize / dramSpan

/-- Pages that the captured contexts of the ranks whose logical quarter 0 a column holds take in its buffer (R288). -/
def contextPages (p : Part) (col : Nat) : Nat :=
  ((p.snap.ranks.filter (fun r => (p.quarter r.own 0).getD 0 / 4 == col)).map (fun r => ceilDiv r.context.length pageSize)).sum

/-- Pages of a column's snapshot buffer that are in use. -/
def bufUsed (p : Part) (col : Nat) : Nat := (p.snap.pages.filter (fun b => b.col == col)).length + contextPages p col

/-- The bytes of a page by its local address, as a sparse list of offsets. -/
def pageCells (s : State) (lo : Nat) : List Host.Cell :=
  let part (m : Mem) (a : Nat) : List Host.Cell :=
    (m.filter (fun c => a ≤ c.1 && c.1 < a + pageSize)).map (fun c => (c.1 - a, c.2))
  match place s lo with
  | .host b => part s.store.host b
  | _ => part s.store.mem lo

/-- First write to a marked page (R290): its 2 MiB go to the snapshot buffer, the mark clears, and the column counts the
copy (R352, at its index in R351's order). -/
def cowCopy (n own page : Nat) : Act := fun s =>
  let p := s.part n
  match p.page own page with
  | none => []
  | some pg =>
    if pg.cow && p.snap.state == .draining then
      let col := p.pageCol own pg
      let bp : BufPage := { own := own, page := page, col := col, bytes := pageCells s (pg.frame * pageSize) }
      let k := col * 0x200 + 0x96
      Act.all [
        modPart n (fun p => { p with snap := { p.snap with
          pages := p.snap.pages ++ [bp],
          bufmax := BitVec.ofNat 32 (max p.snap.bufmax.toNat (bufUsed p col + 1)),
          marked := p.snap.marked.erase (own, page) } }),
        modPmc (fun c => { c with ctr := Tab.set 0 c.ctr k (Tab.get 0 c.ctr k + 1) }),
        modRun n (fun r => { r with pages := r.pages.map (fun e =>
          if e.1 == pageKey own page then (e.1, { e.2 with cow := false }) else e) })] s
    else []

/-- The pages of a range of `len` bytes. -/
def pagesIn (a len : Nat) : List Nat :=
  if len = 0 then [] else List.range' (a / pageSize) ((a + len - 1) / pageSize - a / pageSize + 1)

/-- A write of a range must wait (R290, R292): the drain reads one of its pages from its home, or the copies of its marked pages find
no room in a column's buffer. -/
def cowFull (s : State) (n own a len : Nat) : Bool :=
  let p := s.part n
  let cols := (pagesIn a len).filterMap (fun k => (p.page own k).bind (fun pg => if pg.cow then some (p.pageCol own pg) else none))
  p.snap.state == .draining &&
    ((pagesIn a len).any (fun k => p.snap.reading.any (fun r => r.2 == (own, k, false))) ||
     cols.any (fun c => decide (bufPages p < bufUsed p c + (cols.filter (· == c)).length)))

/-- Pages of a keyway move that a write has made dirty again (R190 step 2). -/
def moveDirty (n own page : Nat) : Act := fun s =>
  let p := s.part n
  match p.obj with
  | none => []
  | some o =>
    match findSeg o.segs 0 (page * pageSize) with
    | none => []
    | some (i, _, _) =>
      if p.run.moves.any (fun m => m.own == own && m.seg == i && m.clean.contains page) then
        modRun n (fun r => { r with moves := r.moves.map (fun m =>
          if m.own == own && m.seg == i then { m with clean := m.clean.erase page } else m) }) s
      else []

/-- Physical quarters of logical column `g` of hosted rank `own`. -/
def lcolQuarters (p : Part) (own g : Nat) : List Nat :=
  match p.obj with
  | none => []
  | some o => match o.cols[g]? with
    | none => []
    | some c => (List.range c.count).filterMap (fun i => p.quarter own (c.first + i))

/-- List position that a physical channel serves (R179, R306): a spare serves that of the channel it stands in for. -/
def Col.position (c : Col) (ch : Nat) : Option Nat :=
  if ch < 64 then (if c.retired.any (fun e => e.1 == ch) then none else some ch)
  else (c.retired.find? (fun e => e.2 == ch)).map (·.1)

/-- Pages of 2 MiB that a channel holds (R179). -/
def chanPages (s : State) : Nat := colDram s / 64 / pageSize

/-- The page of its channels in which a frame's blocks lie: an even share of the column's frames in order (DESIGN CHOICE, log
entry 38). -/
def chanPage (s : State) (frame : Nat) : Nat := frame * pageSize % dramSpan / 64 / pageSize % chanPages s

/-- The channel list of the home in which a page of hosted rank `own` lies (R179): the physical quarters of the logical column whose
physical column holds its frame. -/
def Part.homeQuarters (p : Part) (own : Nat) (pg : Page) : List Nat := match p.obj with
  | none => []
  | some o => ((List.range o.cols.length).map (lcolQuarters p own)).find? (fun qs =>
      (qs.head?).any (fun q => q / 4 == pg.frame * pageSize / dramSpan)) |>.getD []

/-- Index in a home's channel list of 256-byte block `b` of page `k` of a segment (R179). -/
def blockIndex (quarters b k : Nat) : Nat := (b + k) % (16 * quarters)

/-- The column and the list position of the channel that holds the 256-byte block at a partition-logical address (R179). -/
def Part.channelOf (p : Part) (own a : Nat) : Option (Nat × Nat) :=
  match p.obj.bind (fun o => findSeg o.segs 0 a), p.page own (a / pageSize) with
  | some (_, _, off), some pg =>
    if pg.home == .loc || pg.home == .neigh then
      let qs := p.homeQuarters own pg
      let i := blockIndex qs.length (off % pageSize / 256) (off / pageSize)
      (qs[i / 16]?).map (fun q => (q / 4, q % 4 * 16 + i % 16))
    else none
  | _, _ => none

/-- A write to a page that a channel copy has copied: the copy of it is out of date (R306). -/
def chanDirty (n own a : Nat) : Act := fun s =>
  let p := s.part n
  match p.channelOf own a, p.page own (a / pageSize) with
  | some (c, pos), some pg =>
    let e := (c, pos, chanPage s pg.frame)
    if (s.col c).chCopy.any (fun x => (s.col c).position x.ch == some pos && x.clean.contains e.2.2) && !p.run.chDirty.contains e then
      modRun n (fun r => { r with chDirty := r.chDirty ++ [e] }) s
    else []
  | _, _ => []

/-- Writes bytes that lie in one 256-byte block by partition-logical address. What goes to a REMOTE home travels in messages (R189);
here it makes the page of a move dirty (R190). -/
def writePage (n own a : Nat) (bs : List Byte) : Act := fun s =>
  match (s.part n).reach own a with
  | .loc x =>
    Act.all [cowCopy n own (a / pageSize), moveDirty n own (a / pageSize), chanDirty n own a, poke x bs] s
  | .remote _ _ => moveDirty n own (a / pageSize) s
  | .out => []

/-- Writes bytes by partition-logical address: bytes outside the ward are dropped (R93), a marked page is copied
first (R290), a page of a move becomes dirty (R190). `fuel` bounds the number of granules. -/
def writeLFuel (n own : Nat) : Nat → Nat → List Byte → Act
  | 0, _, _ => Act.skip
  | _, _, [] => Act.skip
  | f + 1, a, b :: bs => fun s =>
    let k := min (b :: bs).length (256 - a % 256)
    let e := writePage n own a ((b :: bs).take k) s
    e ++ writeLFuel n own f (a + k) ((b :: bs).drop k) (applyAll e s)

/-- Writes bytes by partition-logical address. -/
def writeL (n own a : Nat) (bs : List Byte) : Act := writeLFuel n own (bs.length + 1) a bs

/-! ### Time (R22 to R24) -/

/-- How much of a held interval that ends at `t` lies after the domain's origin (R22). -/
def Dom.heldPart (d : Dom) (t : BitVec 64) : BitVec 64 :=
  BitVec.ofNat 64 (t.toNat - max d.heldSince.toNat d.origin.toNat)

/-- `HELD_TOTAL` as read: completed held intervals and the one in progress, since the origin (R22). -/
def Dom.heldNow (d : Dom) (hall : BitVec 64) : BitVec 64 :=
  d.heldTotal + (if d.held then d.heldPart hall else 0)

/-- The hall schedule time of partition n's domain (R22): it stands still while the domain is held. -/
def Dom.hst (d : Dom) (hall : BitVec 64) : BitVec 64 := hall - d.heldNow hall

/-- Lag in units (R24). -/
def Dom.lagUnits (d : Dom) (hall : BitVec 64) : Nat := (d.hst hall).toNat - d.psc.toNat

/-- The `LAG` register: array cycles, saturating (R37). -/
def Dom.lag (d : Dom) (hall : BitVec 64) : BitVec 32 :=
  BitVec.ofNat 32 (min (d.lagUnits hall / 10) 0xFFFFFFFF)

/-- Physical quarter whose list position a channel serves. -/
def Col.chanQuarter (c : Col) (ch : Nat) : Option Nat := (c.position ch).map (· / 16)

/-- A refresh issued on hall time during a freeze has not ended on some channel of the partition (R35). -/
def refreshing (s : State) (n : Nat) : Bool :=
  (s.part n).bind.quarters.any (fun q => (s.col (q / 4)).refreshDone.any (fun e =>
    (s.col (q / 4)).chanQuarter e.1 == some (q % 4) && decide (s.tim.hall < e.2)))

/-- A hold has caught the partition's PSC (R30). -/
def Dom.caught (d : Dom) (hall : BitVec 64) : Bool := d.held && d.lagUnits hall == 0

/-- The stall of a partition whose leader waits for it to become quiescent (R287). -/
def leaderStall : StallCause × Nat := (.latch, 2 ^ 40)

/-- The partition is stalled (R25): while a condition holds, and then until a refresh of the freeze has ended (R35). A refresh
in a freeze that a hold alone makes is no stall. -/
def stalled (s : State) (n : Nat) : Bool :=
  !(s.dom n).stalls.isEmpty || (refreshing s n && !(s.dom n).caught s.tim.hall)

/-- A stall keeps the engines from going on. In the one in which a leader waits for its partition to become quiescent they go on,
or it never would (R287; DEDUCED, log entry 42). -/
def halting (s : State) (n : Nat) : Bool :=
  (s.dom n).stalls.any (· != leaderStall) || (refreshing s n && !(s.dom n).caught s.tim.hall)

/-- The states in which hall time may not step and schedules run (R16, R380). -/
def timeRuns : TimeState → Bool
  | .locked | .holdover | .pintle | .pintleFree => true
  | _ => false

/-- The engines of the partition are frozen: the domain's schedule does not run, the device is in a state in which it runs no
schedule (R16), the partition is stalled (R25),
a hold has caught its PSC (R30), a program fault has let the operations in flight end (R93), a catch-up's refreshes and scrubs
have not ended (R26), or a deadbolt froze every partition (R315). -/
def frozen (s : State) (n : Nat) : Bool :=
  let d := s.dom n
  let p := s.part n
  !d.active || !timeRuns s.tim.state || halting s n || d.caught s.tim.hall ||
    (p.load.state == .faulted && p.run.ops.isEmpty) || d.jump.isSome || s.hub.deadboltPending

end Sys2Proof.Machine
end

