-- ==== Sys2Proof/Machine/Flags.lean ====
section
/-!
DEFINITION. What events leave behind: performance counters (R350 to R357), MSI-X interrupts (R388), the alert pin
(R401), flight recorder entries (R320), CPER records (R323) and the interrupt causes of the TIM block (R36).
-/
namespace Sys2Proof.Machine

/-! ### Performance counters (R350 to R357) -/

/-- Index of a counter: its BAR0 offset in the PMC block, in counters (R351). -/
def ctrCol (c e : Nat) : Nat := c * 0x200 + e
def ctrLink (d l e : Nat) : Nat := 0xC000 + d * 0x400 + l * 0x18 + e
def ctrDie (d e : Nat) : Nat := 0xC000 + d * 0x400 + 0x240 + e
def ctrHub (e : Nat) : Nat := 0x10000 + e
def ctrBank (n e : Nat) : Nat := 0x14000 + n * 0x80 + e

/-- Adds to a counter, modulo 2^48 (R350). -/
def Pmc.add (p : Pmc) (k n : Nat) : Pmc :=
  { p with ctr := Tab.set 0 p.ctr k (Tab.get 0 p.ctr k + BitVec.ofNat 48 n) }

/-- Counts `n` occurrences of the event at index `k`. -/
def count (k n : Nat) : Act := modPmc (fun p => p.add k n)

/-- An occurrence as the filter sets see it (R357): its partition, its MASTER bit, whether it is privileged, its
class and its local address. -/
structure Occ where
  part : Option Nat := none
  master : Nat := 0
  priv : Bool := false
  cls : Option Nat := none
  addr : Option Nat := none

/-- True where the filter passes the occurrence (R356, R357). -/
def Filter.passes (f : Filter) (o : Occ) : Bool :=
  if !bit f.fctl 31 then true else
  let pr := fld f.fctl 29 2
  let privOk := pr == 0 || pr == 3 || (pr == 1 && !o.priv) || (pr == 2 && o.priv)
  let clsOk := match o.cls with
    | some c => bit f.fctl (16 + c)
    | none => true
  let partOk := match o.part with
    | some n => bit f.pmask n
    | none => f.pmask == 0xFFFFFFFF
  let addrOk := match o.addr with
    | some a => f.alo.toNat ≤ a && (f.ahi == 0 || a < f.ahi.toNat)
    | none => true
  privOk && clsOk && partOk && addrOk && bit f.fctl o.master

/-- The shared units whose power is apportioned (R330): the four link dies, the mesh and the hub. -/
def meshUnit : Nat := 4
def hubUnit : Nat := 5

/-- Key of what partition `n` uses of a shared unit; number 32 stands for traffic of no partition here. -/
def useKey (n unit : Nat) : Nat := n * 8 + unit

/-- Notes the use of a shared unit by a partition: flits of a link die, bytes of the mesh, chunks of the hub's HDMA (R330). -/
def noteUse (n unit k : Nat) : Act := modPmc (fun p => { p with
  used := Tab.set 0 p.used (useKey n unit) (Tab.get 0 p.used (useKey n unit) + k) })

/-- Counts an F event of filter block `block` (columns 0 to 19, link dies 20 to 23). -/
def countF (block k n : Nat) (o : Occ) : Act := fun s =>
  if (Tab.get {} s.pmc.filters block).passes o then count k n s else []

/-- The counter of the smallest slack (R355) is kept as its distance from the value it reads after clearing. -/
def slackCleared : BitVec 48 := 0x7FFFFFFFFFFF
def Pmc.slack (p : Pmc) (n : Nat) : BitVec 48 := Tab.get 0 p.slackMin n ^^^ slackCleared

/-- Records margin less SLACK at an arming (R355), in array cycles. -/
def noteSlack (n : Nat) (v : Int) : Act := modPmc (fun p =>
  if decide (v < BitVec.toInt (p.slack n)) then
    { p with slackMin := Tab.set 0 p.slackMin n (BitVec.ofInt 48 v ^^^ slackCleared) } else p)

/-- Clears partition bank `n` (R354). -/
def clearBank (n : Nat) : Act := modPmc (fun p =>
  { p with
    ctr := Tab.clear (ctrBank n 0) (ctrBank n 0x80) p.ctr, slackMin := Tab.clear n (n + 1) p.slackMin,
    milli := Tab.clear (ctrBank n 0) (ctrBank n 0x80) p.milli })

/-! ### Interrupts (R388) -/

/-- Sends vector `v` of function `f` (0 the PF, k the VF k), or sets its pending bit while it is masked. A VF that
does not exist sends nothing (R384). -/
def irq (f v : Nat) : Act := fun s =>
  if (f == 0 || (s.pcie.vfEnable && decide (f ≤ s.pcie.numVfs))) then
    (if s.pcie.unmasked.contains (f * 64 + v) then modOut (fun o => { o with irqs := o.irqs ++ [(f, v)] }) s
     else modPcie (fun p => { p with
       pendingBits := if p.pendingBits.contains (f * 64 + v) then p.pendingBits
         else p.pendingBits ++ [f * 64 + v] }) s)
  else []

/-- An interrupt to the physical function and to the virtual function of partition `n` (R388). -/
def irqPart (n v : Nat) : Act := Act.all [irq 0 (32 + n), irq (n + 1) v]

/-- Sets bits of `HUB_ALERT` and sends their interrupt (R388, R401). -/
def alert (i : Nat) : Act := Act.all [
  modHub (fun h => { h with alert := h.alert ||| BitVec.ofNat 6 (2 ^ i) }), irq 0 1]

/-- Sets causes of `TIM_INT`, with its interrupt and the alerts that follow it (R36, R388, R401). -/
def timInt (i : Nat) : Act := Act.all [
  modTim (fun t => { t with int := t.int ||| BitVec.ofNat 5 (2 ^ i) }), irq 0 0,
  Act.guard (i == 2) (alert 3), Act.guard (i == 3) (alert 4)]

/-- True while `ALERT_N` is driven low (R401): bits 0 and 1 are always enabled. -/
def alertLow (s : State) : Bool :=
  ((s.hub.alert ||| (if s.hub.bootFail then 2#6 else 0#6)) &&& (BitVec.ofNat 6 s.hub.alertEn.toNat ||| 3#6)) != 0

/-! ### The flight recorder (R320 to R323) -/

def dieHub : Nat := 0x80
def dieLink (d : Nat) : Nat := 0x40 + d

/-- The number of each event in this model's order; its CODE is that number's image under an opaque function. -/
def FltCode.index : FltCode → Nat
  | .lateStrike => 0 | .pintleWait => 1 | .depthExceeded => 2 | .holdover => 3 | .timeLost => 4 | .holdLate => 5
  | .holdMax => 6 | .programFault => 7 | .deadline => 8 | .stale => 9 | .haspDropped => 10 | .doorbellRefused => 11
  | .remoteRefused => 12 | .hopsDrop => 13 | .routeDrop => 14 | .parkDrop => 15 | .answerDropped => 16
  | .treesMeet => 17 | .shadowMismatch => 18 | .shadowStop => 19 | .deadbolt => 20 | .rowRetired => 21
  | .channelRetired => 22 | .eccUncorrectable => 23 | .eccCorrected => 24 | .replReason => 25 | .cperDropped => 26
  | .snapshotAborted => 27 | .slotFallback => 28 | .noHealth => 29 | .bootFail => 30 | .powerStuck => 31
  | .thermalTrip => 32 | .railStop => 33 | .railLow => 34 | .logFull => 35 | .replayMismatch => 36
  | .resetIgnored => 37 | .fieldTestFailed => 38 | .columnFailed => 39 | .linkFailed => 40 | .pintleSource => 41
  | .codeInvalid => 42

/-- An entry that no event has written. -/
def fltEmpty : FltEntry :=
  { hall := 0, die := 0, unit := 0, code := .lateStrike, part := 0, sev := 0, count := 0, free := 0 }

/-- The 32 bytes of ring entry `i` (R320); an entry never written reads 0. -/
def fltBytes (f : Flt) (i : Nat) : List Byte :=
  let e := Tab.get fltEmpty f.ring i
  if e = fltEmpty then List.replicate 32 0 else
  leBytes 8 e.hall.toNat ++ [e.die, e.unit] ++ leBytes 2 (Config.fltCodeNumber e.code.index).toNat ++
    [e.part, e.sev] ++ leBytes 2 e.count.toNat ++ leBytes 16 (Config.fltPayload e.code.index e.free).toNat

/-- Index of the partition, or 0xFF for none. -/
def partByte : Option Nat → BitVec 8
  | some n => BitVec.ofNat 8 n
  | none => 0xFF

/-- Writes an event into the ring: a repeat of the most recent entry's source and code within 1 ms adds to its count
(R320; DEDUCED, log entry 26: the source is DIE and UNIT). -/
def fltWrite (die unit : Nat) (code : FltCode) (part : Option Nat) (sev : Nat) : Act := fun s =>
  let f := s.flt
  let last := (f.wr - 1).toNat % 65536
  let e := Tab.get fltEmpty f.ring last
  if f.wr != 0 && e.die.toNat == die && e.unit.toNat == unit && decide (e.code = code) &&
     (s.tim.hall - e.hall).toNat ≤ 16000000 && e != fltEmpty then
    modFlt (fun f => { f with ring := Tab.set fltEmpty f.ring last { e with count := satAdd e.count 1 } }) s
  else
    Act.all [
      modFlt (fun f => { f with
        ring := Tab.set fltEmpty f.ring (f.wr.toNat % 65536)
          { hall := s.tim.hall, die := BitVec.ofNat 8 die, unit := BitVec.ofNat 8 unit, code := code,
            part := partByte part, sev := BitVec.ofNat 8 sev, count := 1, free := s.free },
        wr := f.wr + 1 }),
      fun t => [.free (t.free + 1)]] s

/-- Starts a flush of the last 4,096 entries, or notes that another must follow (R322). -/
def fltFlush : Act := fun s => modFlt (fun f =>
  if f.busy then { f with again := true }
  else { f with busy := true, flushWr := f.wr, flushHall := s.tim.hall }) s

/-- The bytes of a GUID as UEFI stores it: three little-endian groups and eight bytes. -/
def guid (a b c d : Nat) : List Byte := leBytes 4 a ++ leBytes 2 b ++ leBytes 2 c ++ beBytes 8 d

/-- The GUID of R323. -/
def thrumporGuid : List Byte := guid 0x7A3B90C4 0x2E51 0x4D8A 0xB6F019C2D4E58A13
/-- UEFI's notification type values for Corrected Machine Check and Machine Check Exception (PRESUMED, log entry 24). -/
def notifyCmc : List Byte := guid 0x2DCE8BB1 0xBDD7 0x450E 0xB9AD9CF4EBD4F890
def notifyMce : List Byte := guid 0xE8F56FFE 0x919C 0x4CC5 0xBA8865ABE14913BB

/-- A record under construction: opaque bytes where the specification places nothing. -/
def cperPut (bs : List Byte) (off : Nat) (v : List Byte) : List Byte := bs.take off ++ v ++ bs.drop (off + v.length)

/-- CPER severity of an FLT severity (R323). -/
def cperSeverity (sev : Nat) : Nat := if sev == 1 then 2 else if sev == 2 then 0 else if sev == 3 then 1 else 3

/-- Value of `HUB_ID` (R11). -/
def hubIdWord (f : Fuses) : BitVec 32 :=
  pack 32 [(16, 0x2596), (12, 1), (4, f.revMajor.toNat), (0, f.revMinor.toNat)]

/-- A record with its timestamp marked not valid (R323): the validation bit that UEFI places in bit 1 of byte 16 (PRESUMED, log
entry 24). -/
def noTimestamp (bs : List Byte) : List Byte := cperPut bs 16 [(bs[16]?).getD 0 &&& 0xFD]

/-- The 512 bytes of a CPER record of the newest ring entry (R323). Header places are UEFI's (PRESUMED, log entry 24). -/
def cperRecord (s : State) (n : Nat) (capture : List Byte) : List Byte :=
  let f := s.flt
  let idx := f.wr - 1
  let ent := fltBytes f (idx.toNat % 65536)
  let sev := (slice ent 13 1).headD 0
  let part := ((slice ent 12 1).headD 0).toNat
  let dom := if part < 32 && (s.dom part).active then (s.dom part).domain.toNat else 0xFFFF
  let dig := match (s.part part).obj with
    | some o => beBytes 32 o.digest.toNat
    | none => List.replicate 32 0
  let cs := cperSeverity sev.toNat
  let body := noTimestamp ((List.range 512).map (Config.cperByte n))
  let body := cperPut body 10 (leBytes 2 1)
  let body := cperPut body 12 (leBytes 4 cs)
  let body := cperPut body 64 thrumporGuid
  let body := cperPut body 80 (if cs == 2 then notifyCmc else notifyMce)
  let body := cperPut body 144 thrumporGuid
  cperPut body 200 (leBytes 2 1 ++ leBytes 2 s.hub.devno.toNat ++ leBytes 4 (hubIdWord s.fuses).toNat ++
    slice ent 8 8 ++ slice ent 0 8 ++ leBytes 4 idx.toNat ++ leBytes 2 dom ++ [0, 0] ++ slice ent 16 16 ++
    slice capture 0 16 ++ dig)

/-- Writes a CPER record of the newest entry to the host ring, or records that the ring was full (R323). -/
def cper (capture : List Byte) : Act := fun s =>
  if !s.flt.cperEn then [] else
  if (s.flt.cperWr - s.flt.cperRd).toNat ≥ 2 ^ s.flt.cperLog2.toNat then fltWrite dieHub 0 .cperDropped none 0 s
  else
    let a := s.flt.cperBase.toNat + (s.flt.cperWr.toNat % 2 ^ s.flt.cperLog2.toNat) * 512
    Act.all [storeAt a (cperRecord s s.free capture), modFlt (fun f => { f with cperWr := f.cperWr + 1 }),
      fun t => [.free (t.free + 1)], irq 0 2] s

/-- Records an event (R320), with the CPER record of an event of severity 2 or 3 (R323) and the flush of one of
severity 3 (R322). -/
def fltEventC (die unit : Nat) (code : FltCode) (part : Option Nat) (sev : Nat) (capture : List Byte) : Act := Act.all [
  fltWrite die unit code part sev,
  Act.guard (2 ≤ sev) (cper capture),
  Act.guard (sev == 3) fltFlush]

/-- Records an event with an empty capture field. -/
def fltEvent (die unit : Nat) (code : FltCode) (part : Option Nat) (sev : Nat) : Act :=
  fltEventC die unit code part sev []

/-- `HUB_STATUS.REPLACE` (R319). -/
def replaceBit (s : State) : Bool := s.hub.repl != 0

/-- Sets a reason in `HUB_REPL` (R319): once set it stays set; a new reason goes to FLT and CPER with severity 0. -/
def replReason (i : Nat) : Act := fun s =>
  if bit s.hub.repl i then [] else
  Act.all [modHub (fun h => { h with repl := h.repl ||| BitVec.ofNat 9 (2 ^ i) }),
    fltEvent dieHub 0 .replReason none 0, cper [], irq 0 1] s

end Sys2Proof.Machine
end

