-- ==== Sys2Proof/Machine/Time.lean ====
section
/-!
DEFINITION. Holds (R28 to R33), the sending of control symbols (R208), program faults (R93, R94), stalls (R25) and the
queue head of a stream (R79, R167).
-/
namespace Sys2Proof.Machine

/-! ### Control symbols -/

/-- The value of `STATUS.STATE` of a link that is UP (R225). -/
def linkUp : Nat := 2
def linkFailed : Nat := 3

/-- Puts a control symbol into the link's stream, to be sent twice in succession (R208). -/
def sendSym (l : LinkId) (b : SymBody) : Act :=
  modLink l (fun r => { r with sym := r.sym ++ [{ body := b, left := 0, copies := 2 }] })

/-- The symbols that are sent a third time (R208). -/
def SymBody.thrice : SymBody → Bool
  | .hold _ | .hasp _ | .elect _ | .electx _ => true
  | _ => false

/-- The receiver acts on a copy whose check passes, if it has acted on none before it (R208). -/
def LinkReg.takesCopy (r : LinkReg) (b : SymBody) (y : SymCopy) : Bool := y.ok && (match y.no with
  | .first => true
  | .second => !r.symActed
  | .third => !r.symDone.any (fun e => decide (e.1 = b)))

/-- What the receiver keeps of a copy, to drop the copies after it. A third copy comes 1 µs after the first; a symbol whose third
copy has not come within 2 µs is forgotten (DESIGN CHOICE, log entry 101). -/
def LinkReg.noteCopy (r : LinkReg) (b : SymBody) (y : SymCopy) (hall : BitVec 64) : LinkReg :=
  let kept := r.symDone.filter (fun e => decide ((hall - e.2).toNat < 32000))
  match y.no with
  | .third => { r with symDone := if y.ok then kept.filter (fun e => !decide (e.1 = b)) else kept }
  | _ => { r with
      symActed := decide (y.no = .first) && y.ok,
      symDone := if r.takesCopy b y && b.thrice then kept ++ [(b, hall)] else kept }

/-- A copy of a control symbol arrives on a link (R208). -/
def recvSym (l : LinkId) (b : SymBody) (y : SymCopy) (act : Act) : Act := fun s =>
  if (s.link l).state != linkUp then [] else
  Act.all [modLink l (fun r => r.noteCopy b y s.tim.hall), Act.guard ((s.link l).takesCopy b y) act] s

/-- The links that are UP. -/
def upLinks (s : State) : List LinkId := allLinks.filter (fun l => (s.link l).state == linkUp)

/-- Sends a symbol on every link that is UP except `but`. That a domain uses every link that is UP is a DESIGN CHOICE
(log entry 27): R29 names "every link that the domain uses" and no rule says which these are. -/
def floodSym (but : Option LinkId) (b : SymBody) : Act := fun s =>
  Act.each ((upLinks s).filter (fun l => some l != but)) (fun l => sendSym l b) s

/-! ### Holds -/

/-- Remembers that (source, sequence) was seen and forgets sequences half the range old (R29; DESIGN CHOICE, log
entry 28: how long a device remembers is not given, and SEQ has 8 bits). -/
def noteSeen (src : BitVec 16) (seq : BitVec 8) : Act := modTim (fun t => { t with
  seen := t.seen.filter (fun e => !(e.1 == src.toNat && 128 ≤ (seq.toNat + 256 - e.2) % 256)) ++
    [(src.toNat, seq.toNat)] })

/-- Sends a raise or a release of this device for the domain of partition `n` (R28, R29). -/
def sendHold (n : Nat) (release : Bool) : Act := fun s =>
  let seq := s.tim.holdSeq
  let eff := s.tim.hall + BitVec.ofNat 64 s.tim.lead.toNat
  Act.all [
    modDom n (fun d => { d with
      holds := d.holds ++ [{ source := s.hub.devno, seq := seq, release := release, effect := eff, taken := false }] }),
    modTim (fun t => { t with holdSeq := t.holdSeq + 1 }),
    noteSeen s.hub.devno seq,
    floodSym none (.hold { release := release, domain := (s.dom n).domain, source := s.hub.devno, seq := seq,
                           effect := eff })] s

/-- Raises a hold on the domain of partition `n` (R29), counted by `HOLD_COUNT` (R30). -/
def raiseHold (n : Nat) : Act := Act.when (fun s => (s.dom n).active) (Act.all [
  sendHold n false, modDom n (fun d => { d with holdCount := d.holdCount + 1 }),
  count (ctrHub 0x1A) 1, count (ctrBank n 0x0A) 1])

/-- Sends the release of one of this device's raises (R28). -/
def releaseHold (n : Nat) : Act := Act.when (fun s => (s.dom n).active) (sendHold n true)

/-- Holds of the source that have taken effect: raises less releases, at least 0 (R29). -/
def HoldRec.balance (hs : List HoldRec) (src : BitVec 16) (release : Bool) : Nat :=
  (hs.filter (fun h => h.source == src && h.taken && h.release == release)).length

/-- The domain is held by the records that have taken effect (R29). -/
def heldBy (hs : List HoldRec) : Bool :=
  hs.any (fun h => HoldRec.balance hs h.source true < HoldRec.balance hs h.source false)

/-- Applies the records marked taken to the domain at hall time `t` (R22, R29). -/
def Dom.settle (d : Dom) (t : BitVec 64) : Dom :=
  let h := heldBy d.holds
  if h && !d.held then { d with held := true, heldSince := t }
  else if !h && d.held then { d with held := false, heldTotal := d.heldTotal + d.heldPart t, holdMaxSent := false }
  else d

/-- The earliest effect time among records that have not taken effect. -/
def Dom.nextEffect (d : Dom) : Option (BitVec 64) :=
  (d.holds.filter (fun h => !h.taken)).foldl (fun m h =>
    match m with
    | none => some h.effect
    | some e => some (if h.effect < e then h.effect else e)) none

/-- Every record whose effect time is the earliest takes effect then (R29). -/
def takeEffect (n : Nat) : Act := fun s =>
  let d := s.dom n
  match d.nextEffect with
  | none => []
  | some e =>
    if e ≤ s.tim.hall then
      modDom n (fun d => ({ d with
        holds := d.holds.map (fun h => if h.effect == e then { h with taken := true } else h) } : Dom).settle e) s
    else []

/-! ### Stalls -/

/-- Begins a stall of partition `n` (R25). -/
def stall (n : Nat) (c : StallCause) (id : Nat) : Act := modDom n (fun d => { d with
  stalls := if d.stalls.contains (c, id) then d.stalls else d.stalls ++ [(c, id)] })

/-- Ends a stall of partition `n` (R25). -/
def unstall (n : Nat) (c : StallCause) (id : Nat) : Act := modDom n (fun d => { d with
  stalls := d.stalls.filter (fun e => e != (c, id)) })

/-- Begins a snapshot-buffer stall, which `STALLS` counts (R302). -/
def snapStall (n id : Nat) : Act := fun s =>
  if (s.dom n).stalls.contains (.snapshot, id) then [] else Act.all [
    stall n .snapshot id, modPart n (fun p => { p with snap := { p.snap with stalls := satAdd p.snap.stalls 1 } })] s

/-- Something has happened on which the acceptance of instructions can depend: every head of the partition can be tried again. -/
def retryHeads (n : Nat) : Act := fun s =>
  if (s.part n).run.streams.any (·.tried) then
    modRun n (fun r => { r with streams := r.streams.map (fun t => { t with tried := false }) }) s
  else []

/-! ### Streams and queue heads -/

/-- Number of a stream kind (R79). -/
def kindNum : StreamKind → Nat
  | .cell0 => 0 | .cell1 => 1 | .cell2 => 2 | .cell3 => 3 | .vx => 4 | .uu => 5 | .mov => 6 | .ctl => 7 | .clx => 8
  | .lmov => 9 | .hdma => 10

/-- The stream kind of a number (R79); 11 to 15 are reserved. -/
def kindOf : Nat → Option StreamKind
  | 0 => some .cell0 | 1 => some .cell1 | 2 => some .cell2 | 3 => some .cell3 | 4 => some .vx | 5 => some .uu
  | 6 => some .mov | 7 => some .ctl | 8 => some .clx | 9 => some .lmov | 10 => some .hdma
  | _ => none

/-- Streams of a quarter: every kind but CLX, LMOV and HDMA (R12). -/
def kindQuarter (k : StreamKind) : Bool := kindNum k < 8

/-- The stream named `sid`, if the loaded object has it. -/
def Run.stream (r : Run) (sid : StreamId) : Option Stream := r.streams.find? (fun t => t.sid == sid)
def stream (s : State) (sid : StreamId) : Option Stream := (s.part sid.part).run.stream sid

/-- Updates one stream. -/
def modStream (sid : StreamId) (f : Stream → Stream) : Act := modRun sid.part (fun r => { r with
  streams := r.streams.map (fun t => if t.sid == sid then f t else t) })

/-- The instruction at position `x` of a queue (R167). -/
def Queue.entry (s : State) (q : Queue) (x : BitVec 32) : InsnWord :=
  BitVec.ofNat 128 (leNat (peekN s (q.base.toNat + (x.toNat % 2 ^ q.log2.toNat) * 16) 16))

/-- The instruction at the head of a queue, if it holds one. -/
def Queue.headWord (s : State) (q : Queue) : Option InsnWord :=
  if q.head == q.tail then none else some (q.entry s q.head)

/-- Sets `QCTL_STAT.WAIT` and, when it changes, the PSC at which the wait began (R169). -/
def setWait (q code : Nat) (psc : BitVec 64) : Act := modQueue q (fun x =>
  if x.wait.toNat == code then x else { x with wait := BitVec.ofNat 4 code, wpsc := psc })

/-- Fields of an instruction word common to every engine (R80, R81). -/
def timed (w : InsnWord) : Bool := bit w 127
def opc (w : InsnWord) : Nat := fld w 120 7
def sub (w : InsnWord) : Nat := fld w 112 8
def dep (w : InsnWord) : Bool := bit w 111
def fence (w : InsnWord) : Bool := bit w 110
def opf (w : InsnWord) : Nat := fld w 104 4
def offset (w : InsnWord) : Nat := fld w 64 40
def slack (w : InsnWord) : Nat := fld w 40 24

/-- Origin of stream epoch `e`: the current or the previous epoch's (R85). -/
def Run.originOf (r : Run) (e : BitVec 32) : BitVec 64 := if e == r.bindingEpoch then r.curOrigin else r.prevOrigin

/-- The strike of a timed instruction (R23), from the origin of its stream's epoch. -/
def strikeOf (r : Run) (st : Stream) (w : InsnWord) : BitVec 64 :=
  r.originOf st.epoch + BitVec.ofNat 64 (offset w * 10)

/-- True for the CTL stream of logical quarter 0 of the first hosted rank: the partition's leader stream (R85). -/
def isLeader (sid : StreamId) : Bool := sid.kind == .ctl && sid.unit == 0 && sid.own == 0

/-- An EPOCH with SUB 0 outside the leader stream acts as a marker (R85), and its TIMED field has no effect. -/
def actsTimed (sid : StreamId) (w : InsnWord) : Bool := timed w && !(opc w == 0x02 && !isLeader sid)
/-- DEP as it acts (R85). -/
def actsDep (sid : StreamId) (w : InsnWord) : Bool := dep w && actsTimed sid w

/-- Where the walk of R28 stands: position, counters, epoch; the position since which every instruction has been walked in
order and none is dependent, and the counters that LOOPs there use; and whether the instruction at the position is the armed
head, whose hold point is past watching. -/
structure Walk where
  pos : BitVec 32
  c : List (BitVec 32)
  epoch : BitVec 32
  since : BitVec 32
  used : List Nat := []
  armed : Bool := false

/-- The walk passes an instruction. -/
def Walk.pass (k : Walk) : Walk := { k with pos := k.pos + 1, armed := false }

/-- The target of a LOOP lies among the instructions walked in order. -/
def Walk.covers (k : Walk) (target : BitVec 32) : Bool := decide ((k.pos - target).toNat ≤ (k.pos - k.since).toNat)

/-- The walk at a LOOP (R86), by its counters. A body that has just been walked without a dependent instruction is walked once: its
repetitions hold none either, so an endless LOOP ends the walk and a counted one is left. -/
def Walk.loop (k : Walk) (w : InsnWord) : Option Walk :=
  let i := fld w 56 2
  let v := (k.c[i]?).getD 0
  let target := k.pos - BitVec.ofNat 32 (fld w 32 24)
  let left : Walk := { k.pass with c := k.c.set i 0, used := i :: k.used }
  if fld w 0 32 != 0 && decide (fld w 0 32 ≤ v.toNat + 1) then
    some (if k.covers target then left else { left with since := k.pos + 1, used := [] })
  else if k.covers target && !k.used.contains i then (if fld w 0 32 == 0 then none else some left)
  else some { k with pos := target, c := k.c.set i (v + 1), since := target, used := [], armed := false }

def Stream.ctr (t : Stream) (i : Nat) : BitVec 32 :=
  if i == 0 then t.ctr0 else if i == 1 then t.ctr1 else if i == 2 then t.ctr2 else t.ctr3

/-- The next dependent instruction that the stream will reach (R28): its word and its strike. The walk ends at the end
of the queue and at an epoch whose origin is not set. -/
def nextDepFuel (s : State) (r : Run) (sid : StreamId) (q : Queue) : Nat → Walk → Option (InsnWord × BitVec 64)
  | 0, _ => none
  | f + 1, k =>
    if k.pos == q.tail then none else
    let w := q.entry s k.pos
    let known := k.epoch == r.bindingEpoch || k.epoch + 1 == r.bindingEpoch
    if actsDep sid w && !k.armed then
      (if known then some (w, r.originOf k.epoch + BitVec.ofNat 64 (offset w * 10)) else none)
    else if opc w == 0x02 then
      (if isLeader sid then none
       else if (r.bindingEpoch - (k.epoch + 1)).toNat < 2 ^ 31 then
         nextDepFuel s r sid q f { k.pass with epoch := k.epoch + 1, since := k.pos + 1, used := [] }
       else none)
    else if opc w == 0x04 then none
    else if opc w == 0x03 then
      (match k.loop w with
       | some k' => nextDepFuel s r sid q f k'
       | none => none)
    else nextDepFuel s r sid q f k.pass

/-- More steps than a walk that ends can take: it passes through no position, counters and epoch twice (log entry 29). -/
def walkFuel : Nat := 2 ^ 200

/-- The dependent instruction that the device watches for a stream (R28): the next not yet armed. -/
def nextDep (s : State) (st : Stream) : Option (InsnWord × BitVec 64) :=
  let q := s.queue st.queue
  let r := (s.part st.sid.part).run
  nextDepFuel s r st.sid q walkFuel
    { pos := q.head, c := [st.ctr0, st.ctr1, st.ctr2, st.ctr3], epoch := st.epoch, since := q.head, armed := st.armed }

/-! ### Program faults (R93, R94) -/

/-- Causes of a program fault (R94). -/
inductive Cause where
  | illegal | pair | ward | latchBound | epoch | loop | hazard | trap
  deriving DecidableEq, Repr

def Cause.code : Cause → BitVec 8
  | .illegal => 1 | .pair => 2 | .ward => 3 | .latchBound => 4 | .epoch => 5 | .loop => 6 | .hazard => 7 | .trap => 8

/-- Physical HDMA channel of a stream (R391, R419): each hosted rank names its own logical channels. -/
def Part.channel (p : Part) (sid : StreamId) : Option Nat :=
  (p.bind.hdma.find? (fun e => e.1 == sid.own * 16 + sid.unit)).map (·.2)

/-- `WHERE` of a stream (R94). -/
def whereOf (s : State) (sid : StreamId) : BitVec 32 :=
  let p := s.part sid.part
  let phys := if kindQuarter sid.kind then (p.quarter sid.own sid.unit).getD 0
    else if sid.kind == .hdma then (p.channel sid).getD 0
    else sid.unit
  let lq := if kindQuarter sid.kind then sid.unit else 0xFF
  pack 32 [(24, phys % 256), (16, lq % 256), (0, kindNum sid.kind)]

/-- `WHERE` of the pseudo-stream EXT (R94, R96). -/
def whereExt : BitVec 32 := pack 32 [(16, 0xFF), (0, 0xF)]

/-- What R94 captures of one fault. -/
structure FaultInfo where
  cause : Cause
  detail : Nat := 0
  whr : BitVec 32 := 0
  qpos : BitVec 32 := 0
  insn : InsnWord := 0
  addr : Nat := 0
  haz : Nat := 0
  whr2 : BitVec 32 := 0
  qpos2 : BitVec 32 := 0
  psc2 : BitVec 64 := 0

/-- Captures a program fault: the first is kept, later ones are counted (R94). -/
def PFault.capture (f : PFault) (i : FaultInfo) (psc : BitVec 64) : PFault :=
  if f.valid then { f with count := satAdd f.count 1 }
  else { valid := true, haz := BitVec.ofNat 2 i.haz, detail := BitVec.ofNat 8 i.detail, code := i.cause.code,
         whr := i.whr, qpos := i.qpos, insn := i.insn, psc := psc, addr := BitVec.ofNat 64 i.addr,
         whr2 := i.whr2, qpos2 := i.qpos2, psc2 := i.psc2, count := 0 }

/-- Stops every stream of the partition at its next instruction boundary (R93 step 2, R98). -/
def stopStreams (n : Nat) : Act := fun s =>
  let p := s.part n
  Act.all [
    modRun n (fun r => { r with streams := r.streams.map (fun t => { t with stopped := true }) }),
    Act.each (p.run.streams.filter (fun t => !t.halted)) (fun t => setWait t.queue 7 (s.dom n).psc)] s

/-- Raises a program fault in partition `n` (R93): capture, stop of the streams, a hold with no release, FLT,
interrupts, and STATE FAULTED. -/
def progFault (n : Nat) (i : FaultInfo) : Act := Act.all [
  fun s => modPart n (fun p => { p with pfault := p.pfault.capture i (s.dom n).psc }) s,
  count (ctrHub 0x19) 1,
  stopStreams n,
  raiseHold n,
  fltEvent dieHub 4 .programFault (some n) 2,
  irqPart n 1,
  modPart n (fun p => { p with load := { p.load with state := .faulted } })]

end Sys2Proof.Machine
end

