-- ==== Sys2Proof/Machine/Plan.lean ====
section
/-!
DEFINITION. Latency classes and planned durations of memory accesses (R182, R183), and the ranges that instructions
read and write (R107, R129).
-/
namespace Sys2Proof.Machine

def sramLogical : Nat := 0x10000000000
def hostLogical : Nat := 0x20000000000

/-- Planned latency of a class, in array cycles (R182). -/
def classLatency (rhops : Nat) : Nat → Nat
  | 0 => 16
  | 1 => 160
  | 2 => 314
  | 3 => 776 + 448 * rhops
  | _ => 3200

/-- Peak rate of a class in bytes per cycle (R182); class 0 takes the engine's. -/
def classPeak (peak0 : Nat) : Nat → Nat
  | 0 => peak0
  | 1 => 625
  | 2 => 625
  | 3 => 64
  | _ => 80

/-- A grant capped at the class's peak, in 1/256 byte per cycle; 0 plans at the peak (R183). -/
def grantRate (grant peak : Nat) : Nat := if grant = 0 then 256 * peak else min grant (256 * peak)

/-- The logical column of a logical quarter (R185). -/
def Obj.lcolOf (o : Obj) (lq : Nat) : Option Nat :=
  (List.range o.cols.length).find? (fun g =>
    match o.cols[g]? with
    | some c => c.first ≤ lq && lq < c.first + c.count
    | none => false)

/-- An engine as R182 sees it: its logical column, if it lies in one, and its class 0 peak. An engine of a link die or
the hub lies in no logical column (DEDUCED, log entry 30). -/
structure Engine where
  col : Option Nat
  peak0 : Nat

/-- Class 0 peak of a tensor cell (R182). -/
def cellPeak : Nat := 1024

/-- The engine of a stream. -/
def engineOf (p : Part) (sid : StreamId) : Engine :=
  let cell := kindNum sid.kind < 4
  { col := if kindQuarter sid.kind then (match p.obj with
      | some o => o.lcolOf sid.unit
      | none => none) else none,
    peak0 := if cell then cellPeak else 512 }

/-- Latency, rate and end of the piece that begins at an address (R183). -/
structure Piece where
  lat : Nat
  rate : Nat
  stop : Nat

/-- End of segment `i`. -/
def segEnd (o : Obj) (i : Nat) : Nat := segBase o.segs (i + 1)

/-- The piece at address `a` of hosted rank `own`. Bytes outside the ward form a class 0 piece (R183). -/
def pieceAt (p : Part) (own : Nat) (e : Engine) (a : Nat) : Piece :=
  match p.obj with
  | none => { lat := 16, rate := 256 * e.peak0, stop := 2 ^ 64 }
  | some o =>
    let out (stop : Nat) : Piece := { lat := 16, rate := 256 * e.peak0, stop := stop }
    if a < sramLogical then
      (match findSeg o.segs 0 a with
       | some (i, g, _) =>
         { lat := classLatency o.rhops g.pclass, rate := grantRate g.grant (classPeak e.peak0 g.pclass),
           stop := segEnd o i }
       | none => out sramLogical)
    else if a < sramLogical + 20 * 0x10000000 then
      let g := (a - sramLogical) / 0x10000000
      let stop := a - a % 0x800000 + 0x800000
      if p.inWard own a then
        { lat := if e.col == some g then 16 else 314, rate := 256 * e.peak0, stop := stop }
      else out stop
    else if hostLogical ≤ a && p.inWard own a then
      { lat := 3200, rate := 256 * 80, stop := hostLogical + p.kwy.winSize.toNat * gib }
    else if a < hostLogical then out hostLogical
    else out (2 ^ 64)

/-- Largest latency and smallest rate over the pieces of `[a, a + n)` (R183). -/
def planFuel (p : Part) (own : Nat) (e : Engine) : Nat → Nat → Nat → Nat × Nat → Nat × Nat
  | 0, _, _, acc => acc
  | f + 1, a, n, acc =>
    if n = 0 then acc else
    let x := pieceAt p own e a
    let k := min n (x.stop - a)
    planFuel p own e f (a + k) (n - k) (max acc.1 x.lat, if acc.2 = 0 then x.rate else min acc.2 x.rate)

/-- Largest latency and smallest rate over a list of (address, length) ranges (R183). -/
def plan (p : Part) (own : Nat) (e : Engine) (rs : List (Nat × Nat)) : Nat × Nat :=
  rs.foldl (fun acc r => planFuel p own e 4400 r.1 r.2 acc) (0, 0)

/-- Planned duration of an access of `n` bytes (R183). -/
def duration (lr : Nat × Nat) (n : Nat) : Nat := lr.1 + ceilDiv (n * 256) lr.2

/-- First address outside the ward among ranges, by 2 MiB page, slice and segment pieces (R93). -/
def firstOutFuel (p : Part) (own : Nat) (e : Engine) : Nat → Nat → Nat → Option Nat
  | 0, _, _ => none
  | f + 1, a, n =>
    if n = 0 then none else
    if p.inWard own a then
      let k := min n (min ((pieceAt p own e a).stop - a) (pageSize - a % pageSize))
      firstOutFuel p own e f (a + k) (n - k)
    else some a

def firstOut (p : Part) (own : Nat) (e : Engine) (rs : List (Nat × Nat)) : Option Nat :=
  rs.findSome? (fun r => firstOutFuel p own e (r.2 / 0x100000 + 8) r.1 r.2)

/-- The parts of a range that lie in REMOTE homes (R189). -/
def remoteFuel (p : Part) (own : Nat) (e : Engine) : Nat → Nat → Nat → List Fetch
  | 0, _, _ => []
  | f + 1, a, n =>
    if n = 0 then [] else
    let k := min n (min ((pieceAt p own e a).stop - a) (pageSize - a % pageSize))
    match p.reach own a with
    | .remote peer ra => { own := own, addr := a, len := k, peer := peer, far := ra } :: remoteFuel p own e f (a + k) (n - k)
    | _ => remoteFuel p own e f (a + k) (n - k)

def remoteParts (p : Part) (own : Nat) (e : Engine) (rs : List (Nat × Nat)) : List Fetch :=
  rs.flatMap (fun r => remoteFuel p own e (r.2 / 0x100000 + 8) r.1 r.2)

/-- Two ranges of one space that overlap. -/
def Rng.meets (a b : Rng) : Bool := a.space == b.space && a.lo < b.hi && b.lo < a.hi

/-- Partition-logical address of the first byte of a logical cell's store (R177). -/
def storeBase (o : Obj) (lq j : Nat) : Nat :=
  match o.lcolOf lq with
  | none => 0
  | some g =>
    match o.cols[g]? with
    | none => 0
    | some c => sramLogical + g * 0x10000000 + 0x4000000 + (4 * (lq - c.first) + j) * 0x800000

/-- The pieces of a range by 2 MiB page: partition-logical address and length. -/
def pageParts : Nat → Nat → Nat → List (Nat × Nat)
  | 0, _, _ => []
  | f + 1, a, n =>
    if n = 0 then [] else
    let k := min n (pageSize - a % pageSize)
    (a, k) :: pageParts f (a + k) (n - k)

/-- A byte range of the address space of a hosted rank. -/
def memRng (own a n : Nat) : Rng := { space := .mem own, lo := a, hi := a + n }

/-- The granules of R96 in a range: 256 byte granules of SRAM and total buffer rows. DRAM and the host window are not
tracked. -/
def Rng.granules (r : Rng) : List (Space × Nat) :=
  match r.space with
  | .mem _ =>
    if sramLogical ≤ r.lo && r.hi ≤ sramLogical + 20 * 0x10000000 && r.lo < r.hi then
      (List.range ((r.hi - 1) / 256 - r.lo / 256 + 1)).map (fun i => (r.space, r.lo / 256 + i))
    else []
  | .tb _ => (List.range (r.hi - r.lo)).map (fun i => (r.space, r.lo + i))
  | _ => []

end Sys2Proof.Machine
end

