-- ==== Sys2Proof/Machine/Record.lean ====
section
/-!
DEFINITION. Fingerprints, the log ring and record windows (R272 to R278), and the comparison of replay (R282).
-/
namespace Sys2Proof.Machine

/-- A transfer of R274: the hosted rank's index, the peer's logical rank, kind, direction (true outbound), job epoch,
tag, address, BYTES, ARG and payload. -/
structure Xfer where
  own : Nat
  peer : Nat
  kind : Nat
  outb : Bool
  epoch : Nat
  tag : Nat
  addr : Nat
  bytes : Nat
  arg : Nat
  payload : List Byte

/-- The descriptor of a transfer (R273). -/
def Xfer.desc (x : Xfer) : List Byte :=
  leBytes 4 x.peer ++ leBytes 1 x.kind ++ leBytes 1 (b2n x.outb) ++ leBytes 2 0 ++ leBytes 4 x.epoch ++
    leBytes 2 x.tag ++ leBytes 2 0 ++ leBytes 8 x.addr ++ leBytes 4 x.bytes ++ leBytes 4 x.arg

/-- The fingerprint of a transfer (R273). -/
def Xfer.fp (x : Xfer) : BitVec 64 := crc64 (x.desc ++ x.payload)

/-- Peer of a host transfer (R273). -/
def hostPeer : Nat := 0xFFFFFFFF

/-- Local address of log entry `i` (R275). -/
def RecReg.logAddr (r : RecReg) (i : BitVec 32) : Nat := r.logBase.toNat + (i.toNat % 2 ^ r.log2.toNat) * 32

/-- Appends a log entry, or drops it when the ring is full (R275, R276). -/
def recAppend (n : Nat) (entry : List Byte) : Act := fun s =>
  let r := (s.part n).recd
  if (r.logWr - r.logRd).toNat ≥ 2 ^ r.log2.toNat then
    Act.all [
      modPart n (fun p => { p with
        recd := { p.recd with dropped := satAdd p.recd.dropped 1, ovf := true, full := true } }),
      Act.guard (!r.full) (fltEvent dieHub 4 .logFull (some n) 0)] s
  else
    Act.all [storeAt (r.logAddr r.logWr) entry,
      modPart n (fun p => { p with recd := { p.recd with logWr := p.recd.logWr + 1, full := false } })] s

/-- The log entry of a transfer (R275); `pos` is its data ring position when its data is held. -/
def Xfer.entry (x : Xfer) (psc : BitVec 64) (pos : Option (BitVec 32)) : List Byte :=
  leBytes 8 psc.toNat ++ leBytes 8 x.fp.toNat ++ leBytes 4 x.peer ++ leBytes 1 x.kind ++
    leBytes 1 (b2n x.outb + 2 * b2n pos.isSome + 16 * x.own) ++ leBytes 2 x.tag ++ leBytes 4 x.bytes ++
    leBytes 4 ((pos.map (·.toNat)).getD 0)

/-- Key of the outbound order of replay (R282). -/
def Xfer.key (x : Xfer) : Nat := (x.peer * 256 + x.kind) * 65536 + x.tag

/-- The log entry is of the replayed rank: index 0 in OWN (R280; DESIGN CHOICE, log entry 103). -/
def ownEntry (e : List Byte) : Bool := leAt e 21 1 / 16 % 8 == 0

/-- The next recorded outbound entry of the transfer's (peer, KIND, TAG) at or after position `i` (R282); entries of kind 0x10 are
compared in the same way (R281). -/
def findOut (s : State) (r : RecReg) (x : Xfer) : Nat → BitVec 32 → Option (BitVec 32 × BitVec 64)
  | 0, _ => none
  | f + 1, i =>
    if i == r.logWr then none else
    let e := fetchAt s (r.logAddr i) 32
    if leAt e 16 4 == x.peer && leAt e 20 1 == x.kind && leAt e 22 2 == x.tag && ownEntry e &&
        (leAt e 21 1 % 2 == 1 || x.kind == 0x10) then
      some (i, BitVec.ofNat 64 (leAt e 8 8))
    else findOut s r x f (i + 1)

/-- Counts and captures a replay mismatch (R282). -/
def mismatch (n : Nat) (x : Xfer) (rec : BitVec 64) : Act := fun s =>
  Act.all [
    modPart n (fun p =>
      let r := { p.recd with mmCount := satAdd p.recd.mmCount 1 }
      { p with recd := if r.mm then r else { r with
          mm := true, mmPsc := (s.dom n).psc, mmPeer := BitVec.ofNat 32 x.peer,
          mmTk := pack 32 [(16, x.tag), (8, b2n x.outb), (0, x.kind)], mmRec := rec, mmGot := x.fp } }),
    fltEvent dieHub 4 .replayMismatch (some n) 0,
    irqPart n 4,
    Act.guard (s.part n).recd.stopmm (raiseHold n)] s

/-- Compares an outbound transfer, or a host queue entry, with the log (R281, R282). -/
def replayCompare (n : Nat) (x : Xfer) : Act := fun s =>
  let r := (s.part n).recd
  let start := ((r.outSeen.find? (fun e => e.1 == x.key)).map (fun e => BitVec.ofNat 32 e.2)).getD r.logFrom
  match findOut s r x (2 ^ r.log2.toNat) start with
  | none => mismatch n x 0 s
  | some (i, fp) =>
    Act.all [
      modPart n (fun p => { p with recd := { p.recd with
        outSeen := (x.key, (i + 1).toNat) :: p.recd.outSeen.filter (fun e => e.1 != x.key) } }),
      Act.guard (fp != x.fp) (mismatch n x fp)] s

/-- Records a transfer whose bytes do not wait for a copy: an outbound one, or an inbound one outside a window
(R275); in replay an outbound transfer is compared instead (R282). -/
def recXfer (n : Nat) (x : Xfer) : Act := fun s =>
  let r := (s.part n).recd
  if r.fp then recAppend n (x.entry (s.dom n).psc none) s
  else if r.replay && (x.outb || x.kind == 0x10) then replayCompare n x s
  else []

/-- A replay that has reached the end of its window ends with its last operation (R282). -/
def replayDone (n : Nat) : Act := fun s =>
  let p := s.part n
  if p.recd.ending && p.run.ops.isEmpty then Act.all [
    raiseHold n, modPart n (fun p => { p with recd := { p.recd with ending := false, endd := true } }), irqPart n 4] s
  else []

/-- True while inbound bytes wait for HDMA to accept their copies (R277). -/
def RecReg.copying (r : RecReg) : Bool := r.fp && r.win

/-- Records a host input: at once, or held back by an open window until its copy is accepted (R274, R277). Bytes that
an operation `op` awaits then count only with the copy; a queue entry's log entry holds its issue PSC. -/
def recInputOp (n : Nat) (x : Xfer) (op : Option Nat) : Act := fun s =>
  if (s.part n).recd.copying then
    Act.all [
      modPart n (fun p => { p with recd := { p.recd with
        waiting := p.recd.waiting ++ [{ own := x.own, desc := x.desc, payload := x.payload, msg := none,
                                        op := op.map (fun i => (i, x.payload.length)),
                                        psc := if x.kind = 0x10 then some (s.dom n).psc else none }] } }),
      modRun n (fun r => { r with ops := r.ops.map (fun o =>
        if op == some o.id then { o with want := o.want + x.payload.length } else o) })] s
  else recXfer n x s

/-- Records a host input that no operation awaits. -/
def recInput (n : Nat) (x : Xfer) : Act := recInputOp n x none

/-- Size of the data ring in 256 byte units (R278). -/
def RecReg.dataUnits (r : RecReg) : Nat := r.dataSize.toNat * 4096

/-- Local address of a data ring unit. -/
def RecReg.dataAddr (r : RecReg) (i : Nat) : Nat := r.dataBase.toNat + (i % (max 1 r.dataUnits)) * 256

/-- Writes units of 256 bytes to the data ring from position `i`. -/
def pokeUnits (r : RecReg) (i : Nat) (bs : List Byte) : Act :=
  Act.all ((chunks 256 bs).zipIdx.map (fun c => storeAt (r.dataAddr (i + c.2)) c.1))

/-- The job epoch of a binding epoch (R289). -/
def Run.jobEpoch (r : Run) (e : BitVec 32) : Nat := (r.epochBase + e).toNat

/-- The trace entry of HALT (R272, R275). -/
def traceEntry (n : Nat) (st : Stream) : Act := fun s =>
  let p := s.part n
  let d := s.dom n
  recAppend n (leBytes 8 d.psc.toNat ++ leBytes 8 (st.crc ^^^ 0xFFFFFFFFFFFFFFFF).toNat ++
    leBytes 4 (kindNum st.sid.kind * 16 + (st.sid.unit % 256) * 256) ++ leBytes 1 0x20 ++
    leBytes 1 (16 * st.sid.own) ++ leBytes 2 0 ++ leBytes 8 (s.tim.hall - p.run.firstOrigin).toNat) s

end Sys2Proof.Machine
end

