-- ==== Sys2Proof/Machine/Operands.lean ====
section
/-!
DEFINITION. The operand fields of a Kretex word (R80 to R83) and the legality of every encoding (R83, R84, R151, R106,
R110 to R116, R127, R128, R130, R193 to R200, R229, R255, R256, R391).
-/
namespace Sys2Proof.Machine

/-- True where every listed field (lowest bit, width) is zero. -/
def clear (w : InsnWord) (fs : List (Nat × Nat)) : Bool := fs.all (fun f => fld w f.1 f.2 == 0)

/-- How an opcode and SUB may be timed (R82). -/
inductive Timing where
  | never | may | must
  deriving DecidableEq, Repr

/-- What the tables of the opcode chapters say of an opcode and SUB: its timing, whether it may carry DEP, the DETAIL
of the first field that is illegal, if one is. -/
structure Row where
  timing : Timing
  dep : Bool
  bad : Option Nat

/-- DETAIL 3 when the condition fails. -/
def need (c : Bool) : Option Nat := if c then none else some 3

/-- The first finding of several. -/
def firstOf : List (Option Nat) → Option Nat
  | [] => none
  | some x :: _ => some x
  | none :: r => firstOf r

/-- Operand A, [103:64], must be 0 when the word is not timed and the opcode does not name it. -/
def opaClear (w : InsnWord) : Bool := timed w || fld w 64 40 == 0
/-- [63:40] must be 0 unless DEP makes it SLACK (R82). -/
def slackClear (w : InsnWord) : Bool := dep w || fld w 40 24 == 0

/-- Control opcodes (R84). -/
def controlRow (sid : StreamId) (w : InsnWord) : Option Row :=
  match opc w, sub w with
  | 0x00, 0 => some ⟨.may, false, need (opf w == 0 && opaClear w && clear w [(0, 64)])⟩
  | 0x01, 0 => some ⟨.must, true, need (opf w == 0 && slackClear w && clear w [(0, 40)])⟩
  | 0x02, 0 => some ⟨.must, true, firstOf [if sid.kind == .ctl && sid.unit == 0 then none else some 4,
      need (clear w [(105, 3), (32, 8)] && slackClear w)]⟩
  | 0x02, 1 => some ⟨.never, false, firstOf [if sid.kind == .ctl && sid.unit == 0 then some 4 else none,
      need (clear w [(105, 3), (64, 40), (32, 32)])]⟩
  | 0x03, 0 => some ⟨.never, false, need (opf w == 0 && clear w [(64, 40), (58, 6)] && fld w 32 24 != 0)⟩
  | 0x04, 0 => some ⟨.may, false, need (opf w == 0 && opaClear w && clear w [(0, 64)])⟩
  | 0x05, 0 => some ⟨.may, false, need (opf w == 0 && opaClear w && clear w [(32, 32)])⟩
  | _, _ => none

/-- Synchronisation opcodes (R151 to R164). -/
def syncRow (sid : StreamId) (w : InsnWord) : Option Row :=
  let ctl : Option Nat := if sid.kind == .ctl then none else some 4
  match opc w, sub w with
  | 0x08, 0 => some ⟨.may, false, need (opf w == 0 && opaClear w && clear w [(32, 13)])⟩
  | 0x09, 0 => some ⟨.never, false, need (opf w == 0)⟩
  | 0x0A, 0 => some ⟨.never, false, need (clear w [(32, 2)])⟩
  | 0x0B, 0 => some ⟨.never, false, firstOf [ctl, need (opf w == 0 && clear w [(64, 40), (0, 16)])]⟩
  | 0x0C, 0 => some ⟨.may, true, need (clear w [(105, 3)] && opaClear w && slackClear w)⟩
  | 0x0D, 0 => some ⟨.never, false, firstOf [ctl, need (opf w == 0 && clear w [(64, 40), (0, 24)] &&
      fld w 50 2 != 3 && fld w 24 7 != 0 && decide (fld w 24 7 ≤ 64))]⟩
  | _, _ => none

/-- True for a format code of R38. -/
def fmtOk (c : Nat) : Bool := (fmtOf c).isSome

/-- Cell opcodes (R106 to R116). A code that is no format carries DETAIL 6; a pair outside R56 is a PAIR fault and no
encoding fault (R57). -/
def cellRow (w : InsnWord) : Option Row :=
  match opc w, sub w with
  | 0x10, 0 => some ⟨.never, false, need (opf w == 0)⟩
  | 0x11, 0 => some ⟨.never, false, need (opf w == 0)⟩
  | 0x18, 0 => some ⟨.never, false, firstOf [need (clear w [(104, 1), (64, 8)] && fld w 48 16 != 0),
      if fmtOk (fld w 8 4) && fmtOk (fld w 4 4) then none else some 6]⟩
  | 0x19, 0 => some ⟨.never, false, firstOf [need (clear w [(104, 1), (64, 8), (48, 3), (12, 3)]),
      if fmtOk (fld w 8 4) && fmtOk (fld w 4 4) then none else some 6]⟩
  | 0x1C, 0 => some ⟨.never, false, need (clear w [(104, 4), (32, 16), (0, 10)] && fld w 10 2 != 3)⟩
  | 0x1D, 0 => some ⟨.never, false, need (clear w [(104, 3), (32, 16), (0, 10)] && fld w 10 2 != 3 &&
      fld w 10 2 != 0)⟩
  | 0x1E, 0 => some ⟨.never, false, need (opf w == 0 && clear w [(66, 6)] && fld w 64 2 != 3)⟩
  | _, _ => none

/-- Formats in which VX computes (R128). -/
def vxNum (c : Nat) : Bool := c == 4 || c == 5 || c == 11 || c == 12 || c == 13
def vxFloat (c : Nat) : Bool := c == 4 || c == 5
def vxInt (c : Nat) : Bool := c == 11 || c == 12 || c == 13

/-- The register form of R128: OPF use, which of the fields [99:96] SS, [95:64] IMM, VD, VA, VB, VC, FT, FD, RM, SEG
an opcode uses. Fields not used must be 0. -/
structure VxUse where
  opf : List (Nat × Nat)
  ss : Bool
  imm : Bool
  va : Bool
  vb : Bool
  vc : Bool
  fd : Bool
  seg : Bool

def vxClear (w : InsnWord) (u : VxUse) : Bool :=
  clear w u.opf && clear w [(100, 4), (32, 1), (0, 19)] &&
  (u.ss || fld w 96 4 == 0) && (u.imm || fld w 64 32 == 0) && (u.va || fld w 54 5 == 0) && (u.vb || fld w 49 5 == 0) &&
  (u.vc || fld w 44 5 == 0) && (u.fd || clear w [(36, 4), (33, 3)]) && (u.seg || fld w 19 4 == 0)

/-- DETAIL 6 when the opcode does not accept FT. -/
def ftOk (c : Bool) : Option Nat := if c then none else some 6

/-- VX opcodes (R127 to R146). -/
def vxRow (w : InsnWord) : Option Row :=
  let ft := fld w 40 4
  let all4 : List (Nat × Nat) := [(104, 4)]
  let base : VxUse := { opf := all4, ss := false, imm := false, va := true, vb := true, vc := false, fd := false,
                        seg := false }
  let mk (u : VxUse) (f : Bool) : Option Row := some ⟨.never, false, firstOf [need (vxClear w u), ftOk f]⟩
  match opc w, sub w with
  | 0x30, 0 => some ⟨.never, false, firstOf [need (opf w == 0 && clear w [(44, 15), (32, 8), (0, 23)]), ftOk (fmtOk ft)]⟩
  | 0x31, 0 => some ⟨.never, false, firstOf [need (opf w == 0 && clear w [(44, 15), (32, 8), (0, 23)]), ftOk (fmtOk ft)]⟩
  | 0x32, 0 => mk { base with imm := true, va := false, vb := false } (vxNum ft)
  | 0x34, n =>
    if n < 3 || n == 4 || n == 5 then mk base (vxNum ft)
    else if n == 3 then mk { base with vc := true } (vxFloat ft)
    else if n == 6 || n == 7 then mk { base with vb := false } (vxNum ft)
    else if n == 8 then mk base (vxFloat ft)
    else if n == 9 then mk { base with vb := false } (vxFloat ft)
    else none
  | 0x35, n => if n < 7 then mk { base with vb := n != 3 } (vxInt ft) else none
  | 0x36, n => if n < 4 then mk base (vxNum ft) else none
  | 0x37, 0 => mk { base with vc := true } (ft == 0)
  | 0x38, n =>
    if n < 2 then mk { base with vb := false } (ft == 4)
    else if n == 2 then mk base (ft == 5) else none
  | 0x3A, n => if n < 4 then some ⟨.never, false, firstOf [
      need (vxClear w { base with vb := false, seg := true } && decide (fld w 19 4 ≤ 9)), ftOk (vxNum ft)]⟩ else none
  | 0x3C, 0 =>
    let rsto := fld w 33 3 == 4
    let fd := fld w 36 4
    some ⟨.never, false, firstOf [
      need (vxClear w { base with opf := [(105, 3)], ss := rsto, imm := rsto, vb := rsto, fd := true } &&
        decide (fld w 33 3 ≤ 4) && (!bit w 104 || decide (fd ≤ 2))), ftOk (fmtOk ft && fmtOk fd)]⟩
  | 0x3D, n =>
    let u : VxUse := { base with ss := true, imm := true, va := n == 2 }
    if n == 0 then mk { u with opf := [(106, 2)] } (ft == 0)
    else if n < 3 then mk u (ft == 0) else none
  | 0x3E, 0 => some ⟨.never, false, need (opf w == 0 && clear w [(0, 64)])⟩
  | 0x3F, 0 => some ⟨.never, false, firstOf [need (opf w == 0 && clear w [(64, 40), (44, 20), (0, 40)]), ftOk (ft == 0)]⟩
  | _, _ => none

/-- UU opcodes (R255, R256). -/
def uuRow (w : InsnWord) : Option Row :=
  match opc w, sub w with
  | 0x50, n => if n < 2 then some ⟨.never, false, need (opf w == 0 && clear w [(0, 61)])⟩ else none
  | 0x51, 0 => some ⟨.never, false, need (opf w == 0 && clear w [(64, 40)])⟩
  | 0x52, 0 => some ⟨.never, false, need (opf w == 0 && clear w [(0, 61)])⟩
  | 0x53, 0 => some ⟨.never, false, need (opf w == 0 && clear w [(64, 40), (0, 59)] && fld w 59 2 != 0)⟩
  | 0x54, 0 => some ⟨.never, false, need (opf w == 0 && clear w [(64, 40), (8, 56), (2, 2)] && fld w 4 4 != 0 &&
      bit w (4 + fld w 0 2))⟩
  | 0x54, 1 => some ⟨.never, false, need (opf w == 0 && clear w [(64, 40), (0, 64)])⟩
  | _, _ => none

/-- MOV opcodes (R193 to R195). -/
def movRow (w : InsnWord) : Option Row :=
  match opc w, sub w with
  | 0x60, 0 => some ⟨.never, false, need (clear w [(105, 3)] && (!bit w 104 || fld w 24 40 == 0))⟩
  | 0x61, 0 => some ⟨.never, false, need (opf w == 0)⟩
  | _, _ => none

/-- CLX opcodes (R229). -/
def clxRow (w : InsnWord) : Option Row :=
  let coll (low : List (Nat × Nat)) (t : Timing) : Option Row :=
    some ⟨t, true, need (opf w == 0 && opaClear w && slackClear w && clear w low)⟩
  match opc w, sub w with
  | 0x70, 0 => some ⟨.never, false, need (opf w == 0 && clear w [(0, 56)])⟩
  | 0x71, n => if n < 2 then coll [(0, 16)] .may else none
  | 0x72, 0 => coll [(0, 16)] .may
  | 0x73, n => if n < 2 then coll [(0, 32)] .may else none
  | 0x74, 0 => coll [(0, 16)] .may
  | 0x74, 1 => coll [(0, 16)] .must
  | 0x75, 0 => coll [(0, 16)] .may
  | _, _ => none

/-- LMOV opcodes (R193, R196, R197, R200). -/
def lmovRow (w : InsnWord) : Option Row :=
  match opc w, sub w with
  | 0x78, 0 => some ⟨.never, false, need (opf w == 0 && clear w [(0, 22)])⟩
  | 0x79, 0 => some ⟨.never, false, need (opf w == 0 && clear w [(0, 22)])⟩
  | 0x7A, 0 => some ⟨.never, false, need (opf w == 0 && clear w [(0, 8)] && fld w 46 2 != 3)⟩
  | 0x7B, 0 => some ⟨.never, false, need (opf w == 0 && clear w [(24, 62)] && decide (2 ≤ fld w 86 2))⟩
  | _, _ => none

/-- HDMA opcodes (R391). -/
def hdmaRow (w : InsnWord) : Option Row :=
  match opc w, sub w with
  | 0x7C, n => if n < 2 then some ⟨.never, false, need (opf w == 0 && clear w [(16, 4)] && fld w 0 16 != 0 &&
      decide (fld w 0 16 ≤ 40960))⟩ else none
  | 0x7D, 0 => some ⟨.never, false, need (opf w == 0 && clear w [(32, 32)])⟩
  | 0x7E, 0 => some ⟨.never, false, need (opf w == 0 && clear w [(0, 104)])⟩
  | _, _ => none

/-- The opcodes that some SUB defines (R79, R84, R106, R127, R151, R193, R229, R255, R391). -/
def opcKnown (o : Nat) : Bool :=
  decide (o ≤ 0x05) || (decide (0x08 ≤ o) && decide (o ≤ 0x0D)) ||
  [0x10, 0x11, 0x18, 0x19, 0x1C, 0x1D, 0x1E].contains o ||
  [0x30, 0x31, 0x32, 0x34, 0x35, 0x36, 0x37, 0x38, 0x3A, 0x3C, 0x3D, 0x3E, 0x3F].contains o ||
  (decide (0x50 ≤ o) && decide (o ≤ 0x54)) || o == 0x60 || o == 0x61 ||
  (decide (0x70 ≤ o) && decide (o ≤ 0x75)) || (decide (0x78 ≤ o) && decide (o ≤ 0x7E))

/-- The stream kinds that accept an opcode (R79). -/
def kindAccepts (k : StreamKind) (o : Nat) : Bool :=
  let n := kindNum k
  if o < 0x10 then true
  else if o < 0x30 then decide (n ≤ 3) || n == 5
  else if o < 0x50 then n == 4
  else if o < 0x60 then n == 5
  else if o < 0x70 then n == 6
  else if o < 0x78 then n == 8
  else if o < 0x7C then n == 9
  else n == 10

/-- The row of the opcode tables that a word names in a stream. -/
def rowOf (sid : StreamId) (w : InsnWord) : Option Row :=
  let o := opc w
  if o < 0x08 then controlRow sid w
  else if o < 0x10 then syncRow sid w
  else if o < 0x30 then cellRow w
  else if o < 0x50 then vxRow w
  else if o < 0x60 then uuRow w
  else if o < 0x70 then movRow w
  else if o < 0x78 then clxRow w
  else if o < 0x7C then lmovRow w
  else hdmaRow w

/-- DETAIL of an illegal encoding in a stream (R83), or nothing for a legal word. Where a word is illegal in more than
one way, the order is opcode, stream kind, SUB, timing, fields (DESIGN CHOICE, log entry 31). -/
def illegal (sid : StreamId) (w : InsnWord) : Option Nat :=
  if !opcKnown (opc w) then some 1
  else if !kindAccepts sid.kind (opc w) then some 4
  else
    match rowOf sid w with
    | none => some 2
    | some r =>
      if r.bad == some 4 then some 4
      else if (r.timing == .must && !timed w) || (r.timing == .never && timed w) then some 5
      else if dep w && (!timed w || !r.dep) then some 5
      else if fld w 108 2 != 0 then some 3
      else r.bad

/-- A multiply whose pair R56 does not accept (R57). -/
def badPair (w : InsnWord) : Bool :=
  (opc w == 0x18 || opc w == 0x19) && (pairOf (fld w 8 4) (fld w 4 4)).isNone

end Sys2Proof.Machine
end

