-- ==== Sys2Proof/Machine/Issue.lean ====
section
/-!
DEFINITION. The issue of an instruction from a queue head (R12, R26, R27, R79 to R90), the hazard detector of debug mode
(R96, R97), the trace (R272), and the operations in flight (R88).
-/
namespace Sys2Proof.Machine

/-- What an instruction sees when it reaches its queue head. -/
structure Ctx where
  s : State
  sid : StreamId
  st : Stream
  w : InsnWord

def Ctx.n (c : Ctx) : Nat := c.sid.part
def Ctx.p (c : Ctx) : Part := c.s.part c.sid.part
def Ctx.psc (c : Ctx) : BitVec 64 := (c.s.dom c.sid.part).psc
def Ctx.q (c : Ctx) : Queue := c.s.queue c.st.queue
def Ctx.eng (c : Ctx) : Engine := engineOf c.p c.sid

/-- How an instruction issues: planned duration, unit of its engine (0 none), the ranges it reads and writes, the
effects of its visibility point, what it waits on there, its multiply passes, its collective, its issue interval,
whether it waits for the ranges of earlier instructions, whether it stays in flight, the queue position that follows when it is not the next one, effects at issue given the
operation's number, the first address that breaks the ward, and the reads that bring bytes from elsewhere. -/
structure Go where
  dur : Nat
  unit : Nat := 0
  rd : List Rng := []
  wr : List Rng := []
  pend : List Wr := []
  wait : Wait := .none
  want : Nat := 0
  cause : StallCause := .dram
  passes : Option Passes := none
  coll : Option Coll := none
  interval : Nat := 0
  ordered : Bool := true
  inFlight : Bool := true
  next : Option (BitVec 32) := none
  act : Nat → Act := fun _ => Act.skip
  ward : Option Nat := none
  fetch : List Fetch := []

/-- What becomes of an instruction at its queue head: it waits with a `QCTL_STAT.WAIT` code, it waits
and begins a stall, it does not start and
raises a program fault (cause, DETAIL, address), or it issues. -/
inductive Verdict where
  | wait (code : Nat)
  | stall (code : Nat) (a : Act)
  | fault (cause : Cause) (detail : Nat) (addr : Nat)
  | go (g : Go)

/-! ### The hazard detector (R96) -/

/-- Accesses ordered before the stream's next issue. -/
def knownNow (r : Run) (st : Stream) (psc : BitVec 64) : List Nat :=
  st.known ++ ((r.accesses.filter (fun a => a.sid == some st.sid && a.vis ≤ psc && !st.known.contains a.id)).map (·.id))

/-- The first earlier access that conflicts with an access of `sid` and is not ordered before it. -/
def hazardOf (r : Run) (st : Stream) (psc : BitVec 64) (space : Space) (g : Nat) (write : Bool) : Option Access :=
  let known := knownNow r st psc
  r.accesses.find? (fun a => a.space == space && a.granule == g && (a.write || write) && !known.contains a.id)

/-- The granules an instruction touches, with whether it writes them. -/
def touched (g : Go) : List (Space × Nat × Bool) :=
  (g.rd.flatMap (fun r => r.granules.map (fun x => (x.1, x.2, false)))) ++
  (g.wr.flatMap (fun r => r.granules.map (fun x => (x.1, x.2, true))))

/-- The first hazard of an instruction: the earlier access and the later one. -/
def firstHazard (r : Run) (st : Stream) (psc : BitVec 64) (g : Go) : Option (Access × (Space × Nat × Bool)) :=
  (touched g).findSome? (fun t => (hazardOf r st psc t.1 t.2.1 t.2.2).map (fun a => (a, t)))

/-- HAZ of two accesses (R94): 0 read after write, 1 write after read, 2 write after write. -/
def hazCode (first second : Bool) : Nat := if first && second then 2 else if first then 0 else 1

/-- The address that a HAZARD fault captures (R94): the first byte of the granule in which the accesses meet, and 0 for a total
buffer row, which has no address. The rule says only that it is partition-logical (DESIGN CHOICE, log entry 106). -/
def granuleAddr (space : Space) (g : Nat) : Nat :=
  match space with
  | .mem _ => g * 256
  | _ => 0

/-- Tracks the accesses of an issued operation. -/
def track (sid : StreamId) (g : Go) (vis : BitVec 64) (qpos : BitVec 32) : Act := fun s =>
  let psc := (s.dom sid.part).psc
  let w := whereOf s sid
  modRun sid.part (fun r =>
    let new := (touched g).zipIdx.map (fun t => ({
      id := r.nextAccess + t.2, space := t.1.1, granule := t.1.2.1,
      write := t.1.2.2, whr := w, qpos := qpos, psc := psc, vis := vis, sid := some sid, ann := 0 } : Access))
    { r with accesses := r.accesses ++ new, nextAccess := r.nextAccess + new.length }) s

/-- What announces an external write (R96): the signals of its source and tag, the operation that asks for it, or the collective
of its hosted rank and tag. -/
def annMsg (src tag : BitVec 16) : Nat := src.toNat * 65536 + tag.toNat
def annOp (id : Nat) : Nat := 2 ^ 32 + 2 * id
def annColl (own : Nat) (tag : BitVec 16) : Nat := 2 ^ 32 + 2 * (own * 65536 + tag.toNat) + 1

/-- The external writes that something announces. -/
def announced (r : Run) (ann : Nat) : List Nat :=
  (r.accesses.filter (fun a => a.sid == none && a.ann == ann)).map (·.id)

/-- Tracks an external write, as an access of the pseudo-stream EXT announced by `ann` (R96). It has no issue in the partition at
which the detector could trap it, so a hazard is found at the instruction that meets it later (DEDUCED, log entry 113). -/
def trackExt (n own addr len ann : Nat) : Act := fun s =>
  if !s.hub.debugMode then [] else
  let psc := (s.dom n).psc
  modRun n (fun r =>
    let new := ((memRng own addr len).granules).zipIdx.map (fun t => ({
      id := r.nextAccess + t.2, space := t.1.1,
      granule := t.1.2, write := true, whr := whereExt, qpos := 0, psc := psc, vis := psc, sid := none,
      ann := ann } : Access))
    { r with accesses := r.accesses ++ new, nextAccess := r.nextAccess + new.length }) s

/-! ### Issue -/

/-- Units of cell `j`: compute, load, store (R107). -/
def unitCompute (j : Nat) : Nat := 1 + 3 * j
def unitLoad (j : Nat) : Nat := 2 + 3 * j
def unitStore (j : Nat) : Nat := 3 + 3 * j
/-- Logical cell of a cell instruction by the unit it holds. -/
def unitCell (u : Nat) : Nat := (u - 1) / 3
/-- The unit of UU operations: one at a time (R254). -/
def unitUu : Nat := 20

/-- The cell that an instruction of a CELL or a UU stream runs on, by the unit it holds: hosted rank, logical quarter and
logical cell. -/
def cellAt (sid : StreamId) (u : Nat) : Option (Nat × Nat × Nat) :=
  if (kindNum sid.kind < 4 || sid.kind == .uu) && 1 ≤ u && u ≤ 12 then some (sid.own, sid.unit, unitCell u) else none

/-- The physical cell and which of its units an instruction holds (R107); two logical cells can share one (R314). -/
def cellUnit (p : Part) (sid : StreamId) (u : Nat) : Option (Nat × Nat) :=
  (cellAt sid u).bind (fun x => (p.execCell x.1 x.2.1 x.2.2).map (fun k => (k, (u - 1) % 3)))

/-- An operation and an instruction belong to one order: that of a stream, or that of a cell whose CELL stream and UU stream
both issue to it (R264). -/
def sameOrder (o : Op) (sid : StreamId) (u : Nat) : Bool :=
  o.sid == sid || ((cellAt sid u).isSome && cellAt o.sid o.unit == cellAt sid u)

/-- The ranges whose reading keeps a later instruction from writing them: not the block of a `VSEED`, which R129 does not name. -/
def Op.heldReads (o : Op) : List Rng :=
  if opc o.word = 0x3E then o.rd.filter (fun r => r.space == .gen) else o.rd

/-- True where an operation in flight keeps the instruction at its queue head (R107, R129, R193, R264): it holds the
instruction's unit, or, in the same order, it reads or writes what the instruction writes, or writes what it reads. -/
def blockedBy (p : Part) (sid : StreamId) (g : Go) : Bool :=
  p.run.ops.any (fun o =>
    (o.sid == sid && g.unit != 0 && o.unit == g.unit) ||
    ((cellUnit p sid g.unit).isSome && cellUnit p o.sid o.unit == cellUnit p sid g.unit) ||
    (sameOrder o sid g.unit && g.ordered && (
      o.wr.any (fun x => g.rd.any (·.meets x) || g.wr.any (·.meets x)) ||
      o.heldReads.any (fun x => g.wr.any (·.meets x)))))

/-- The logical cell on which a stream's cell instructions run: a CELL stream's own, a UU stream's SEL (R264). -/
def cellNo (st : Stream) : Nat := if st.sid.kind == .uu then st.bsel.toNat else kindNum st.sid.kind

/-- Records a fault in the status of the cell that a stream's instruction runs on (R124). -/
def noteCellFault (sid : StreamId) (w : InsnWord) (c : Cause) : Act := fun s =>
  match stream s sid with
  | none => []
  | some st =>
    if (kindNum sid.kind < 4 || (sid.kind == .uu && st.bmask != 0 && 0x10 ≤ opc w && decide (opc w < 0x30))) &&
        (c == .illegal || c == .pair || c == .ward) then
      match (s.part sid.part).execCell sid.own sid.unit (cellNo st) with
      | some k => modCell k (fun x => { x with fault := c.code }) s
      | none => []
    else []

/-- A program fault of the instruction at a stream's head (R93). -/
def streamFault (sid : StreamId) (w : InsnWord) (qpos : BitVec 32) (c : Cause) (detail addr : Nat) : Act := fun s =>
  Act.all [noteCellFault sid w c,
    progFault sid.part { cause := c, detail := detail, whr := whereOf s sid, qpos := qpos, insn := w, addr := addr }] s

/-- A fault of debug mode (R94, R96). -/
def hazardFault (sid : StreamId) (w : InsnWord) (qpos : BitVec 32) (a : Access) (t : Space × Nat × Bool) : Act :=
  fun s => progFault sid.part {
    cause := .hazard, whr := whereOf s sid, qpos := qpos, insn := w,
    addr := granuleAddr t.1 t.2.1, haz := hazCode a.write t.2.2, whr2 := a.whr, qpos2 := a.qpos, psc2 := a.psc } s

/-- The strike at which a stream's head waits, if it is timed (R27, R85). -/
def headStrike (r : Run) (st : Stream) (w : InsnWord) : Option (BitVec 64) :=
  if actsTimed st.sid w then some (strikeOf r st w) else none

/-- The instruction is late (R27): its stream reached it after the PSC had passed its strike. -/
def late (r : Run) (st : Stream) (w : InsnWord) : Bool :=
  match headStrike r st w with
  | some k => decide (k.toNat < st.reached.toNat)
  | none => false

/-- A read of the host window among the reads that an instruction sends. -/
def Fetch.host (f : Fetch) : Bool := f.peer == hostPeer

/-- The bytes that must arrive before the results can be formed: those of REMOTE homes (R189), and those of the host window
(R192), which in replay the record supplies (R281). -/
def fetchBytes (fs : List Fetch) : Nat := (fs.map (·.len)).sum

/-- The host's own entries of a queue: those past the image that the loader placed (R167, R274). -/
def hostEntry (st : Stream) (x : BitVec 32) : Bool := decide (st.image.length ≤ x.toNat)

/-- Puts an instruction in flight: trace, head, counters, its operation and its effects at issue. `traffic` sends what
its memory accesses send off the device. -/
def issueGo (traffic : StreamId → Nat → Go → Act) (sid : StreamId) (w : InsnWord) (g : Go) :
    Act := fun s =>
  match stream s sid with
  | none => []
  | some st =>
    let p := s.part sid.part
    let psc := (s.dom sid.part).psc
    let q := s.queue st.queue
    let id := p.run.nextOp
    let extra := if s.hub.debugMode && g.inFlight then Config.debugExtra w.toNat g.dur psc.toNat else 0
    let vis := psc + BitVec.ofNat 64 ((g.dur + extra) * 10)
    let next := g.next.getD (q.head + 1)
    let op : Op := {
      id := id, sid := sid, word := w, qpos := q.head, issue := psc, vis := vis, unit := g.unit, rd := g.rd, wr := g.wr,
      pend := g.pend, wait := g.wait, want := g.want + fetchBytes g.fetch, cause := g.cause,
      passes := g.passes, coll := g.coll, stallFrom := none, expired := false, known := knownNow p.run st psc,
      deferred := !g.fetch.isEmpty }
    Act.all [
      Act.guard (late p.run st w) (Act.all [
        modDom sid.part (fun d => { d with lateStrike := d.lateStrike + 1 }),
        count (ctrBank sid.part 0x0B) 1,
        fltEvent dieHub 4 .lateStrike (some sid.part) 0]),
      Act.guard (hostEntry st q.head) (recInput sid.part
        { own := sid.own, peer := hostPeer, kind := 0x10, outb := false, epoch := p.run.jobEpoch p.run.bindingEpoch,
          tag := 0, addr := 0, bytes := 16, arg := 0, payload := leBytes 16 w.toNat }),
      modStream sid (fun t => { t with
        crc := if p.recd.trace then
            BitVec.ofNat 64 (crc64Reg t.crc.toNat (leBytes 8 psc.toNat ++ leBytes 16 w.toNat)) else t.crc,
        armed := false, lastIssue := psc, reached := psc, tried := false, interval := g.interval }),
      modQueue st.queue (fun x => { x with head := next, wait := if next == x.tail then 1 else 0, wpsc := psc }),
      Act.guard s.hub.debugMode (track sid g vis q.head),
      modRun sid.part (fun r => { r with
        nextOp := r.nextOp + 1, ops := if g.inFlight then r.ops ++ [op] else r.ops }),
      traffic sid id g,
      g.act id,
      match g.ward with
      | some a => streamFault sid w q.head .ward 0 a
      | none => Act.skip] s

/-- `QCTL_STAT.WAIT` of an operation that holds its queue at its head until it ends: an `LWAIT` (R154), or a `HARR` that
waits (R165). -/
def Op.holdCode (o : Op) : Option Nat := match o.wait with
  | .latch _ _ _ => some 3
  | .hasp _ _ => some 4
  | .none => none

/-- What holds a stream's queue at its head. -/
def heldCode (r : Run) (sid : StreamId) : Option Nat := r.ops.findSome? (fun o => if o.sid == sid then o.holdCode else none)

/-- The engine does not accept the instruction at a stream's queue head yet: it waits, and the PSC need not wait for it (R88). -/
def notAccepted (sid : StreamId) (q code : Nat) (psc : BitVec 64) : Act :=
  Act.all [setWait q code psc, modStream sid (fun t => { t with tried := true })]

/-- The issue of the instruction at a stream's queue head. A dependent instruction must have been armed (R28). `isRow` says which words the command is about; a word that
is illegal in its stream raises its fault under every command. An instruction that cannot issue waits at its head
and changes nothing but the queue's wait state, and that it has been tried. The issue interval of a VX instruction holds back whatever follows it in its
stream, a latch, hasp or control instruction too: the engine that accepts it is the one that the interval keeps busy (R88, R129;
DEDUCED, log entry 110). -/
def issueWith (traffic : StreamId → Nat → Go → Act) (sid : StreamId) (w : InsnWord)
    (isRow : Bool) (body : Ctx → Verdict) : Act := fun s =>
  match stream s sid with
  | none => []
  | some st =>
    let p := s.part sid.part
    let q := s.queue st.queue
    let psc := (s.dom sid.part).psc
    if p.load.state != .running || st.halted || st.stopped || frozen s sid.part ||
        q.headWord s != some w then []
    else
      match illegal sid w with
      | some d => streamFault sid w q.head .illegal d 0 s
      | none =>
        if !isRow then []
        else if (match headStrike p.run st w with
            | some k => decide (psc.toNat < k.toNat)
            | none => false) then setWait st.queue 2 psc s
        else if actsDep sid w && !st.armed then setWait st.queue 2 psc s
        else if (heldCode p.run sid).isSome then setWait st.queue ((heldCode p.run sid).getD 0) psc s
        else if fence w && p.run.ops.any (fun o => o.sid == sid) then setWait st.queue 6 psc s
        else if psc.toNat < st.lastIssue.toNat + st.interval * 10 then setWait st.queue 6 psc s
        else
          match body { s := s, sid := sid, st := st, w := w } with
          | .wait code => notAccepted sid st.queue code psc s
          | .stall code a => Act.all [notAccepted sid st.queue code psc, a] s
          | .fault c d a => streamFault sid w q.head c d a s
          | .go g =>
            if blockedBy p sid g then notAccepted sid st.queue 6 psc s
            else
              match (if s.hub.debugMode then firstHazard p.run st psc g else none) with
              | some (a, t) => hazardFault sid w q.head a t s
              | none => issueGo traffic sid w g s

/-- The issue of an instruction whose memory accesses, if it has any, send nothing off the device. -/
def issue (sid : StreamId) (w : InsnWord) (isRow : Bool) (body : Ctx → Verdict) : Act :=
  issueWith (fun _ _ _ => Act.skip) sid w isRow body

/-- An operation of the stream on unit `u` is in flight: what it leaves for the next instruction is not there yet. -/
def unitBusy (c : Ctx) (u : Nat) : Bool := c.p.run.ops.any (fun o => o.sid == c.sid && o.unit == u)

/-- An access of an instruction: the ranges it reads and writes in its rank's space, with the first address that breaks
the ward among them. -/
def wardOf (c : Ctx) (rs : List (Nat × Nat)) : Option Nat := firstOut c.p c.sid.own c.eng rs

/-- The parts of ranges that lie in the host window (R192). -/
def hostParts (p : Part) (own : Nat) (rs : List (Nat × Nat)) : List Fetch :=
  rs.filterMap (fun r =>
    let top := hostLogical + p.kwy.winSize.toNat * gib
    if p.kwy.winEn && hostLogical ≤ r.1 && r.1 < top then
      some { own := own, addr := r.1, len := min r.2 (top - r.1), peer := hostPeer, far := r.1 }
    else none)

/-- The parts of the ranges an instruction reads that lie in REMOTE homes or in the host window. -/
def fetchOf (c : Ctx) (rs : List (Nat × Nat)) : List Fetch :=
  remoteParts c.p c.sid.own c.eng rs ++ hostParts c.p c.sid.own rs

end Sys2Proof.Machine
end

