-- ==== Sys2Proof/Machine/Post.lean ====
section
/-!
DEFINITION. Messages as bytes (R209), their routes (R219, R424), their division (R422) and their posting to a link's send
queue (R211, R212).
-/
namespace Sys2Proof.Machine

/-- KIND of R209. -/
def kindCode : MsgKind → Nat
  | .write => 1 | .readReq => 2 | .readReply => 3 | .signal => 4 | .ack => 5 | .atomic => 6 | .atomicReply => 7
  | .refusal => 8 | .clx => 9 | .mgmt => 10

def kindOfCode : Nat → Option MsgKind
  | 1 => some .write | 2 => some .readReq | 3 => some .readReply | 4 => some .signal | 5 => some .ack
  | 6 => some .atomic | 7 => some .atomicReply | 8 => some .refusal | 9 => some .clx | 10 => some .mgmt
  | _ => none

/-- Flits of a message (R209). -/
def flitsOf (payload : Nat) : Nat := max 1 (ceilDiv (32 + payload) 256)

/-- The bytes of a message: header and payload (R209). The hosted-rank indices lie in the free bits [7:5] of the two
partition bytes (DESIGN CHOICE, log entry 10). -/
def encodeMsg (m : Msg) : List Byte :=
  leBytes 2 m.dstDev.toNat ++ leBytes 2 m.srcDev.toNat ++
  leBytes 1 (m.dstPart.toNat + 32 * m.dstOwn.toNat) ++ leBytes 1 (m.srcPart.toNat + 32 * m.srcOwn.toNat) ++
  leBytes 1 (kindCode m.kind) ++ leBytes 1 (flitsOf m.payload.length - 1) ++ leBytes 4 m.epoch.toNat ++
  leBytes 2 m.tag.toNat ++ leBytes 2 m.seq.toNat ++ leBytes 8 m.addr.toNat ++ leBytes 4 m.bytes.toNat ++
  leBytes 4 m.arg.toNat ++ m.payload

/-- Payload bytes that a message carries: a signal's BYTES announces and carries none (R423). -/
def payloadLen (k : MsgKind) (bytes : Nat) : Nat :=
  match k with
  | .write | .readReply | .clx | .atomic | .atomicReply | .mgmt => bytes
  | _ => 0

/-- The message that bytes hold, if KIND is one of R209. -/
def decodeMsg (bs : List Byte) : Option Msg :=
  (kindOfCode (leAt bs 6 1)).map (fun k => {
    dstDev := BitVec.ofNat 16 (leAt bs 0 2), srcDev := BitVec.ofNat 16 (leAt bs 2 2),
    dstPart := BitVec.ofNat 5 (leAt bs 4 1), srcPart := BitVec.ofNat 5 (leAt bs 5 1),
    dstOwn := BitVec.ofNat 3 (leAt bs 4 1 / 32), srcOwn := BitVec.ofNat 3 (leAt bs 5 1 / 32),
    kind := k, epoch := BitVec.ofNat 32 (leAt bs 8 4), tag := BitVec.ofNat 16 (leAt bs 12 2),
    seq := BitVec.ofNat 16 (leAt bs 14 2), addr := BitVec.ofNat 64 (leAt bs 16 8),
    bytes := BitVec.ofNat 32 (leAt bs 24 4), arg := BitVec.ofNat 32 (leAt bs 28 4),
    payload := slice bs 32 (payloadLen k (leAt bs 24 4)) })

/-- The ranks that the rank map places on a partition, ascending. -/
def ranksAt (o : Obj) (dev part : Nat) : List Nat :=
  (o.map.zipIdx.filter (fun e => e.1.1 == dev && e.1.2 == part)).map (·.2)

/-- Where the rank map places a rank: device, partition, and its index among the ranks placed there. -/
def rankPlace (o : Obj) (rank : Nat) : Option (Nat × Nat × Nat) :=
  (o.map[rank]?).map (fun e => (e.1, e.2, (ranksAt o e.1 e.2).idxOf rank))

/-- Index in OWN of the hosted rank that a message's index names, on the device with number `dev`. -/
def ownOf (o : Obj) (dev n idx : Nat) : Nat := o.own.idxOf (((ranksAt o dev n)[idx]?).getD 0)

/-- Logical rank of the index that a message carries. -/
def rankOfIdx (o : Obj) (dev part idx : Nat) : Nat := ((ranksAt o dev part)[idx]?).getD 0

/-- A way out: the link, the route ID and the detour (R219, R424). -/
structure Way where
  link : LinkId
  route : Nat
  alt : Option (Nat × Nat × Nat) := none
  deriving DecidableEq, Repr

/-- The UP link with the lowest die and index whose peer is the device (R424). -/
def directLink (s : State) (dev : Nat) : Option LinkId :=
  allLinks.find? (fun l => (s.link l).state == linkUp && (s.link l).peerValid && (s.link l).pdev.toNat == dev)

/-- A link that carries no data: FAILED, or trained again and not yet loaded anew (R223, R375). -/
def linkOut (r : LinkReg) : Bool := r.state == linkFailed || !r.dataOk

/-- An ORIGIN record's way: its first link, or the detour while that link is FAILED (R219, R223). -/
def originWay (s : State) (r : Origin) : Way :=
  let l : LinkId := ⟨r.die, r.link⟩
  if linkOut (s.link l) && r.altDie != 0xFF then { link := ⟨r.altDie, r.altLink⟩, route := r.altRoute }
  else {
    link := l, route := r.route,
    alt := if r.altDie != 0xFF then some (r.altDie, r.altLink, r.altRoute) else none }

/-- The way to a logical rank (R424). -/
def wayTo (s : State) (o : Obj) (rank : Nat) : Option Way :=
  match o.origins.find? (fun r => r.rank == rank) with
  | some r => some (originWay s r)
  | none =>
    match o.map[rank]? with
    | none => none
    | some e => (directLink s e.1).map (fun l => { link := l, route := 0 })

/-- The way of an answer: the ORIGIN record of the lowest rank placed at the message's source (R424). -/
def wayBack (s : State) (o : Obj) (dev part : Nat) : Option Way :=
  match (ranksAt o dev part).head? with
  | some r => wayTo s o r
  | none => (directLink s dev).map (fun l => { link := l, route := 0 })

/-- The next SEQ toward a device in a class (R210). -/
def nextSeq (h : Hub) (dst cls : Nat) : Nat :=
  ((h.txSeq.find? (fun e => e.1 == dst && e.2.1 == cls)).map (·.2.2)).getD 0

def bumpSeq (dst cls : Nat) : Act := modHub (fun h =>
  let n := (nextSeq h dst cls + 1) % 65536
  { h with txSeq := (dst, cls, n) :: h.txSeq.filter (fun e => !(e.1 == dst && e.2.1 == cls)) })

/-- Sets a bit of a link's ERR with the interrupt of R388. -/
def linkErr (l : LinkId) (i : Nat) : Act := Act.all [
  modLink l (fun r => { r with err := r.err ||| BitVec.ofNat 5 (2 ^ i) }), irq 0 4]

/-- A flit or message discarded for its route (R220, R223). -/
def routeDrop (l : LinkId) : Act := Act.all [linkErr l 2, count (ctrDie l.die 0x08) 1,
  fltEvent (dieLink l.die) l.link .routeDrop none 0]

/-- A tumbler table entry of a stream of a partition (R215), of the primary or the standby kind. -/
def slotOf (part ts : Nat) (standby : Bool) (e : BitVec 32) : Bool :=
  bit e 31 && !bit e 29 && fld e 24 5 == part && fld e 0 8 == ts && bit e 30 == standby

/-- The tumbler stream's primary link has failed (R223): a link out of use holds its primary entries. -/
def primaryOut (s : State) (part ts : Nat) : Bool := allLinks.any (fun l =>
  linkOut (s.link l) && (s.link l).tumbler.any (fun e => slotOf part ts false e.2))

/-- A class 0 message whose stream's primary link has failed, on a link without standby entries for it (R223). -/
def stranded (s : State) (l : LinkId) (t : TxMsg) : Bool :=
  t.cls == 0 && !t.transit && primaryOut s t.part t.ts && !(s.link l).tumbler.any (fun e => slotOf t.part t.ts true e.2)

/-- Puts a message into a link's send queue. On a FAILED link it goes nowhere (R223); one trained again carries management
from then on. -/
def enqueue (l : LinkId) (t : TxMsg) : Act := fun s =>
  if (s.link l).state == linkFailed || (t.cls != 4 && !(s.link l).dataOk) || stranded s l t then routeDrop l s
  else modLink l (fun r => { r with txq := r.txq ++ [t] }) s

/-- The instruction that sends a message: its stream, queue position and word. -/
abbrev Sender := StreamId × BitVec 32 × InsnWord

/-- A message with the SEQ that is next toward its device in its class (R210). -/
def numbered (h : Hub) (cls : Nat) (m : Msg) : Msg := { m with seq := BitVec.ofNat 16 (nextSeq h m.dstDev.toNat cls) }

/-- Remembers which instruction sent a message, so that a refusal, which names its device, class and SEQ, finds the stream
(R198, R423). A SEQ that comes round again names the newer message. -/
def noteSent (n cls : Nat) (from? : Option Sender) (m : Msg) : Act := match from? with
  | none => Act.skip
  | some (sid, qpos, w) => modRun n (fun r => { r with
      sent := r.sent.filter (fun e => !(e.dst == m.dstDev && e.cls == cls && e.seq == m.seq)) ++
        [{ kind := m.kind, cls := cls, seq := m.seq, dst := m.dstDev, sid := sid, qpos := qpos, word := w }] })

/-- Posts a message on its way, with its SEQ. -/
def postLink (n : Nat) (from? : Option Sender) (way : Way) (cls ts : Nat) (m : Msg) : Act := fun s =>
  let m' := numbered s.hub cls m
  Act.all [
    bumpSeq m.dstDev.toNat cls, noteSent n cls from? m',
    enqueue way.link { cls := cls, part := n, ts := ts, route := way.route, bytes := encodeMsg m', sent := 0,
                       transit := false, hops := 0, alt := way.alt,
                       op := (from?.filter (fun _ => m.kind == .clx)).map (fun f => (f.1, f.2.1)) }] s

/-- The parts into which a transfer of `len` bytes of a class divides (R422): offset and length. -/
def partsFuel (lim : Nat) : Nat → Nat → Nat → List (Nat × Nat)
  | 0, _, _ => []
  | f + 1, off, len =>
    if len = 0 then [] else
    let k := min lim len
    (off, k) :: partsFuel lim f (off + k) (len - k)

/-- Largest payload of a message of a class (R422). -/
def maxPayload (cls : Nat) : Nat := if cls = 0 then 4064 else 16352

def msgParts (cls len : Nat) : List (Nat × Nat) := partsFuel (maxPayload cls) (len / maxPayload cls + 1) 0 len

/-- The identifier that the keyway's own read requests carry in place of an operation (R190). -/
def keywayOp : Nat := 2 ^ 40

/-- The identifier that a receipt's read requests carry in place of an operation, and the mark of its bytes among those that have
arrived (R285). -/
def receiptOp : Nat := 2 ^ 40 + 2
def receiptMark : Nat := 16

/-- Names of latches and hasps are those of a hosted rank: each rank's streams name their own (R246, R247; DEDUCED, log
entry 57). -/
def nameSpan : Nat := 2 ^ 20
def nameKey (own l : Nat) : Nat := own * nameSpan + l

/-- Logical latch's physical number for a hosted rank. -/
def Part.latchOf (p : Part) (own l : Nat) : Option Nat :=
  (p.bind.latches.find? (fun e => e.1 == nameKey own l)).map (·.2)
/-- True for a latch bound to the partition (R150). -/
def Part.hasLatch (p : Part) (l : Nat) : Bool := p.bind.latches.any (fun e => e.2 == l)
/-- Logical number of a physical latch. -/
def Part.latchName (p : Part) (l : Nat) : Nat := ((p.bind.latches.find? (fun e => e.2 == l)).map (fun e => e.1 % nameSpan)).getD 0

/-- The transfer of R274 that a message is for hosted rank `own` of partition `n`. -/
def xferOf (s : State) (n own : Nat) (outb : Bool) (m : Msg) : Xfer :=
  let p := s.part n
  let o := p.obj
  let peer := match o with
    | some o => if outb then rankOfIdx o m.dstDev.toNat m.dstPart.toNat m.dstOwn.toNat
        else rankOfIdx o m.srcDev.toNat m.srcPart.toNat m.srcOwn.toNat
    | none => 0
  { own := own, peer := peer, kind := kindCode m.kind, outb := outb, epoch := p.run.jobEpoch m.epoch, tag := m.tag.toNat,
    addr := m.addr.toNat, bytes := m.bytes.toNat, arg := m.arg.toNat, payload := m.payload }

end Sys2Proof.Machine
end

