-- ==== Sys2Proof/Machine/Latch.lean ====
section
/-!
DEFINITION. Latch increments and pair bounds (R150, R156), held signals (R159), and hasps (R163 to R166).
-/
namespace Sys2Proof.Machine

/-! ### Increments -/

/-- Every pair that names the latch keeps its bound (R156). -/
def pairsHold (pairs : List (Nat × Nat × Nat)) (get : Nat → Nat) (l : Nat) : Bool :=
  pairs.all (fun e => !(e.1 == l || e.2.1 == l) || (decide (get e.2.1 ≤ get e.1) && decide (get e.1 ≤ get e.2.1 + e.2.2)))

/-- The value a latch would take: it saturates at 2^64 − 1 (R150). -/
def incValue (s : State) (l amt : Nat) : Nat := min ((s.latch l).toNat + amt) (2 ^ 64 - 1)

/-- An increment may be applied: it breaks no pair bound (R156). -/
def incOk (s : State) (n l amt : Nat) : Bool :=
  pairsHold (s.part n).run.pairs (fun x => if x == l then incValue s l amt else (s.latch x).toNat) l

/-- Adds to a latch of partition `n`. An increment that breaks a pair bound is not applied, and one that would carry
past 2^64 − 1 leaves that value; both raise LATCH_BOUND (R150, R156). -/
def incLatch (n l amt : Nat) (whr : BitVec 32) (qpos : BitVec 32) (insn : InsnWord) : Act := fun s =>
  let fault := progFault n { cause := .latchBound, whr := whr, qpos := qpos, insn := insn }
  if incOk s n l amt then
    Act.all [setLatch l (BitVec.ofNat 64 (incValue s l amt)),
      Act.guard (decide (2 ^ 64 ≤ (s.latch l).toNat + amt)) fault] s
  else fault s

/-- In debug mode a latch carries the accesses ordered before its increments (R96). -/
def learn (n l : Nat) (ids : List Nat) : Act := Act.when (fun s => s.hub.debugMode) (modRun n (fun r =>
  let old := Tab.get [] r.latchKnown l
  { r with latchKnown := Tab.set [] r.latchKnown l (old ++ ids.filter (fun i => !old.contains i)) }))

/-- Binds two latches as a pair, or unbinds them with NBUF 0; a latch belongs to at most one pair (R156). -/
def bindPair (pairs : List (Nat × Nat × Nat)) (f d nbuf : Nat) : List (Nat × Nat × Nat) :=
  let rest := pairs.filter (fun e => !(e.1 == f || e.2.1 == f || e.1 == d || e.2.1 == d))
  if nbuf = 0 then rest else rest ++ [(f, d, nbuf)]

/-! ### Signals (R159) -/

/-- The entry of a (source, tag) pair. -/
def Run.tag (r : Run) (src tag : BitVec 16) : TagEntry :=
  (r.tags.find? (fun e => e.src == src && e.tag == tag)).getD { src := src, tag := tag, landed := 0, consumed := 0 }

/-- Stores a (source, tag) entry; it is freed when its counts are equal and no signal on it is held (R160). -/
def Run.setTag (r : Run) (e : TagEntry) : Run :=
  let rest := r.tags.filter (fun x => !(x.src == e.src && x.tag == e.tag))
  if e.landed == e.consumed && !r.held.any (fun h => h.src == e.src && h.tag == e.tag) then { r with tags := rest }
  else { r with tags := rest ++ [e] }

/-- The acknowledgement of an applied signal (R159, R423). -/
def ackOf (m : Msg) (epoch : BitVec 32) : Msg :=
  { dstDev := m.srcDev, srcDev := m.dstDev, dstPart := m.srcPart, srcPart := m.dstPart, dstOwn := m.srcOwn,
    srcOwn := m.dstOwn, kind := .ack, epoch := epoch, tag := m.tag, seq := 0,
    addr := BitVec.ofNat 64 (fld m.addr 19 19), bytes := 0, arg := 0, payload := [] }

/-- Tries the held signal `h`, the oldest live one of its (source, tag) (R159). -/
def applySignal (ack : Msg → Nat → Act) (n : Nat) (h : HeldSig) : Act := fun s =>
  let r := (s.part n).run
  let e := r.tag h.src h.tag
  let l := fld h.msg.addr 0 19
  let own := match (s.part n).obj with
    | some o => ownOf o s.hub.devno.toNat n h.msg.dstOwn.toNat
    | none => 0
  let amt := fld h.msg.arg 0 3 + 1
  let acke := bit h.msg.arg 3
  let take : Act := modRun n (fun r => ({ r with held := r.held.erase h } : Run).setTag
    { e with consumed := e.consumed + h.msg.bytes.toNat })
  let note : Act := fun s =>
    match (s.part n).latchOf own l with
    | some x => learn n x (announced (s.part n).run (annMsg h.src h.tag)) s
    | none => []
  match (s.part n).latchOf own l with
  | none => Act.all [take, progFault n { cause := .ward, whr := whereExt },
      Act.guard acke (ack (ackOf h.msg r.bindingEpoch) h.cls)] s
  | some x =>
    if incOk s n x amt then
      Act.all [take, note, incLatch n x amt whereExt 0 0, Act.guard acke (ack (ackOf h.msg r.bindingEpoch) h.cls)] s
    else
      Act.all [modRun n (fun r => { r with held := r.held.map (fun y => if y == h then { y with dead := true } else y) }),
        progFault n { cause := .latchBound, whr := whereExt }] s

/-- The first signal that may be tried: live, the oldest of its (source, tag), its data landed. One that broke a pair bound
stays held, and those sent after it wait behind it (R159; DEDUCED, log entry 71). -/
def nextSignal (r : Run) : Option HeldSig :=
  r.held.find? (fun h => !h.dead &&
    ((r.held.find? (fun y => y.src == h.src && y.tag == h.tag)).map (fun y => decide (y = h))).getD false &&
    decide ((r.tag h.src h.tag).consumed + h.msg.bytes.toNat ≤ (r.tag h.src h.tag).landed))

/-- Applies every signal whose condition holds. -/
def applySignalsFuel (ack : Msg → Nat → Act) (n : Nat) : Nat → Act
  | 0, _ => []
  | f + 1, s =>
    match nextSignal (s.part n).run with
    | none => []
    | some h =>
      let e := applySignal ack n h s
      e ++ applySignalsFuel ack n f (applyAll e s)

def applySignals (ack : Msg → Nat → Act) (n : Nat) : Act := fun s =>
  applySignalsFuel ack n ((s.part n).run.held.length + 1) s

/-- A signal that arrives: it is held, then tried (R159). -/
def takeSignal (ack : Msg → Nat → Act) (n : Nat) (m : Msg) (cls : Nat) : Act := fun s =>
  let h : HeldSig := { src := m.srcDev, tag := m.tag, msg := m, cls := cls, arrived := s.tim.hall, dead := false }
  Act.all [
    modRun n (fun r => ({ r with held := r.held ++ [h] } : Run).setTag (r.tag m.srcDev m.tag)),
    applySignals ack n] s

/-- Bytes of a remote write land for a (source, tag) (R159). -/
def landBytes (ack : Msg → Nat → Act) (n : Nat) (src tag : BitVec 16) (k : Nat) : Act := Act.all [
  modRun n (fun r => let e := r.tag src tag; r.setTag { e with landed := e.landed + k }),
  applySignals ack n]

/-! ### Hasps (R163 to R166) -/

/-- The partitions of the domain in order of the lowest rank they host (R166): device, partition and that rank. -/
def domainOrder (o : Obj) : List (Nat × Nat × Nat) :=
  o.map.zipIdx.foldl (fun acc e =>
    if acc.any (fun x => x.1 == e.1.1 && x.2.1 == e.1.2) then acc else acc ++ [(e.1.1, e.1.2, e.2)]) []

/-- Index of this device's partition `n` in that order. -/
def domainIndex (s : State) (o : Obj) (n : Nat) : Nat :=
  ((domainOrder o).findIdx (fun x => x.1 == s.hub.devno.toNat && x.2.1 == n))

/-- The mask of a generation that is locally complete: slots 0 to NSLOT − 1 (R166). -/
def fullMask (nslot : Nat) : BitVec 64 := BitVec.ofNat 64 (2 ^ nslot - 1)

/-- Children of node `p` among `k` nodes (R166). -/
def treeChildren (p k : Nat) : List Nat := [2 * p + 1, 2 * p + 2].filter (fun c => decide (c < k))

/-- Physical hasp of a logical one, and back. -/
def Part.haspOf (p : Part) (h : Nat) : Option Nat := (p.bind.hasps.find? (fun e => e.1 == h)).map (·.2)
def Part.haspName (p : Part) (h : Nat) : Nat := ((p.bind.hasps.find? (fun e => e.2 == h)).map (·.1)).getD 0
def Part.hasHasp (p : Part) (h : Nat) : Bool := p.bind.hasps.any (fun e => e.2 == h)

/-- A stream that no object names: the owner of effects that hardware makes on its own. -/
def hardware (n : Nat) : StreamId := { part := n, own := 255, kind := .ctl, unit := 255 }

/-- An effect that becomes visible `cycles` array cycles from now without an instruction in flight, with the accesses ordered
before it. -/
def later (n cycles : Nat) (pend : List Wr) (known : List Nat := []) : Act := fun s =>
  let psc := (s.dom n).psc
  modRun n (fun r => { r with
    nextOp := r.nextOp + 1,
    ops := r.ops ++ [{
      id := r.nextOp, sid := hardware n, word := 0, qpos := 0, issue := psc,
      vis := psc + BitVec.ofNat 64 (cycles * 10), unit := 0, rd := [], wr := [], pend := pend, wait := .none, want := 0,
      cause := .latch, passes := none, coll := none, stallFrom := none, expired := false, known := known,
      deferred := false }] }) s

/-- A hasp symbol for partition `n` is in the hub: the partition acts on it 80 ns later (R166). -/
def throughHub (n : Nat) (y : HaspSym) : Act := fun s =>
  modHub (fun h => { h with haspDue := h.haspDue ++ [(s.tim.hall + 1280, n, y)] }) s

/-- Sends a hasp symbol toward the partition of index `dst` (R166): through the hub to a partition of this device. -/
def sendHasp (n : Nat) (y : HaspSym) : Act := fun s =>
  match (s.part n).obj with
  | none => []
  | some o =>
    match (domainOrder o)[y.dst]? with
    | none => []
    | some e =>
      if e.1 == s.hub.devno.toNat then throughHub e.2.1 y s else
      match wayTo s o e.2.2 with
      | some w => sendSym w.link (.hasp y) s
      | none => []

/-- Generation G completes: G advances and the next mask becomes its own (R166). `delay` is how long the release latch's
increment takes to become visible. The release carries on what the arrivals ordered, as a `LADD` would (R96, R152). -/
def completeGen (n h delay : Nat) : Act := fun s =>
  let x := s.hasp h
  let full1 : Bool := x.mask1 == fullMask x.nslot
  Act.all [
    modHasp h (fun x => { x with
      gen := x.gen + 1, mask0 := x.mask1, mask1 := 0, sentUp := false,
      fullAt := if full1 then some (s.dom n).psc else none,
      child0 := x.child0.filter (· != x.gen), child1 := x.child1.filter (· != x.gen),
      known0 := x.known1, known1 := [] }),
    retryHeads n,
    if delay = 0 then Act.all [incLatch n x.rlatch 1 whereExt 0 0, learn n x.rlatch x.known0]
    else later n delay [.latch x.rlatch 1] x.known0] s

/-- Sends releases to a node's children. -/
def sendReleases (n h : Nat) (gen : BitVec 32) : Act := fun s =>
  match (s.part n).obj with
  | none => []
  | some o =>
    let me := domainIndex s o n
    Act.each (treeChildren me (domainOrder o).length) (fun c => sendHasp n {
      release := true, domain := (s.dom n).domain, hasp := (s.part n).haspName h, src := me, dst := c, gen := gen }) s

/-- What a hasp does when its generation G may have become complete (R166). In replay a FABRIC hasp completes on local
completion (R281). -/
def haspStepFuel (n h : Nat) : Nat → Act
  | 0, _ => []
  | f + 1, s =>
    let x := s.hasp h
    if !x.configured || x.mask0 != fullMask x.nslot then [] else
    let again (a : Act) : List Eff :=
      let e := a s
      e ++ haspStepFuel n h f (applyAll e s)
    if x.kind == 0 || (x.kind == 1 && (s.part n).recd.replay) then again (completeGen n h 160)
    else if x.kind == 1 then
      match (s.part n).obj with
      | none => []
      | some o =>
        let me := domainIndex s o n
        let kids := treeChildren me (domainOrder o).length
        let ready := (!kids.contains (2 * me + 1) || x.child0.contains x.gen) &&
          (!kids.contains (2 * me + 2) || x.child1.contains x.gen)
        if !ready || x.sentUp then []
        else if me = 0 then again (Act.all [sendReleases n h x.gen, completeGen n h 0])
        else Act.all [
          modHasp h (fun x => { x with sentUp := true }),
          sendHasp n { release := false, domain := (s.dom n).domain, hasp := (s.part n).haspName h, src := me,
                       dst := (me - 1) / 2, gen := x.gen }] s
    else if x.fullAt.isSome then []
    else modHasp h (fun x => { x with fullAt := some (s.dom n).psc }) s

def haspStep (n h : Nat) : Act := haspStepFuel n h 4

/-- Records an arrival in the mask of its generation (R165), with the accesses ordered before it. -/
def recordArrival (n h slot : Nat) (g : BitVec 32) (known : List Nat) : Act := Act.all [
  modHasp h (fun x =>
    if g == x.gen then { x with
      mask0 := x.mask0 ||| BitVec.ofNat 64 (2 ^ slot), known0 := x.known0 ++ known.filter (fun i => !x.known0.contains i) }
    else { x with
      mask1 := x.mask1 ||| BitVec.ofNat 64 (2 ^ slot), known1 := x.known1 ++ known.filter (fun i => !x.known1.contains i) }),
  haspStep n h]

/-- A hasp symbol reaches partition `n` (R166): a child's arrival for a generation, or the parent's release of it. -/
def takeHasp (n : Nat) (y : HaspSym) : Act := fun s =>
  let p := s.part n
  match p.obj, p.haspOf y.hasp with
  | some o, some h =>
    let me := domainIndex s o n
    if y.release then
      if (s.hasp h).gen == y.gen then
        Act.all [sendReleases n h y.gen, completeGen n h 0, haspStep n h] s
      else []
    else
      let left := y.src == 2 * me + 1
      Act.all [
        modHasp h (fun x => if left then { x with child0 := x.child0 ++ [y.gen] }
          else { x with child1 := x.child1 ++ [y.gen] }),
        haspStep n h] s
  | _, _ => []

/-- The hasp symbols whose 80 ns in the hub have passed (R166). -/
def haspDue : Act := fun s =>
  let due := s.hub.haspDue.filter (fun e => decide (e.1 ≤ s.tim.hall))
  if due.isEmpty then [] else Act.all [
    modHub (fun h => { h with haspDue := h.haspDue.filter (fun e => !decide (e.1 ≤ s.tim.hall)) }),
    Act.each due (fun e => takeHasp e.2.1 e.2.2)] s

end Sys2Proof.Machine
end

