-- ==== Sys2Proof/Machine/Chunks.lean ====
section
/-!
DEFINITION. Host traffic in chunks (R192, R389, R390). Chunks are kept for what instructions read and write of the host window; record copies, drained pages, CPER and FLT writes have rows or effects of their own (log entry 43).
-/
namespace Sys2Proof.Machine

/-- A port is in L0. -/
def portUp (s : State) (p : Nat) : Bool := if p = 0 then s.pcie.up0 else p == 1 && s.pcie.up1

/-- The port that a waiting chunk can use: the one it is meant for, or the other while that one is down (R389). -/
def chunkPort (s : State) (c : Chunk) : Option Nat :=
  if portUp s c.port then some c.port else if portUp s (1 - c.port) then some (1 - c.port) else none

/-- A chunk waits for the zero-length reads that its request put before it (R392). -/
def chunkReady (cs : List Chunk) (c : Chunk) : Bool :=
  !cs.any (fun x => x.requester == c.requester && x.op == c.op && x.len == 0 && x.order < c.order)

/-- The chunks that a free port may take: of each requester its earliest (R390). -/
def takeable (s : State) (port : Nat) : List Chunk :=
  let cs := s.pcie.chunks
  let ok := cs.filter (fun c => !c.active && chunkPort s c == some port && chunkReady cs c)
  ok.filter (fun c => !ok.any (fun x => x.requester == c.requester && x.order < c.order))

/-- The chunk of the next ready requester in ascending number after `last` (R390). -/
def nextChunk (last : Nat) (cs : List Chunk) : Option Chunk :=
  ((List.range 33).map (fun i => (last + 1 + i) % 33)).findSome? (fun k => cs.find? (fun c => c.requester == k))

/-- A free port takes its next chunk. -/
def takeChunk (port : Nat) : Act := fun s =>
  if !portUp s port || s.pcie.chunks.any (fun c => c.active && c.port == port) then []
  else match nextChunk (if port = 0 then s.pcie.last0 else s.pcie.last1) (takeable s port) with
    | none => []
    | some c => modPcie (fun p => { p with
        last0 := if port = 0 then c.requester else p.last0, last1 := if port = 0 then p.last1 else c.requester,
        chunks := p.chunks.map (fun x => if x = c then { x with active := true, port := port } else x) }) s

/-- Both ports take chunks. -/
def takeChunks : Act := Act.all [takeChunk 0, takeChunk 1]

/-- Host bus address of an address of partition `p`'s host window (R192). -/
def busOf (p : Part) (a : Nat) : Nat := p.kwy.haddr.toNat + (a - 0x20000000000)

/-- The chunks of `len` bytes from bus address `a`: one per 4 KiB page. -/
def pagesFuel : Nat → Nat → Nat → List (Nat × Nat)
  | 0, _, _ => []
  | f + 1, a, len =>
    if len = 0 then [] else
    let k := min len (4096 - a % 4096)
    (a, k) :: pagesFuel f (a + k) (len - k)

/-- Puts chunks (port, bus address, length) of operation `id` for hosted rank `own` into the queue in order. -/
def putChunks (out : Bool) (n own id : Nat) (cs : List (Nat × Nat × Nat)) : Act := Act.all [
  modPcie (fun p => { p with
    chunks := p.chunks ++ cs.zipIdx.map (fun e => {
      requester := n, order := p.nextOrder + e.2, port := e.1.1, addr := e.1.2.1, len := e.1.2.2, op := id,
      active := false, out := out, own := own }),
    nextOrder := p.nextOrder + cs.length }),
  takeChunks]

/-- Moves the bytes of a range of the host window for operation `id`: reads them, or with `out` writes them (R192). -/
def addChunks (out : Bool) (n own id a len : Nat) : Act := fun s =>
  let b := busOf (s.part n) a
  putChunks out n own id ((pagesFuel (len / 4096 + 2) b len).map (fun e => (e.1 / 4096 % 2, e.1, e.2))) s

/-- Chunks of an operation are still on their way. -/
def chunksOf (s : State) (n id : Nat) : Bool := s.pcie.chunks.any (fun c => c.requester == n && c.op == id)

end Sys2Proof.Machine
end

