-- ==== Sys2Proof/Machine/Send.lean ====
section
/-!
DEFINITION. What a partition sends: messages to a rank (R198, R282, R424), answers and refusals (R198, R423, R424), and what its
engines read and write in REMOTE homes (R189) and in the host window (R192). `deliver` is what a message does that stays on the device.
-/
namespace Sys2Proof.Machine

/-- A message from hosted rank `own` to the place of a rank. -/
def msgTo (s : State) (n own : Nat) (o : Obj) (dst : Nat × Nat × Nat) (kind : MsgKind) (tag : BitVec 16)
    (addr bytes arg : Nat) (payload : List Byte) : Msg := {
  dstDev := BitVec.ofNat 16 dst.1, srcDev := s.hub.devno, dstPart := BitVec.ofNat 5 dst.2.1, srcPart := BitVec.ofNat 5 n,
  dstOwn := BitVec.ofNat 3 dst.2.2,
  srcOwn := BitVec.ofNat 3 ((ranksAt o s.hub.devno.toNat n).idxOf ((o.own[own]?).getD 0)), kind := kind,
  epoch := (s.part n).run.bindingEpoch, tag := tag, seq := 0, addr := BitVec.ofNat 64 addr,
  bytes := BitVec.ofNat 32 bytes, arg := BitVec.ofNat 32 arg, payload := payload }

/-- Posts a message from hosted rank `own` to a logical rank: a rank of this partition is served on the device, replay
compares and sends nothing (R282), and another rank is reached by its way (R424). -/
def postTo (deliver : Nat → Msg → Act) (n own rank : Nat) (from? : Option Sender)
    (kind : MsgKind) (cls ts : Nat) (tag : BitVec 16) (addr bytes arg : Nat) (payload : List Byte) : Act := fun s =>
  let p := s.part n
  match p.obj with
  | none => []
  | some o =>
    match rankPlace o rank with
    | none => []
    | some dst =>
      let m := msgTo s n own o dst kind tag addr bytes arg payload
      if p.recd.replay then recXfer n (xferOf s n own true m) s
      else if o.own.contains rank then
        let m' := numbered s.hub cls m
        Act.all [recXfer n (xferOf s n own true m), bumpSeq m.dstDev.toNat cls, noteSent n cls from? m', deliver cls m'] s
      else
        match wayTo s o rank with
        | some w => postLink n from? w cls ts m s
        | none => []

/-- A rank that a message can be sent to: hosted here, reached by a way (R424), or any during replay (R282). -/
def canReach (s : State) (n rank : Nat) : Bool :=
  match (s.part n).obj with
  | none => false
  | some o => decide (rank < o.ranks) &&
      (o.own.contains rank || (s.part n).recd.replay || (wayTo s o rank).isSome)

/-! ### Answers -/

/-- An answer to a message: source and destination swapped (R423, R424). -/
def answer (m : Msg) (kind : MsgKind) (epoch : BitVec 32) (bytes : Nat) (arg : BitVec 32) (payload : List Byte) : Msg :=
  { dstDev := m.srcDev, srcDev := m.dstDev, dstPart := m.srcPart, srcPart := m.dstPart, dstOwn := m.srcOwn,
    srcOwn := m.dstOwn, kind := kind, epoch := epoch, tag := m.tag, seq := 0, addr := m.addr,
    bytes := BitVec.ofNat 32 bytes, arg := arg, payload := payload }

/-- Sends an answer on its way back; one that cannot be sent is discarded and recorded (R424). -/
def postAnswer (deliver : Nat → Msg → Act) (n cls : Nat) (m : Msg) : Act := fun s =>
  let p := s.part n
  match p.obj with
  | none => []
  | some o =>
    let x := xferOf s n (ownOf o s.hub.devno.toNat n m.srcOwn.toNat) true m
    if p.recd.replay then recXfer n x s
    else if m.dstDev == s.hub.devno && m.dstPart.toNat == n then Act.all [recXfer n x, deliver cls m] s
    else
      match wayBack s o m.dstDev.toNat m.dstPart.toNat with
      | some w => postLink n none w cls 0 m s
      | none => fltEvent dieHub 4 .answerDropped (some n) 0 s

/-- A remote access that the receiver refuses (R198). -/
def refuse (deliver : Nat → Msg → Act) (n cls : Nat) (m : Msg) : Act := fun s => Act.all [
  modPart n (fun p => { p with kwy := { p.kwy with rrej := satAdd p.kwy.rrej 1 } }),
  fltEvent dieHub 3 .remoteRefused (some n) 0,
  postAnswer deliver n cls (answer m .refusal (s.part n).run.bindingEpoch 0
    (pack 32 [(24, kindCode m.kind), (0, m.seq.toNat)]) [])] s

/-! ### Reads from elsewhere -/

/-- Sends the reads of an operation: those of REMOTE homes as class 2 requests (R189, R423), which carry TAG 0 (DESIGN
CHOICE, log entry 36); those of the host window as chunks (R192), unless a replay supplies their bytes (R281). -/
def fetchBy (deliver : Nat → Msg → Act) (sid : StreamId) (id : Nat) (fs : List Fetch) : Act := fun s => Act.all [
  Act.guard (!(s.part sid.part).recd.replay)
    (Act.each (fs.filter Fetch.host) (fun f => addChunks false sid.part f.own id f.addr f.len)),
  Act.each ((fs.filter (fun f => !f.host)).flatMap (fun f => (msgParts 2 f.len).map (fun k =>
      { f with addr := f.addr + k.1, len := k.2, far := f.far + k.1 }))) (fun f => fun s =>
    let n := sid.part
    let r := (s.part n).run
    let from? := (r.ops.find? (fun o => o.id == id)).map (fun o => (sid, o.qpos, o.word))
    Act.all [
      modRun n (fun r => { r with
        reqs := r.reqs ++ [{ ident := r.nextReq, sid := sid, op := id, own := f.own, addr := f.addr }],
        nextReq := r.nextReq + 1 }),
      postTo deliver n f.own f.peer from? .readReq 2 0 0 f.far 0 (r.nextReq.toNat * 65536 + f.len) []] s)] s

/-! ### Stores -/

/-- The engine that stands for a stream outside the columns where only its ranges matter. -/
def plainEngine : Engine := { col := none, peak0 := 512 }

/-- Writes of an engine to REMOTE homes travel as class 2 writes (R189). -/
def writeRemoteBy (deliver : Nat → Msg → Act) (n own : Nat) (from? : Option Sender) (a : Nat) (bs : List Byte) : Act :=
  fun s => Act.each (remoteParts (s.part n) own plainEngine [(a, bs.length)]) (fun f =>
    Act.each (msgParts 2 f.len) (fun k =>
      postTo deliver n own f.peer from? .write 2 0 0 (f.far + k.1) k.2 0 (slice bs (f.addr - a + k.1) k.2))) s

/-- Writes bytes wherever their pages are homed. -/
def storeBy (deliver : Nat → Msg → Act) (n own : Nat) (from? : Option Sender) (a : Nat) (bs : List Byte) : Act :=
  Act.all [writeL n own a bs, writeRemoteBy deliver n own from? a bs]

/-- What the writes of operation `id` send to the host through HDMA (R192). Their bytes reach host memory at the operation's
visibility point, which waits until the host has taken every chunk (DESIGN CHOICE, log entry 43). -/
def hostWrites (n id : Nat) (rs : List Rng) : Act := fun s =>
  Act.each (rs.flatMap (fun r => match r.space with
    | .mem own => hostParts (s.part n) own [(r.lo, r.hi - r.lo)]
    | _ => [])) (fun f => addChunks true n f.own id f.addr f.len) s

/-! ### Copies in ascending units (R194) -/

/-- A byte that a copy reads when `done` bytes from `dst` have been written: from those bytes if its own address is
among them, else from the memory `t` in which the earlier units stand. -/
def mcpyByte (t : State) (n own dst : Nat) (done : List Byte) (a : Nat) : Byte :=
  if dst ≤ a && a < dst + done.length && !((t.part n).reach own a == .out) then (done[a - dst]?).getD 0
  else readL1 t n own a

/-- The bytes of a copy, unit by unit in ascending order, each read before it is written. -/
def mcpyFuel (n own src dst len : Nat) : Nat → State → List Byte → List Byte
  | 0, _, done => done
  | f + 1, t, done =>
    let k := min 256 (len - done.length)
    if k = 0 then done else
    let bs := (List.range k).map (fun i => mcpyByte t n own dst done (src + done.length + i))
    mcpyFuel n own src dst len f ((writeL n own (dst + done.length) bs).run t) (done ++ bs)

end Sys2Proof.Machine
end

