-- ==== Sys2Proof/Machine/Coll.lean ====
section
/-!
DEFINITION. Collective operations: groups, descriptors, the double tree, and the steps that a rank's part takes as data
arrives (R227 to R245, R425). A step sends or combines a whole tree's share at once: R236 says that segment boundaries
change no bit.
-/
namespace Sys2Proof.Machine

/-! ### Descriptors and groups -/

def dGsize (d : List Byte) : Nat := leAt d 0x00 4
def dGstride (d : List Byte) : Nat := leAt d 0x04 4
def dSrc (d : List Byte) : Nat := leAt d 0x08 8
def dDst (d : List Byte) : Nat := leAt d 0x10 8
def dAux (d : List Byte) : Nat := leAt d 0x18 8
def dCount (d : List Byte) : Nat := leAt d 0x20 4
def dCap (d : List Byte) : Nat := leAt d 0x24 4
def dRow (d : List Byte) : Nat := leAt d 0x28 4
def dPlan (d : List Byte) : Nat := leAt d 0x2C 4
def dDphase (d : List Byte) : Nat := leAt d 0x30 4
def dDone (d : List Byte) : Nat := leAt d 0x34 4
def dFin (d : List Byte) : Nat := leAt d 0x38 1
def dFout (d : List Byte) : Nat := leAt d 0x39 1
def dFlags (d : List Byte) : Nat := leAt d 0x3A 1
def dTs (d : List Byte) (t : Nat) : Nat := leAt d (0x3B + t) 1

/-- Group index of a rank (R227). -/
def groupIndex (d : List Byte) (rank : Nat) : Nat := rank / dGstride d % dGsize d
/-- The member of index `j` of a rank's group (R227). -/
def member (d : List Byte) (rank j : Nat) : Nat := rank - groupIndex d rank * dGstride d + j * dGstride d

/-- Position of group index `i` in tree `t` with root index `r` (R234). -/
def treePos (n r t i : Nat) : Nat := (i + 2 * n - (r + t)) % n
/-- Group index of position `p`. -/
def treeIdx (n r t p : Nat) : Nat := (p + r + t) % n
/-- The left and right children of a position (R234), where they exist. -/
def childPos (n t p : Nat) : Option Nat × Option Nat :=
  let ok (x : Nat) : Option Nat := if x < n then some x else none
  if t = 0 then (ok (2 * p + 1), ok (2 * p + 2))
  else
    let m := n - 1 - p
    ((ok (2 * m + 1)).map (fun x => n - 1 - x), (ok (2 * m + 2)).map (fun x => n - 1 - x))
/-- Parent of a position with the side on which it is a child: 0 left, 1 right; none at the root. -/
def parentPos (n t p : Nat) : Option (Nat × Nat) :=
  let m := if t = 0 then p else n - 1 - p
  if m = 0 then none
  else
    let q := (m - 1) / 2
    some (if t = 0 then q else n - 1 - q, (m - 1) % 2)

/-- Elements of tree `t` of a `CRED`: first and count (R235). -/
def redRange (count t : Nat) : Nat × Nat :=
  let a := (count + 1) / 2
  if t = 0 then (0, a) else (a, count - a)
/-- Bytes of tree `t` of a `CBC` (R235). -/
def bcRange (count t : Nat) : Nat × Nat :=
  let a := min count (256 * ceilDiv count 512)
  if t = 0 then (0, a) else (a, count - a)
/-- H of R237. -/
def scratchH (count : Nat) : Nat := roundUp (8 * ((count + 1) / 2)) 4096

/-- Width in bytes of a format code. -/
def fmtBytes (c : Nat) : Nat := match fmtOf c with
  | some f => f.width / 8
  | none => 1
/-- The TA bits of an element, converted exactly (R52). -/
def toTA (c bits : Nat) : Nat := match fmtOf c with
  | some f => fTA.rne (f.decode bits)
  | none => 0
/-- TA bits converted once, RNE (R141). -/
def fromTA (c ta : Nat) : Nat := match fmtOf c with
  | some f => f.encode .rne false (fTA.decode ta)
  | none => 0

/-- `k` elements of `w` bytes from partition-logical address `a`. -/
def readElems (s : State) (n own a w k : Nat) : List Nat := (chunks w (readL s n own a (w * k))).map leNat
/-- Elements as bytes. -/
def elemBytes (w : Nat) (xs : List Nat) : List Byte := xs.flatMap (leBytes w)

/-- Indices of a partition's hosted ranks. -/
def owns (p : Part) : List Nat := List.range ((p.obj.map (·.own.length)).getD 0)

/-! ### What has landed -/

/-- Bytes landed for hosted rank `own` of an operation from a member's rank, in a range of addresses (R239). Entries of
rows, whose ADDR is no address, carry 2 in `tree`. -/
def landedIn (s : State) (n : Nat) (o : Obj) (own : Nat) (tag : BitVec 16) (src lo hi : Nat) : Nat :=
  (((s.part n).run.clxIn.filter (fun e => e.own == own && e.tag == tag && e.tree != 2 && decide (lo ≤ e.addr) &&
    decide (e.addr < hi) && rankOfIdx o e.src.toNat e.srcPart.toNat e.srcOwn.toNat == src)).map (·.len)).sum

/-! ### Sending and writing -/

/-- The instruction that an operation's messages come from. -/
def Op.sender (op : Op) : Sender := (op.sid, op.qpos, op.word)

/-- Mark of the bytes that a collective has put into a REMOTE home: what it reads of them again is what it put there. -/
def collKeep : Nat := 2 ^ 40 + 2

/-- Writes bytes of a collective wherever their pages are homed (R189). -/
def collWrite (deliver : Nat → Msg → Act) (n : Nat) (from? : Option Sender) (own a : Nat) (bs : List Byte) : Act :=
  Act.all [
    storeBy deliver n own from? a bs,
    fun s => Act.each (remoteParts (s.part n) own plainEngine [(a, bs.length)]) (fun f =>
      modRun n (fun r => { r with remoteBuf := (collKeep, own, f.addr, slice bs (f.addr - a) f.len) :: r.remoteBuf })) s]

/-- ARG of a collective message (R233). -/
def collArg (c : Coll) (tree phase : Nat) : Nat := c.opc * 2 ^ 24 + c.slot * 2 ^ 16 + tree * 256 + phase

/-- The parts of a collective message's ARG (R233). -/
def argOpc (m : Msg) : Nat := fld m.arg 24 8
def argSlot (m : Msg) : Nat := fld m.arg 16 8
def argTree (m : Msg) : Nat := fld m.arg 8 1
def argPhase (m : Msg) : Nat := fld m.arg 0 8

/-- Sends a byte string as the messages of R422 to addresses from `addr` on. -/
def sendBytes (deliver : Nat → Msg → Act) (n : Nat) (op : Op) (c : Coll) (own rank cls ts tree phase addr : Nat)
    (bs : List Byte) : Act :=
  Act.each (msgParts cls bs.length) (fun k =>
    postTo deliver n own rank (some op.sender) .clx cls ts c.tag (addr + k.1) k.2
      (collArg c tree phase) (slice bs k.1 k.2))

/-! ### Steps -/

/-- Updates the part that hosted rank `own` plays in operation `id`. -/
def modColl (n id own : Nat) (f : CollRank → CollRank) : Act := modRun n (fun r => { r with
  ops := r.ops.map (fun o => if o.id == id then
    { o with coll := o.coll.map (fun c => { c with ranks := c.ranks.map (fun x => if x.own == own then f x else x) }) }
    else o) })

def rankUp (x : CollRank) (t : Nat) : Bool := if t = 0 then x.up0 else x.up1
def rankDown (x : CollRank) (t : Nat) : Bool := if t = 0 then x.down0 else x.down1
def setUp (t : Nat) (x : CollRank) : CollRank := if t = 0 then { x with up0 := true } else { x with up1 := true }
def setDown (t : Nat) (x : CollRank) : CollRank := if t = 0 then { x with down0 := true } else { x with down1 := true }

/-- Partial sum of a node over its tree's elements, in the order local, left, right (R236). -/
def nodeSums (s : State) (n : Nat) (d : List Byte) (own t : Nat) (left right : Bool) : List Nat :=
  let rg := redRange (dCount d) t
  let w := fmtBytes (dFin d)
  let h := scratchH (dCount d)
  let loc := (readElems s n own (dSrc d + rg.1 * w) w rg.2).map (toTA (dFin d))
  let add (xs ys : List Nat) : List Nat := List.zipWith (fun a b => addTA a (fTA.decode b)) xs ys
  let l1 := if left then add loc (readElems s n own (dAux d + 2 * t * h) 8 rg.2) else loc
  if right then add l1 (readElems s n own (dAux d + (2 * t + 1) * h) 8 rg.2) else l1

/-- Sum of squares of TA totals in ascending order (R237). -/
def sumSquares (xs : List Nat) : Nat :=
  xs.foldl (fun acc v => addTA acc (fTA.decode (fTA.rne ((fTA.decode v).mul (fTA.decode v))))) 0

/-- Counts the combines of a node in its die's PMC event 0x00 (R352). -/
def countCombines (n : Nat) (op : Op) (k : Nat) : Act :=
  countF (20 + op.sid.unit) (ctrDie op.sid.unit 0x00) k { part := some n, master := 4 }

/-- The reduce step of tree `t`: when the children's sums have landed, the node combines and sends to its parent, and
the root writes its totals (R236, R237). -/
def redUp (deliver : Nat → Msg → Act) (s : State) (n : Nat) (o : Obj) (op : Op) (c : Coll) (x : CollRank) (t : Nat) :
    Option Act :=
  let d := x.desc
  let rank := (o.own[x.own]?).getD 0
  let gn := dGsize d
  let pos := treePos gn c.root t (groupIndex d rank)
  let kids := childPos gn t pos
  let rg := redRange (dCount d) t
  let h := scratchH (dCount d)
  let landed (side : Nat) (k : Option Nat) : Bool :=
    match k with
    | none => true
    | some q => decide (8 * rg.2 ≤ landedIn s n o x.own c.tag (member d rank (treeIdx gn c.root t q))
        (dAux d + (2 * t + side) * h) (dAux d + (2 * t + side + 1) * h))
  if rankUp x t || !(landed 0 kids.1 && landed 1 kids.2) then none else
  let sums := nodeSums s n d x.own t kids.1.isSome kids.2.isSome
  let combines := rg.2 * (b2n kids.1.isSome + b2n kids.2.isSome)
  some (Act.all [
    modColl n op.id x.own (setUp t),
    countCombines n op combines,
    match parentPos gn t pos with
    | none => Act.all [
        modColl n op.id x.own (fun y => if t = 0 then { y with sq0 := sumSquares sums } else { y with sq1 := sumSquares sums }),
        collWrite deliver n (some op.sender) x.own (dDst d + rg.1 * fmtBytes (dFout d))
          (elemBytes (fmtBytes (dFout d)) (sums.map (fromTA (dFout d))))]
    | some (q, side) => sendBytes deliver n op c x.own (member d rank (treeIdx gn c.root t q)) 0 (dTs d t) t 0
        (dAux d + (2 * t + side) * h) (elemBytes 8 sums)])

/-- The root's sum of squares, once both trees have reached it (R237). -/
def redSq (deliver : Nat → Msg → Act) (n : Nat) (o : Obj) (op : Op) (c : Coll) (x : CollRank) : Option Act :=
  let d := x.desc
  let rank := (o.own[x.own]?).getD 0
  if groupIndex d rank != c.root || dFlags d % 2 == 0 || x.sq || !x.up0 || !x.up1 then none else
  some (Act.all [modColl n op.id x.own (fun y => { y with sq := true }),
    collWrite deliver n (some op.sender) x.own (dAux d + 4 * scratchH (dCount d))
      (leBytes 8 (addTA x.sq0 (fTA.decode x.sq1)))])

/-- Sends bytes to the children of a node in tree `t`. -/
def toKids (deliver : Nat → Msg → Act) (n : Nat) (o : Obj) (op : Op) (c : Coll) (x : CollRank) (t addr : Nat)
    (bs : List Byte) : Act :=
  let d := x.desc
  let rank := (o.own[x.own]?).getD 0
  let gn := dGsize d
  let kids := childPos gn t (treePos gn c.root t (groupIndex d rank))
  let one (k : Option Nat) : Act := match k with
    | none => Act.skip
    | some q => sendBytes deliver n op c x.own (member d rank (treeIdx gn c.root t q)) 0 (dTs d t) t 0 addr bs
  Act.all [one kids.1, one kids.2]

/-- Bytes of tree `t` that travel down: address and length. -/
def downRange (c : Coll) (x : CollRank) (t : Nat) : Nat × Nat :=
  let d := x.desc
  if c.opc = 0x72 then (dDst d + (bcRange (dCount d) t).1, (bcRange (dCount d) t).2)
  else (dDst d + (redRange (dCount d) t).1 * fmtBytes (dFout d), (redRange (dCount d) t).2 * fmtBytes (dFout d))

/-- The broadcast step of tree `t`: the root sends its result, another node forwards what has landed (R237, R238). In
an all-reduce with SQ the value follows the data of T0. -/
def bcDown (deliver : Nat → Msg → Act) (s : State) (n : Nat) (o : Obj) (op : Op) (c : Coll) (x : CollRank) (t : Nat) :
    Option Act :=
  let d := x.desc
  let rank := (o.own[x.own]?).getD 0
  let gn := dGsize d
  let me := groupIndex d rank
  let rg := downRange c x t
  let sq := c.opc == 0x71 && dFlags d % 2 == 1 && t == 0
  let sqAt := dAux d + 4 * scratchH (dCount d)
  let root := me == c.root
  let ready :=
    if root then c.opc == 0x72 || (rankUp x t && (!sq || x.sq))
    else
      match parentPos gn t (treePos gn c.root t me) with
      | none => false
      | some (q, _) =>
        let src := member d rank (treeIdx gn c.root t q)
        decide (rg.2 ≤ landedIn s n o x.own c.tag src rg.1 (rg.1 + rg.2)) &&
          (!sq || decide (8 ≤ landedIn s n o x.own c.tag src sqAt (sqAt + 8)))
  if rankDown x t || !ready then none else
  let at? := if root && c.opc == 0x72 then dSrc d + (bcRange (dCount d) t).1 else rg.1
  some (Act.all [
    modColl n op.id x.own (setDown t),
    toKids deliver n o op c x t rg.1 (readL s n x.own at? rg.2),
    Act.guard sq (toKids deliver n o op c x t sqAt (readL s n x.own sqAt 8))])

/-- The root of a broadcast copies its SRC to its own DST, as R194 does, once both trees have their bytes (R238). -/
def bcCopy (deliver : Nat → Msg → Act) (s : State) (n : Nat) (o : Obj) (op : Op) (c : Coll) (x : CollRank) : Option Act :=
  let d := x.desc
  let rank := (o.own[x.own]?).getD 0
  if groupIndex d rank != c.root || x.data || !x.down0 || !x.down1 then none else
  let len := dCount d
  some (Act.all [modColl n op.id x.own (fun y => { y with data := true }),
    collWrite deliver n (some op.sender) x.own (dDst d) (mcpyFuel n x.own (dSrc d) (dDst d) len (len / 256 + 1) s [])])

/-- The other members in the order of R240. -/
def othersFrom (n i : Nat) : List Nat := (List.range (n - 1)).map (fun k => (i + 1 + k) % n)

/-- True where every other member's bytes for a range that `at?` gives have landed. -/
def allLanded (s : State) (n : Nat) (o : Obj) (c : Coll) (x : CollRank) (rank : Nat) (at? : Nat → Nat × Nat) : Bool :=
  (othersFrom (dGsize x.desc) (groupIndex x.desc rank)).all (fun j =>
    decide ((at? j).2 ≤ landedIn s n o x.own c.tag (member x.desc rank j) (at? j).1 ((at? j).1 + (at? j).2)))

/-- Counts of a `CA2A` UNEQUAL: row counts of SRC, or those received (R241). -/
def a2aCounts (s : State) (n : Nat) (d : List Byte) (own : Nat) (received : Bool) : List Nat :=
  readElems s n own (dAux d + (if received then 4 * dGsize d else 0)) 4 (dGsize d)

/-- The sends of a `CA2A` EQUAL or a `CRING`, done once at issue (R240, R243). -/
def blockSends (deliver : Nat → Msg → Act) (s : State) (n : Nat) (o : Obj) (op : Op) (c : Coll) (x : CollRank) :
    Option Act :=
  if x.data then none else
  let d := x.desc
  let rank := (o.own[x.own]?).getD 0
  let gn := dGsize d
  let i := groupIndex d rank
  let mark := modColl n op.id x.own (fun y => { y with data := true })
  if c.opc = 0x75 then
    some (Act.all [mark, sendBytes deliver n op c x.own (member d rank ((i + c.root) % gn)) 0 (dTs d 0) 0 0 (dDst d)
      (readL s n x.own (dSrc d) (dCount d))])
  else
    let block := dCount d * dRow d
    some (Act.all [mark,
      Act.each (othersFrom gn i) (fun j => sendBytes deliver n op c x.own (member d rank j) 0 (dTs d 0) 0 0
        (dDst d + i * block) (readL s n x.own (dSrc d + j * block) block)),
      collWrite deliver n (some op.sender) x.own (dDst d + i * block) (readL s n x.own (dSrc d + i * block) block)])

/-- The counts phase of a `CA2A` UNEQUAL (R241). -/
def countSends (deliver : Nat → Msg → Act) (s : State) (n : Nat) (o : Obj) (op : Op) (c : Coll) (x : CollRank) :
    Option Act :=
  if x.counts then none else
  let d := x.desc
  let rank := (o.own[x.own]?).getD 0
  let gn := dGsize d
  let i := groupIndex d rank
  let counts := a2aCounts s n d x.own false
  some (Act.all [modColl n op.id x.own (fun y => { y with counts := true }),
    collWrite deliver n (some op.sender) x.own (dAux d + 4 * gn + 4 * i) (leBytes 4 ((counts[i]?).getD 0)),
    Act.each (othersFrom gn i) (fun j => sendBytes deliver n op c x.own (member d rank j) 0 (dTs d 0) 0 1
      (dAux d + 4 * gn + 4 * i) (leBytes 4 ((counts[j]?).getD 0)))])

/-- Sends rows `k0` to `k0 + cnt − 1` of a pair: ADDR holds the row index of each message's first row (R425). -/
def sendRows (deliver : Nat → Msg → Act) (n : Nat) (op : Op) (c : Coll) (x : CollRank) (rank cls phase k0 : Nat)
    (bs : List Byte) : Act :=
  let row := max 1 (dRow x.desc)
  Act.each (msgParts cls bs.length) (fun k =>
    postTo deliver n x.own rank (some op.sender) .clx cls (dTs x.desc 0) c.tag (k0 + k.1 / row) k.2
      (collArg c 0 phase) (slice bs k.1 k.2))

/-- The data and spill phases of a `CA2A` UNEQUAL for one hosted rank (R241). -/
def rowSends (deliver : Nat → Msg → Act) (s : State) (n : Nat) (o : Obj) (op : Op) (c : Coll) (x : CollRank) : Act :=
  let d := x.desc
  let rank := (o.own[x.own]?).getD 0
  let gn := dGsize d
  let i := groupIndex d rank
  let counts := a2aCounts s n d x.own false
  let row := dRow d
  let start (j : Nat) : Nat := (counts.take j).sum
  let cnt (j : Nat) : Nat := (counts[j]?).getD 0
  Act.all [
    modColl n op.id x.own (fun y => { y with data := true }),
    Act.each (othersFrom gn i) (fun j =>
      let c0 := min (cnt j) (dCap d)
      let bs := readL s n x.own (dSrc d + start j * row) (cnt j * row)
      Act.all [
        sendRows deliver n op c x (member d rank j) 0 0 0 (slice bs 0 (c0 * row)),
        sendRows deliver n op c x (member d rank j) 1 2 c0 (slice bs (c0 * row) ((cnt j - c0) * row)),
        modClx (op.sid.unit * 32 + n) (fun y => { y with spill := satAdd y.spill (cnt j - c0) }),
        count (ctrDie op.sid.unit 0x02) (cnt j - c0), count (ctrBank n 0x24) (cnt j - c0)])]

/-- Bytes of the rows that land from one source in one phase, held or placed (R241). -/
def rowsHeld (s : State) (n own : Nat) (tag : BitVec 16) (m : Msg) (phase : Nat) : Nat :=
  (((s.part n).run.clxIn.filter (fun e => e.own == own && e.tag == tag && e.src == m.srcDev &&
    e.srcPart == m.srcPart && e.srcOwn == m.srcOwn && e.phase == phase && e.tree == 2)).map (·.len)).sum

/-- Places the bytes of a row message of a `CA2A` UNEQUAL by R242: rows at or beyond COUNT are not written, and a delivery that
is not wholly inside the ward is refused (R425). Bytes of one pair and phase arrive in order, so a message that begins inside a
row continues it (DEDUCED, log entry 34). -/
def placeRows (deliver : Nat → Msg → Act) (n : Nat) (o : Obj) (c : Coll) (x : CollRank) (cls : Nat) (m : Msg) : Act := fun s =>
  let d := x.desc
  let src := groupIndex d (rankOfIdx o m.srcDev.toNat m.srcPart.toNat m.srcOwn.toNat)
  let counts := a2aCounts s n d x.own true
  let phase := argPhase m
  let row := max 1 (dRow d)
  let within := rowsHeld s n x.own c.tag m phase % row
  let base := ((counts.take src).sum + m.addr.toNat) * row + within
  let bs := m.payload.take (dCount d * row - base)
  if (firstOut (s.part n) x.own plainEngine [(dDst d + base, bs.length)]).isSome then refuse deliver n cls m s
  else Act.all [
    modRun n (fun r => { r with clxIn := r.clxIn ++ [{
      own := x.own, tag := c.tag, src := m.srcDev, srcPart := m.srcPart, srcOwn := m.srcOwn, addr := m.addr.toNat,
      len := m.payload.length, slot := argSlot m, tree := 2, phase := phase }] }),
    trackExt n x.own (dDst d + base) bs.length (annColl x.own c.tag),
    collWrite deliver n none x.own (dDst d + base) bs] s

/-- True where all counts of the operation have landed (R241): own included, once its counts step is done. -/
def countsLanded (s : State) (n : Nat) (o : Obj) (c : Coll) (x : CollRank) : Bool :=
  let rank := (o.own[x.own]?).getD 0
  x.counts && allLanded s n o c x rank (fun j => (dAux x.desc + 4 * dGsize x.desc + 4 * j, 4))

/-- The rows of a message are those of a `CA2A` UNEQUAL: spilled rows, or data from a member whose counts of the same operation
came before it, since counts leave at the strike and data later on the same way (R241; DEDUCED, log entry 35). Other `CA2A` data
is that of an EQUAL. -/
def isRows (r : Run) (own : Nat) (m : Msg) : Bool :=
  m.kind == .clx && argOpc m == 0x73 && (argPhase m == 2 || (argPhase m == 0 && r.clxIn.any (fun e =>
    e.own == own && e.tag == m.tag && e.src == m.srcDev && e.srcPart == m.srcPart && e.srcOwn == m.srcOwn &&
    e.slot == argSlot m && e.phase == 1)))

/-- The `CA2A` UNEQUAL in progress that rows belong to: of the message's TAG, in whose group its sender is, and of its SLOT if
several are (R233; DEDUCED, log entry 35). -/
def rowsOp (o : Obj) (r : Run) (own : Nat) (m : Msg) : Option (Op × Coll × CollRank) :=
  let src := rankOfIdx o m.srcDev.toNat m.srcPart.toNat m.srcOwn.toNat
  let found := r.ops.filterMap (fun op => op.coll.bind (fun c =>
    if c.opc == 0x73 && c.sub == 1 && c.tag == m.tag then
      (c.ranks.find? (fun x => x.own == own && member x.desc ((o.own[own]?).getD 0) (groupIndex x.desc src) == src)).map
        (fun x => (op, c, x))
    else none))
  (found.find? (fun e => e.2.1.slot == argSlot m)).or found.head?

/-- Rows that cannot be placed yet: their operation has not issued here, or its counts have not all landed (R241). -/
def rowsEarly (s : State) (n own : Nat) (m : Msg) : Bool :=
  match (s.part n).obj with
  | none => false
  | some o => isRows (s.part n).run own m && (match rowsOp o (s.part n).run own m with
      | some (_, c, x) => !countsLanded s n o c x
      | none => true)

/-- Places the waiting rows of co-hosted ranks, the rank's own rows, and, when all have landed, the totals at AUX + 8n (R242). -/
def rowSteps (deliver : Nat → Msg → Act) (s : State) (n : Nat) (o : Obj) (op : Op) (c : Coll) (x : CollRank) : Option Act :=
  if x.applied || !countsLanded s n o c x then none else
  let d := x.desc
  let rank := (o.own[x.own]?).getD 0
  let gn := dGsize d
  let i := groupIndex d rank
  let row := dRow d
  let counts := a2aCounts s n d x.own true
  let r := (s.part n).run
  match r.clxWait.find? (fun e => e.1 == x.own && (rowsOp o r x.own e.2.2).any (fun y => y.1.id == op.id)) with
  | some e => some (Act.all [
      modRun n (fun r => { r with clxWait := r.clxWait.erase e }), placeRows deliver n o c x e.2.1 e.2.2])
  | none =>
    let got (j : Nat) : Nat := ((r.clxIn.filter (fun e => e.own == x.own && e.tag == c.tag && e.tree == 2 &&
      rankOfIdx o e.src.toNat e.srcPart.toNat e.srcOwn.toNat == member d rank j)).map (·.len)).sum
    if x.data && (othersFrom gn i).all (fun j => decide ((counts[j]?).getD 0 * row ≤ got j)) then
      let mine := a2aCounts s n d x.own false
      let total := counts.sum
      let written := min total (dCount d)
      let pos := (counts.take i).sum
      let own := readL s n x.own (dSrc d + (mine.take i).sum * row) ((mine[i]?).getD 0 * row)
      some (Act.all [modColl n op.id x.own (fun y => { y with applied := true }),
        collWrite deliver n (some op.sender) x.own (dDst d + pos * row) (own.take ((dCount d - pos) * row)),
        collWrite deliver n (some op.sender) x.own (dAux d + 8 * gn) (leBytes 4 written ++ leBytes 4 (total - written)),
        modClx (op.sid.unit * 32 + n) (fun y => { y with drop := satAdd y.drop (total - written) }),
        count (ctrBank n 0x25) (total - written)])
    else none

/-- `COACC` SEND: N and its records go to the root's region (R244). -/
def coaccSends (deliver : Nat → Msg → Act) (s : State) (n : Nat) (o : Obj) (op : Op) (c : Coll) (x : CollRank) :
    Option Act :=
  if x.data then none else
  let d := x.desc
  let rank := (o.own[x.own]?).getD 0
  let cnt := readLNat s n x.own (dSrc d) 4
  let at? := dAux d + groupIndex d rank * (16 + 16 * dCap d)
  some (Act.all [modColl n op.id x.own (fun y => { y with data := true }),
    Act.guard (decide (cnt ≤ dCap d)) (sendBytes deliver n op c x.own (member d rank c.root) 0 (dTs d 0) 0 0 at?
      (readL s n x.own (dSrc d) (16 + 16 * cnt)))])

/-- Bytes landed in region `j` of a root's staging area, whatever SEND's tag (R245). -/
def regionLanded (s : State) (n own : Nat) (d : List Byte) (j : Nat) : Nat :=
  let lo := dAux d + j * (16 + 16 * dCap d)
  (((s.part n).run.clxIn.filter (fun e => e.own == own && e.tree != 2 && decide (lo ≤ e.addr) &&
    decide (e.addr < lo + 16 + 16 * dCap d))).map (·.len)).sum

/-- One record of an ordered accumulate (R245). -/
def applyRecord (s : State) (n own : Nat) (d : List Byte) (acc : Tab Nat × Nat) (at? : Nat) : Tab Nat × Nat :=
  let idx := readLNat s n own at? 4
  let val := readLNat s n own (at? + 8) 8
  if idx < dCount d then
    let old := match acc.1.find? (fun e => e.1 == idx) with
      | some e => e.2
      | none => readLNat s n own (dDst d + 8 * idx) 8
    ((idx, addTA old (fTA.decode val)) :: acc.1.filter (fun e => e.1 != idx), acc.2)
  else (acc.1, acc.2 + 1)

/-- `COACC` APPLY on the root (R245); on another member there is nothing to apply. -/
def coaccApplies (deliver : Nat → Msg → Act) (s : State) (n : Nat) (o : Obj) (op : Op) (c : Coll) (x : CollRank) : Option Act :=
  if x.applied then none else
  let d := x.desc
  let rank := (o.own[x.own]?).getD 0
  let gn := dGsize d
  let mark := modColl n op.id x.own (fun y => { y with applied := true })
  if groupIndex d rank != c.root then some mark else
  let stride := 16 + 16 * dCap d
  let recs (j : Nat) : Nat := readLNat s n x.own (dAux d + j * stride) 4
  if !(List.range gn).all (fun j => decide (16 ≤ regionLanded s n x.own d j) &&
      decide (16 + 16 * recs j ≤ regionLanded s n x.own d j)) then none else
  let places := (List.range gn).flatMap (fun j => (List.range (recs j)).map (fun k =>
    dAux d + j * stride + 16 + 16 * k))
  let res := places.foldl (applyRecord s n x.own d) ([], 0)
  some (Act.all [mark,
    Act.each res.1 (fun e => collWrite deliver n (some op.sender) x.own (dDst d + 8 * e.1) (leBytes 8 e.2)),
    modRun n (fun r => { r with clxIn := r.clxIn.filter (fun e => !(e.own == x.own && e.tree != 2 && decide (dAux d ≤ e.addr) &&
      decide (e.addr < dAux d + gn * stride))) }),
    modClx (op.sid.unit * 32 + n) (fun y => { y with skip := satAdd y.skip res.2 }),
    count (ctrBank n 0x26) res.2])

/-! ### What an operation reads and writes itself (R92, R189) -/

def rowTotal (s : State) (n own : Nat) (d : List Byte) : Nat := (a2aCounts s n d own false).sum

/-- What an operation reads first, since it says how much more it reads: the counts of a `CA2A` UNEQUAL, N of a `COACC` SEND. -/
def collHead (c : Coll) (x : CollRank) : List (Nat × Nat) :=
  match c.opc, c.sub with
  | 0x73, 1 => [(dAux x.desc, 4 * dGsize x.desc)]
  | 0x74, 0 => [(dSrc x.desc, 16)]
  | _, _ => []

/-- What else an operation reads of its rank's memory. Children's sums and the regions of a `COACC` APPLY are deliveries. -/
def collReads (s : State) (n : Nat) (o : Obj) (c : Coll) (x : CollRank) : List (Nat × Nat) :=
  let d := x.desc
  let root := groupIndex d ((o.own[x.own]?).getD 0) == c.root
  match c.opc, c.sub with
  | 0x71, _ => [(dSrc d, dCount d * fmtBytes (dFin d))]
  | 0x72, _ => if root then [(dSrc d, dCount d)] else []
  | 0x73, 0 => [(dSrc d, dGsize d * dCount d * dRow d)]
  | 0x73, _ => [(dSrc d, rowTotal s n x.own d * dRow d)]
  | 0x74, 0 => [(dSrc d + 16, 16 * (min (readLNat s n x.own (dSrc d) 4) (dCap d)))]
  | 0x74, _ => if root then [(dDst d, 8 * dCount d)] else []
  | _, _ => [(dSrc d, dCount d)]

/-- What an operation writes itself; deliveries are external writes. -/
def collResults (o : Obj) (c : Coll) (x : CollRank) : List (Nat × Nat) :=
  let d := x.desc
  let me := groupIndex d ((o.own[x.own]?).getD 0)
  let root := me == c.root
  match c.opc, c.sub with
  | 0x71, _ => if root then (dDst d, dCount d * fmtBytes (dFout d)) ::
      (if dFlags d % 2 = 1 then [(dAux d + 4 * scratchH (dCount d), 8)] else []) else []
  | 0x72, _ => if root then [(dDst d, dCount d)] else []
  | 0x73, 0 => [(dDst d + me * (dCount d * dRow d), dCount d * dRow d)]
  | 0x73, _ => [(dAux d + 4 * dGsize d, 4 * dGsize d + 8)]
  | 0x74, 0 => []
  | 0x74, _ => if root then [(dDst d, 8 * dCount d)] else []
  | _, _ => []

/-- First address of an operation's own accesses that breaks the ward; a COACC SEND with more records than CAP breaks
it at SRC (R244). -/
def collOut (s : State) (n : Nat) (o : Obj) (c : Coll) (x : CollRank) : Option Nat :=
  if c.opc = 0x74 ∧ c.sub = 0 ∧ dCap x.desc < readLNat s n x.own (dSrc x.desc) 4 then some (dSrc x.desc)
  else firstOut (s.part n) x.own plainEngine (collHead c x ++ collReads s n o c x ++ collResults o c x)

/-- The parts of ranges that an operation of a hosted rank must fetch. -/
def collParts (s : State) (n : Nat) (x : CollRank) (rs : List (Nat × Nat)) : List Fetch :=
  remoteParts (s.part n) x.own plainEngine rs ++ hostParts (s.part n) x.own rs

/-- Sends the reads of a hosted rank's part: first those that say how much more it reads, then the others. What the first brought
from elsewhere is checked against the ward when it is there (R244). -/
def collAsk (deliver : Nat → Msg → Act) (s : State) (n : Nat) (o : Obj) (op : Op) (c : Coll) (x : CollRank) : Option Act :=
  if 2 ≤ x.asked then none else
  let fs := collParts s n x (if x.asked = 0 then collHead c x else collReads s n o c x)
  let late := x.asked = 1 && !(collParts s n x (collHead c x)).isEmpty
  some (Act.all [
    modColl n op.id x.own (fun y => { y with asked := y.asked + 1 }),
    modRun n (fun r => { r with ops := r.ops.map (fun y => if y.id == op.id then { y with want := y.want + fetchBytes fs } else y) }),
    match (if late then collOut s n o c x else none) with
      | some a => streamFault op.sid op.word op.qpos .ward 0 a
      | none => Act.skip,
    fetchBy deliver op.sid op.id fs])

/-- The data phase of a `CA2A` UNEQUAL is due (R241). -/
def phaseDue (s : State) (n : Nat) (c : Coll) (x : CollRank) : Bool :=
  c.opc == 0x73 && c.sub == 1 && decide (c.strike.toNat + dDphase x.desc * 10 ≤ (s.dom n).psc.toNat)

/-- Everything an operation asked for has come. -/
def opFed (s : State) (n : Nat) (op : Op) : Bool := op.want == 0 && !chunksOf s n op.id

/-- The next step of one hosted rank's part, if one is possible. -/
def collStep (deliver : Nat → Msg → Act) (s : State) (n : Nat) (o : Obj) (op : Op) (c : Coll) (x : CollRank) :
    Option Act :=
  let any (xs : List (Option Act)) : Option Act := xs.findSome? id
  if !opFed s n op then none
  else if x.asked < 2 then collAsk deliver s n o op c x
  else match c.opc, c.sub with
  | 0x71, 0 => any [redUp deliver s n o op c x 0, redUp deliver s n o op c x 1, redSq deliver n o op c x]
  | 0x71, _ => any [redUp deliver s n o op c x 0, redUp deliver s n o op c x 1, redSq deliver n o op c x,
      bcDown deliver s n o op c x 0, bcDown deliver s n o op c x 1]
  | 0x72, _ => any [bcDown deliver s n o op c x 0, bcDown deliver s n o op c x 1, bcCopy deliver s n o op c x]
  | 0x73, 0 => blockSends deliver s n o op c x
  | 0x73, _ => any [countSends deliver s n o op c x,
      if phaseDue s n c x && x.counts && !x.data then some (rowSends deliver s n o op c x) else none,
      rowSteps deliver s n o op c x]
  | 0x74, 0 => coaccSends deliver s n o op c x
  | 0x74, _ => coaccApplies deliver s n o op c x
  | _, _ => blockSends deliver s n o op c x

/-- The messages of an operation that have not left (R231). -/
def sendsWait (s : State) (op : Op) : Bool :=
  s.links.any (fun l => l.2.txq.any (fun t => t.op == some (op.sid, op.qpos) && !t.gone))

/-- True where a hosted rank's part of an operation has finished (R231). -/
def collRankDone (s : State) (n : Nat) (o : Obj) (c : Coll) (x : CollRank) : Bool :=
  let d := x.desc
  let rank := (o.own[x.own]?).getD 0
  let gn := dGsize d
  let root := groupIndex d rank == c.root
  match c.opc, c.sub with
  | 0x71, 0 => x.up0 && x.up1 && (!root || dFlags d % 2 == 0 || x.sq)
  | 0x71, _ => x.up0 && x.up1 && x.down0 && x.down1
  | 0x72, _ => x.down0 && x.down1 && (!root || x.data)
  | 0x73, 0 => x.data && allLanded s n o c x rank (fun j => (dDst d + j * (dCount d * dRow d), dCount d * dRow d))
  | 0x73, _ => x.applied
  | 0x74, 0 => x.data
  | 0x74, _ => x.applied
  | _, _ => x.data && decide (dCount d ≤ landedIn s n o x.own c.tag
      (member d rank ((groupIndex d rank + 2 * gn - c.root) % gn)) (dDst d) (dDst d + dCount d))

/-- True where an operation is complete on every hosted rank, its sends included. -/
def collDone (s : State) (n : Nat) (op : Op) (c : Coll) : Bool :=
  match (s.part n).obj with
  | none => true
  | some o => !sendsWait s op && c.ranks.all (collRankDone s n o c)

/-- The first possible step of the partition's collectives. -/
def nextCollStep (deliver : Nat → Msg → Act) (s : State) (n : Nat) : Option Act :=
  match (s.part n).obj with
  | none => none
  | some o => (s.part n).run.ops.findSome? (fun op =>
      match op.coll with
      | none => none
      | some c => c.ranks.findSome? (collStep deliver s n o op c))

/-- Steps the partition's collectives as far as what has landed allows. -/
def progressFuel (deliver : Nat → Msg → Act) (n : Nat) : Nat → Act
  | 0, _ => []
  | f + 1, s =>
    match nextCollStep deliver s n with
    | none => []
    | some a =>
      let e := a s
      e ++ progressFuel deliver n f (applyAll e s)

/-- Each operation has at most nine steps per hosted rank and one per waiting row message. -/
def progress (deliver : Nat → Msg → Act) (n : Nat) : Act := fun s =>
  let r := (s.part n).run
  progressFuel deliver n (r.ops.length * 80 + r.clxWait.length + 1) s

end Sys2Proof.Machine
end

