-- ==== Sys2Proof/Machine/Recv.lean ====
section
/-!
DEFINITION. What a message does when it lands in a partition (R158, R159, R161, R197 to R201, R239, R423, R425).
-/
namespace Sys2Proof.Machine

/-- The exported window that holds a range and grants a right (R186, R198): right 0 read, 1 write, 2 atomic. -/
def exported (o : Obj) (a len right : Nat) : Bool := o.exps.any (fun e =>
  let lo := segBase o.segs e.seg + e.off * 4096
  bit e.rights right && decide (lo ≤ a) && decide (a + len ≤ lo + e.len * 4096))

/-- The value that an atomic stores, given the old value and the operands (R200, R132). -/
def atomicNew (op fmt old val cmp : Nat) : Nat :=
  let w := if fmt = 2 then 64 else 32
  let sg := fmt != 1
  let lt (a b : Nat) : Bool := decide (intOf w sg a < intOf w sg b)
  match op with
  | 0 => (old + val) % 2 ^ w
  | 1 => if lt val old then val else old
  | 2 => if lt old val then val else old
  | 3 => old &&& val
  | 4 => old ||| val
  | 5 => old ^^^ val
  | 6 => val
  | _ => if old = cmp then val else old

/-- The request that an answer names (R423). -/
def Run.req (r : Run) (ident : BitVec 16) : Option Req := r.reqs.find? (fun q => q.ident == ident)

/-- Bytes that an operation waited for have arrived. -/
def gotBytes (n id k : Nat) : Act := modRun n (fun r => { r with
  ops := r.ops.map (fun o => if o.id == id then { o with want := o.want - k } else o) })

/-- Forgets a request. -/
def dropReq (n : Nat) (ident : BitVec 16) : Act := modRun n (fun r => { r with
  reqs := r.reqs.filter (fun q => q.ident != ident) })

/-! ### Remote accesses on their way (R197 to R200, R422, R423) -/

/-- A request of a remote access: `k` is the part of the transfer it asks for, and its number is the requester's next (R423). -/
def request (deliver : Nat → Msg → Act) (n : Nat) (o : Outgoing) (k : Nat × Nat) : Act := fun s =>
  let r := (s.part n).run
  Act.all [
    modRun n (fun r => { r with
      reqs := r.reqs ++ [{ ident := r.nextReq, sid := o.sid, op := o.op, own := o.own, addr := o.near + k.1 }],
      nextReq := r.nextReq + 1 }),
    postTo deliver n o.own o.rank (some (o.sid, o.qpos, o.word)) o.kind o.cls 0 o.tag (o.far + k.1)
      (if o.kind == .atomic then 16 else 0) (r.nextReq.toNat * 65536 + (if o.kind == .atomic then o.arg else k.2)) o.bytes] s

/-- Posts the messages of a remote access. -/
def sendOut (deliver : Nat → Msg → Act) (n : Nat) (o : Outgoing) : Act := match o.kind with
  | .write => Act.each (msgParts o.cls o.bytes.length) (fun k =>
      postTo deliver n o.own o.rank (some (o.sid, o.qpos, o.word)) .write o.cls 0 o.tag (o.far + k.1) k.2 0 (slice o.bytes k.1 k.2))
  | .atomic => request deliver n o (0, 8)
  | _ => Act.each (msgParts o.cls o.len) (request deliver n o)

/-- Two remote accesses of one rank and tag: the later leaves after the earlier (R199). -/
def sameWay (a b : Outgoing) : Bool := a.rank == b.rank && a.tag == b.tag

/-- The first access that can leave. -/
def nextOut (os : List Outgoing) : Option Outgoing :=
  (os.zipIdx.find? (fun e => e.1.ready && !(os.take e.2).any (sameWay e.1))).map (·.1)

/-- Lets go what can leave, in order. -/
def flushOut (deliver : Nat → Msg → Act) (n : Nat) : Nat → Act
  | 0, _ => []
  | f + 1, s =>
    match nextOut (s.part n).run.outbox with
    | none => []
    | some o => Act.all [
        modRun n (fun r => { r with outbox := r.outbox.erase o }), sendOut deliver n o, flushOut deliver n f] s

/-- A remote access leaves at once, or waits for its bytes and for those before it of its rank and tag (R199). -/
def pushOut (deliver : Nat → Msg → Act) (n : Nat) (o : Outgoing) : Act := fun s =>
  if o.ready && !(s.part n).run.outbox.any (sameWay o) then sendOut deliver n o s
  else modRun n (fun r => { r with outbox := r.outbox ++ [o] }) s

/-- The bytes of operation `id`'s remote access are here. -/
def fillOut (deliver : Nat → Msg → Act) (n id : Nat) (bs : List Byte) : Act := fun s => Act.all [
  modRun n (fun r => { r with outbox := r.outbox.map (fun o => if o.op == id && !o.ready then { o with bytes := bs, ready := true } else o) }),
  flushOut deliver n ((s.part n).run.outbox.length + 1)] s

/-- The operand block of an `LATOM` in a REMOTE home has arrived (R200). -/
def atomicReady (deliver : Nat → Msg → Act) (n id : Nat) : Act := fun s =>
  let r := (s.part n).run
  match r.outbox.find? (fun o => o.op == id && o.kind == .atomic && !o.ready), r.ops.find? (fun o => o.id == id && o.want == 8) with
  | some o, some _ => fillOut deliver n id (readL s n o.own o.near 16) s
  | _, _ => []

/-- Mark of an `LRD`'s bytes among those that have arrived: they are written, not read. -/
def lrdMark : Nat := 8

/-- A read reply brings the bytes that an operation waits for: those of an `LRD`, written at the address the requester
kept, or of a read of a REMOTE home (R189, R423); a keyway move's land at once (R190). -/
def landReply (deliver : Nat → Msg → Act) (n : Nat) (q : Req) (m : Msg) : Act := fun s =>
  let lrd := (s.part n).run.ops.any (fun o => o.id == q.op && opc o.word == 0x79)
  Act.all [
    dropReq n q.ident,
    if q.op == keywayOp then poke q.addr m.payload
    else modRun n (fun r => { r with
      remoteBuf := (q.op, q.own + (if lrd then lrdMark else if q.op == receiptOp then receiptMark else 0), q.addr, m.payload) ::
        r.remoteBuf }),
    gotBytes n q.op m.payload.length,
    atomicReady deliver n q.op,
    progress deliver n] s

/-- Ends the snapshot in progress without a manifest (R295). -/
def snapEnd (n : Nat) : Act := fun s =>
  if (s.part n).snap.state != .draining then [] else Act.all [
    modPart n (fun p => { p with
      snap := { p.snap with state := .aborted, pages := [], marked := [], reading := [], ranks := [], ctxSent := false },
      run := { p.run with pages := p.run.pages.map (fun e => (e.1, { e.2 with cow := false })) } }),
    unstall n .snapshot 0,
    fltEvent dieHub 3 .snapshotAborted (some n) 0, irqPart n 2] s

/-- What a refusal does to its sender (R198): a WARD fault in the stream that issued the message; the operation that
waited for an answer waits no longer. The refusal comes in the class of the message it refuses. That of a write of a snapshot's
image, which no stream issued, ends the snapshot (R295); that of a read for a receipt makes the receipt end with WARD (R284). -/
def landRefusal (n cls : Nat) (m : Msg) : Act := fun s =>
  let r := (s.part n).run
  let kind := fld m.arg 24 8
  let seq := BitVec.ofNat 16 (fld m.arg 0 16)
  match r.sent.find? (fun e => kindCode e.kind == kind && e.cls == cls && e.seq == seq && e.dst == m.srcDev) with
  | none => []
  | some e =>
    if e.sid == hardware n then Act.all [
      modRun n (fun r => { r with sent := r.sent.erase e }),
      (if e.qpos == 0 then snapEnd n else Act.all [
        modRun n (fun r => { r with reqs := r.reqs.filter (fun q => q.op != receiptOp) }),
        modSec (fun x => { x with rcptCode := 3 })])] s else
    Act.all [
      modRun n (fun r => { r with
        sent := r.sent.erase e,
        outbox := r.outbox.filter (fun o => !(o.sid == e.sid && o.qpos == e.qpos)),
        ops := r.ops.map (fun o => if o.sid == e.sid && o.qpos == e.qpos then { o with want := 0 } else o),
        reqs := r.reqs.filter (fun q => !(q.sid == e.sid && r.ops.any (fun o => o.id == q.op && o.qpos == e.qpos))) }),
      count (ctrBank n 0x28) 1,
      streamFault e.sid e.word e.qpos .ward 0 m.addr.toNat] s

/-- Lands a collective delivery (R239, R241, R425). Rows that cannot be placed yet come here only from a co-hosted rank, and
wait in its partition (DESIGN CHOICE, log entry 35). -/
def landClx (deliver : Nat → Msg → Act) (n own cls : Nat) (m : Msg) : Act := fun s =>
  let p := s.part n
  if isRows p.run own m then
    match p.obj.bind (fun o => (rowsOp o p.run own m).map (fun e => (o, e))) with
    | some (o, _, c, x) =>
      if countsLanded s n o c x then Act.all [placeRows deliver n o c x cls m, progress deliver n] s
      else modRun n (fun r => { r with clxWait := r.clxWait ++ [(own, cls, m)] }) s
    | none => modRun n (fun r => { r with clxWait := r.clxWait ++ [(own, cls, m)] }) s
  else if (firstOut p own plainEngine [(m.addr.toNat, m.payload.length)]).isSome then refuse deliver n cls m s
  else Act.all [
    trackExt n own m.addr.toNat m.payload.length (annColl own m.tag),
    collWrite deliver n none own m.addr.toNat m.payload,
    modRun n (fun r => { r with clxIn := r.clxIn ++ [{
      own := own, tag := m.tag, src := m.srcDev, srcPart := m.srcPart, srcOwn := m.srcOwn, addr := m.addr.toNat,
      len := m.payload.length, slot := argSlot m, tree := argTree m, phase := argPhase m }] }),
    progress deliver n] s

/-- The effect of a message that lands (R423), once the epoch rule and the recording of its bytes are past. -/
def landMsg (deliver : Nat → Msg → Act) (n cls : Nat) (m : Msg) : Act := fun s =>
  let p := s.part n
  match p.obj with
  | none => []
  | some o =>
    let own := ownOf o s.hub.devno.toNat n m.dstOwn.toNat
    let a := m.addr.toNat
    let ack : Msg → Nat → Act := fun x c => postAnswer deliver n c x
    match m.kind with
    | .write => Act.all [
        trackExt n own a m.payload.length (annMsg m.srcDev m.tag),
        writeL n own a m.payload,
        landBytes ack n m.srcDev m.tag m.payload.length] s
    | .readReq =>
      let k := fld m.arg 0 16
      postAnswer deliver n cls (answer m .readReply p.run.bindingEpoch k m.arg (readL s n own a k)) s
    | .readReply =>
      match p.run.req (BitVec.ofNat 16 (fld m.arg 16 16)) with
      | some q => landReply deliver n q m s
      | none => []
    | .signal => takeSignal ack n m cls s
    | .ack =>
      let l := fld m.addr 0 19
      if p.hasLatch l then incLatch n l 1 whereExt 0 0 s
      else progFault n { cause := .ward, whr := whereExt } s
    | .atomic =>
      let fmt := fld m.arg 0 2
      let w := if fmt = 2 then 8 else 4
      let old := readLNat s n own a w
      let new := atomicNew (fld m.arg 8 3) fmt old (leAt m.payload 0 w) (leAt m.payload 8 w)
      Act.all [
        trackExt n own a w (annMsg m.srcDev m.tag),
        writeL n own a (leBytes w new),
        postAnswer deliver n cls (answer m .atomicReply p.run.bindingEpoch 8 m.arg (leBytes 8 old))] s
    | .atomicReply =>
      match p.run.req (BitVec.ofNat 16 (fld m.arg 16 16)) with
      | some q => Act.all [
          dropReq n q.ident,
          modRun n (fun r => { r with ops := r.ops.map (fun x => if x.id == q.op then
            { x with want := x.want - 8, pend := x.pend ++ [.mem q.own q.addr (slice m.payload 0 8)] } else x) })] s
      | none => []
    | .refusal => landRefusal n cls m s
    | .clx => landClx deliver n own cls m s
    | .mgmt => []

/-- The rights check of an inbound remote access (R198). Signals, answers and collective deliveries are not remote
accesses in this sense. -/
def accessOk (o : Obj) (m : Msg) : Bool :=
  match m.kind with
  | .write => exported o m.addr.toNat m.payload.length 1
  | .readReq => exported o m.addr.toNat (fld m.arg 0 16) 0
  | .atomic => exported o m.addr.toNat 8 2
  | _ => true

/-- What becomes of a message at its partition (R160, R161, R241, R290). -/
inductive Arrival where
  | deliver | stale | ahead | full | early
  deriving DecidableEq, Repr

/-- Bytes that a message writes: address and length. -/
def msgWrites (m : Msg) : Nat × Nat := match m.kind with
  | .write | .clx => (m.addr.toNat, m.payload.length)
  | .atomic => (m.addr.toNat, 8)
  | _ => (0, 0)

/-- Index in OWN of the hosted rank that a message is for. -/
def msgOwn (s : State) (n : Nat) (m : Msg) : Nat := match (s.part n).obj with
  | some o => ownOf o s.hub.devno.toNat n m.dstOwn.toNat
  | none => 0

/-- A message finds no room: the bounds of R160, or the snapshot buffer (R290). -/
def noRoom (s : State) (n : Nat) (m : Msg) : Bool :=
  let r := (s.part n).run
  let w := msgWrites m
  let known := r.tags.any (fun e => e.src == m.srcDev && e.tag == m.tag)
  (m.kind == .signal && decide (1024 ≤ r.held.length)) ||
    ((m.kind == .signal || m.kind == .write) && !known && decide (4096 ≤ r.tags.length)) ||
    cowFull s n (msgOwn s n m) w.1 w.2

/-- Judges a message by its binding epoch, modulo 2^32 (R161), by the room it needs (R160, R290), and by what its rows wait for
(R241). A partition that holds no object has no epoch to compare: its messages are stale (DESIGN CHOICE, log entry 40). -/
def judge (s : State) (n : Nat) (m : Msg) : Arrival :=
  let p := s.part n
  if p.obj.isNone then .stale else
  let d := (p.run.bindingEpoch - m.epoch).toNat
  if d ≠ 0 ∧ d < 2 ^ 31 then .stale
  else if d ≠ 0 then .ahead
  else if noRoom s n m then .full
  else if rowsEarly s n (msgOwn s n m) m then .early
  else .deliver

/-- A message that stays on the device waits in its class while it finds no room, behind those that wait (R160, R290). -/
def localMsg (n : Nat) (land : Nat → Msg → Act) (cls : Nat) (m : Msg) : Act := fun s =>
  if noRoom s n m || (s.part n).run.localWait.any (fun e => e.1 == cls) then
    modRun n (fun r => { r with localWait := r.localWait ++ [(cls, m)] }) s
  else land cls m s

/-- Takes a message at partition `n`, within the fuel of the answers it causes on this device: it is refused, held
back by an open record window until its copy is accepted, or by an older message of its source and tag that is (R277), or
lands. -/
def acceptFuel (n : Nat) : Nat → Nat → Msg → Act
  | 0, _, _ => Act.skip
  | f + 1, cls, m => fun s =>
    let p := s.part n
    match p.obj with
    | none => []
    | some o =>
      let x := xferOf s n (ownOf o s.hub.devno.toNat n m.dstOwn.toNat) false m
      if !accessOk o m then refuse (localMsg n (acceptFuel n f)) n cls m s
      else if m.kind != .mgmt && (p.recd.copying || p.recd.waiting.any (fun c =>
          c.msg.any (fun y => y.2.srcDev == m.srcDev && y.2.tag == m.tag))) then
        modPart n (fun p => { p with recd := { p.recd with
          waiting := p.recd.waiting ++ [{ own := x.own, desc := x.desc, payload := m.payload, msg := some (cls, m), op := none,
                                          copy := p.recd.copying }] } }) s
      else Act.all [recXfer n x, landMsg (localMsg n (acceptFuel n f)) n cls m] s

/-- Messages between ranks of one partition cause at most this many further messages each. -/
def deliverDepth : Nat := 64

/-- Takes a message at partition `n`. -/
def accept (n cls : Nat) (m : Msg) : Act := acceptFuel n deliverDepth cls m

/-- A message of this device arrives at its partition `n`. -/
def deliver (n cls : Nat) (m : Msg) : Act := localMsg n (accept n) cls m

/-- What the memory accesses of an instruction send off the device: its reads of REMOTE homes and of the host window, and its
writes to the host window. -/
def traffic (sid : StreamId) (id : Nat) (g : Go) : Act := Act.all [
  fetchBy (deliver sid.part) sid id g.fetch, hostWrites sid.part id g.wr]

/-- A rank in whose memory the ranges of an instruction have their REMOTE home cannot be reached (R424). -/
def homeUnreached (s : State) (n : Nat) (rs : List Rng) : Bool := rs.any (fun r => match r.space with
  | .mem own => (remoteParts (s.part n) own plainEngine [(r.lo, r.hi - r.lo)]).any (fun f => !canReach s n f.peer)
  | _ => false)

/-- An instruction that would send what cannot be sent does not start (R424). -/
def reachable (f : Ctx → Verdict) (c : Ctx) : Verdict := match f c with
  | .go g => if homeUnreached c.s c.n (g.rd ++ g.wr) then .fault .ward 0 0 else .go g
  | v => v

/-- The issue of an instruction whose memory accesses may leave the device. -/
def issueR (sid : StreamId) (w : InsnWord) (isRow : Bool) (body : Ctx → Verdict) : Act :=
  issueWith traffic sid w isRow (reachable body)

/-- Writes to REMOTE homes travel as class 2 writes (R189). -/
def writeRemote (n own a : Nat) (bs : List Byte) : Act := writeRemoteBy (deliver n) n own none a bs

/-- Writes bytes wherever their pages are homed. -/
def store (n own a : Nat) (bs : List Byte) : Act := storeBy (deliver n) n own none a bs

end Sys2Proof.Machine
end

