-- ==== Sys2Proof/Machine/Keyway.lean ====
section
/-!
DEFINITION. The keyway's homes and frames (R179, R185, R187 to R191), segment moves (R190) and channel copies (R306).
-/
namespace Sys2Proof.Machine

/-! ### Columns -/

/-- Position (row, index) of a column die (R6). -/
def colPos (c : Nat) : Nat × Nat :=
  (([(0, 0), (0, 1), (0, 3), (0, 4), (1, 0), (1, 1), (1, 2), (1, 3), (1, 4), (2, 1), (2, 3), (3, 0), (3, 1), (3, 2),
     (3, 3), (3, 4), (4, 0), (4, 1), (4, 3), (4, 4)] : List (Nat × Nat))[c]?).getD (9, 9)

/-- Columns that are orthogonal mesh neighbours (R6, R187). -/
def meshNear (a b : Nat) : Bool :=
  let p := colPos a
  let q := colPos b
  (p.1 == q.1 && (p.2 == q.2 + 1 || q.2 == p.2 + 1)) || (p.2 == q.2 && (p.1 == q.1 + 1 || q.1 == p.1 + 1))

/-- Physical cells of a column that are fenced, as a mask (R327). -/
def fencedCell (s : State) (c p : Nat) : Bool := bit (s.col c).fenced p

/-- A spare cell (16 or 17) of a column is free: unfenced and not bound as a substitute (R10, R313). -/
def spareFree (s : State) (c p : Nat) : Bool :=
  !fencedCell s c p && (s.cell (c * 18 + p)).role != .bound

/-- The free spares of a column in the order in which they are taken as substitutes (R313): those that are not the witness
first, then by number. -/
def spareOrder (s : State) (c : Nat) : List Nat :=
  let free := [16, 17].filter (spareFree s c)
  let witness (p : Nat) : Bool := (s.cell (c * 18 + p)).witness
  free.filter (fun p => !witness p) ++ free.filter witness

/-- A physical cell stands behind a logical cell that its pair serves (R314). -/
def muxedCell (s : State) (k : Nat) : Bool := s.parts.any (fun e =>
  e.2.bind.cells.any (fun b => b.2 == k && e.2.bind.muxed.contains b.1))

/-- Fenced cells of a column that serve a logical cell and wait for a substitute (R313). -/
def awaiting (s : State) (c : Nat) : Nat :=
  ((List.range 18).filter (fun p =>
    fencedCell s c p && (s.cell (c * 18 + p)).valid && !muxedCell s (c * 18 + p))).length

/-- A spare can carry shadowing: it is free, and no fenced cell of the column needs it as a substitute (R10). -/
def canShadow (s : State) (c p : Nat) : Bool := spareFree s c p && !((spareOrder s c).take (awaiting s c)).contains p

/-- What a change of a column's fences and bindings does to its shadowing (R10): a spare that is needed as a substitute ends the
comparison it runs, and shadowing that has lost its last spare stops, which the device counts. The chunk boundary at which a
comparison ends is at once in the model (log entry 104). -/
def sparesChanged (before : State) (c : Nat) : Act := fun s => Act.all [
  Act.each ([16, 17].filter (fun p => !canShadow s c p)) (fun p => modCell (c * 18 + p) (fun x => { x with
    shadowOf := none, role := if x.role == .shadowing then .unbound else x.role })),
  Act.guard ((s.col c).rate != 0 && [16, 17].any (canShadow before c) && !([16, 17].any (canShadow s c))) (Act.all [
    modCol c (fun x => { x with shadowStop := satAdd x.shadowStop 1 }), fltEvent c 16 .shadowStop none 1])] s

/-- A change of a column's fences or bindings, with what it does to shadowing. -/
def withSpares (c : Nat) (a : Act) : Act := fun s => Act.all [a, sparesChanged s c] s

/-- Number of free spare cells (R327). -/
def freeSpares (s : State) (c : Nat) : Nat := b2n (spareFree s c 16) + b2n (spareFree s c 17)

/-- HOT weights bound in a column by the loaded partitions (R187). -/
def hotIn (s : State) (c : Nat) : Nat :=
  (s.parts.map (fun e => match e.2.obj with
    | none => 0
    | some o => ((List.range o.own.length).map (fun own =>
        ((o.cols.map (fun lc => match e.2.quarter own lc.first with
          | some pq => if pq / 4 = c then lc.hot else 0
          | none => 0)).sum))).sum)).sum

/-- The order in which columns are preferred (R187): fewer retired channels, more free spare cells, lower HOT in the
column and its neighbours, lower number. -/
def colRank (s : State) (c : Nat) : List Nat :=
  [(s.col c).retired.length, 2 - freeSpares s c,
   hotIn s c + (((List.range 20).filter (meshNear c)).map (hotIn s)).sum, c]

/-- Lexicographic order. -/
def lexLe : List Nat → List Nat → Bool
  | [], _ => true
  | _, [] => false
  | a :: as, b :: bs => if a < b then true else if b < a then false else lexLe as bs

/-- The best of several candidates by a ranking. -/
def bestBy {α : Type} (rank : α → List Nat) : List α → Option α
  | [] => none
  | x :: xs => match bestBy rank xs with
    | none => some x
    | some y => if lexLe (rank x) (rank y) then some x else some y

/-! ### Frames -/

/-- Frames of 2 MiB per quarter. That a quarter's share of its column's addresses is one contiguous fourth is a DESIGN
CHOICE (log entry 38): R179 gives the channels and no address order. -/
def quarterFrames (s : State) : Nat := colDram s / 4 / pageSize
def quarterFrame0 (s : State) (pq : Nat) : Nat := (pq / 4) * (dramSpan / pageSize) + (pq % 4) * quarterFrames s

/-- Frames in use: pages, moves and swap areas. -/
def usedFrames (s : State) : List Nat := s.parts.flatMap (fun e =>
  (e.2.run.pages.filterMap (fun x => if x.2.home == .remote then none else some x.2.frame)) ++
  e.2.run.moves.flatMap (fun m => if m.home == .remote then [] else m.frames) ++ e.2.run.swapReserved)

/-- The frames in which the snapshot buffers of a column lie: the highest that nothing else uses (R302, R314; DESIGN CHOICE, log
entry 75). -/
def bufferFrames (s : State) (c : Nat) : List Nat :=
  let used := usedFrames s
  let need := (s.parts.map (fun e => if e.2.bind.quarters.any (fun q => q / 4 == c) then bufPages e.2 else 0)).sum
  (((List.range' (quarterFrame0 s (4 * c)) (4 * quarterFrames s)).reverse).filter (fun f => !used.contains f)).take need

/-- The lowest free frames of candidate ranges (first frame, count), at most `k`. -/
def takeFree (used : List Nat) (k : Nat) (ranges : List (Nat × Nat)) : List Nat :=
  ((ranges.flatMap (fun r => List.range' r.1 r.2)).filter (fun f => !used.contains f)).take k

/-- Free frames of the home that logical column `g` forms, when `k` can be taken; none otherwise. The snapshot buffer
counts at load step 7 and takes no frame of a quarter here (R302; DEDUCED, log entry 75). -/
def colRoom (s : State) (n own g k : Nat) : Option (List Nat) :=
  let p := s.part n
  let qs := lcolQuarters p own g
  let fs := takeFree (usedFrames s) k (qs.map (fun q => (quarterFrame0 s q, quarterFrames s)))
  if fs.length = k then some fs else none

/-- Free frames in the partition's host window, taken from its top downward (DESIGN CHOICE, log entry 38). -/
def hostRoom (s : State) (n k : Nat) : Option (List Nat) :=
  let p := s.part n
  if !p.kwy.winEn then none else
  let lo := (hostBase + p.kwy.winBase.toNat * gib) / pageSize
  let cnt := p.kwy.winSize.toNat * 512
  let used := usedFrames s
  let fs := (((List.range' lo cnt).reverse).filter (fun f => !used.contains f)).take k
  if fs.length = k then some fs else none

/-- A home that a segment may take: its class, its kind, and its logical column. -/
structure HomeOpt where
  cls : Nat
  home : Home
  col : Nat
  deriving DecidableEq, Repr

/-- The permitted homes of a segment of hosted rank `own` in order of preference (R185, R189). -/
def homeOpts (s : State) (n own : Nat) (o : Obj) (g : Seg) : List HomeOpt :=
  let p := s.part n
  let others := (List.range o.cols.length).filter (· != g.near)
  let phys (c : Nat) : Nat := (((lcolQuarters p own c).head?).map (· / 4)).getD 0
  let sorted := others.mergeSort (fun a b => lexLe (colRank s (phys a)) (colRank s (phys b)))
  ((if bit g.homes 0 then [{ cls := 1, home := .loc, col := g.near : HomeOpt }] else []) ++
   (if bit g.homes 1 then sorted.map (fun c => { cls := 2, home := .neigh, col := c : HomeOpt }) else []) ++
   (if bit g.homes 2 then [{ cls := 3, home := .remote, col := 0 : HomeOpt }] else []) ++
   (if bit g.homes 3 then [{ cls := 4, home := .host, col := 0 : HomeOpt }] else [])).filter (fun h => h.cls ≤ g.pclass)

/-- The frames of a home for a segment of `k` pages, if it has room. A REMOTE home's pages carry no frame. -/
def homeRoom (s : State) (n own k : Nat) (h : HomeOpt) : Option (List Nat) :=
  match h.home with
  | .loc | .neigh => colRoom s n own h.col k
  | .remote => some (List.replicate k 0)
  | .host => hostRoom s n k

/-- The home that the keyway chooses for a segment (R189). -/
def chooseHome (s : State) (n own : Nat) (o : Obj) (g : Seg) : Option (HomeOpt × List Nat) :=
  (homeOpts s n own o g).findSome? (fun h => (homeRoom s n own (g.size / pageSize) h).map (fun fs => (h, fs)))

/-- The ward tag of partition `n` (R333): its number and the generation of its load. -/
def Part.tag (p : Part) (n : Nat) : Nat := n + 32 * p.cfg.gen.toNat

/-- Page entries of a segment under a ward tag: number of the first page, home and frames. -/
def segPages (tag own page0 : Nat) (home : Home) (fs : List Nat) : List (Nat × Page) :=
  fs.zipIdx.map (fun e => (pageKey own (page0 + e.2),
    { home := home, frame := e.1, ward := BitVec.ofNat 16 tag, cow := false, sealed := false }))

/-- Replaces page entries, keeping their COW marks and seals (R290). -/
def putPages (ps : Tab Page) (new : List (Nat × Page)) : Tab Page :=
  new.foldl (fun t e =>
    let old := t.find? (fun x => x.1 == e.1)
    let pg := { e.2 with
      cow := ((old.map (·.2.cow)).getD false), sealed := ((old.map (·.2.sealed)).getD false),
      closed := ((old.map (·.2.closed)).getD false) }
    ((t.takeWhile (fun x => x.1 < e.1)) ++ [(e.1, pg)] ++ (t.filter (fun x => e.1 < x.1)))) ps

/-! ### Moves (R190) -/

/-- The home that a segment has now. -/
def homeNow (s : State) (n own : Nat) (o : Obj) (i : Nat) : Option (Home × Nat) :=
  let p := s.part n
  (p.page own (segBase o.segs i / pageSize)).map (fun pg => (pg.home, pg.frame * pageSize / dramSpan))

/-- A home is another one than the segment of a hosted rank has now. -/
def otherHome (s : State) (n own : Nat) (o : Obj) (i : Nat) (h : HomeOpt) : Bool := match homeNow s n own o i with
  | none => false
  | some (k, c) => h.home != k ||
      ((k == .loc || k == .neigh) && (((lcolQuarters (s.part n) own h.col).head?).map (· / 4)).getD 0 != c)

/-- Starts a move of segment `i` of a hosted rank to the first of `hs` that has room, unless one is in progress. -/
def startMove (n own i : Nat) (g : Seg) (hs : List HomeOpt) : Act := fun s =>
  if (s.part n).run.moves.any (fun m => m.own == own && m.seg == i) then [] else
  match hs.findSome? (fun h => (homeRoom s n own (g.size / pageSize) h).map (fun fs => (h, fs))) with
  | none => []
  | some (h, fs) => Act.all [
      modRun n (fun r => { r with moves := r.moves ++ [{ own := own, seg := i, home := h.home, frames := fs, clean := [] }] }),
      modKwy (fun k => { k with busy := true })] s

/-- Moves segment `i` of every hosted rank to the first home with room that `choose` leaves of its permitted homes, which stand in the
order of preference. A segment that is not MOVABLE does not move. -/
def moveSeg (n i : Nat) (choose : State → Nat → Obj → List HomeOpt → List HomeOpt) : Act := fun s =>
  match (s.part n).obj with
  | none => []
  | some o =>
    match o.segs[i]? with
    | none => []
    | some g =>
      if !bit g.flags 1 then [] else
      Act.each (List.range o.own.length) (fun own => fun s =>
        startMove n own i g (choose s own o (homeOpts s n own o g)) s) s

/-- Requests a move of a segment to its best other permitted home (R190, R204). -/
def requestMove (n i : Nat) : Act := moveSeg n i (fun s own o hs => hs.filter (otherHome s n own o i))

/-- The keyway thinks again about where the segments of a partition lie, and moves those for which a home with room has come to be
preferred to the one they have (R189, R190). It does so when a channel is retired and when a load has taken DRAM; the rule names the
occasions and not the choice (DESIGN CHOICE, log entry 118). -/
def reconsider (n : Nat) : Act := fun s => Act.each (List.range (((s.part n).obj.map (·.segs.length)).getD 0)) (fun i =>
  moveSeg n i (fun s own o hs => hs.takeWhile (otherHome s n own o i))) s

/-- The keyway has written a frame: the copies of it that channel copies hold are out of date (R306). -/
def frameDirty (n frame : Nat) : Act := fun s =>
  let c := frame * pageSize / dramSpan
  let es := (s.col c).chCopy.filterMap (fun x => ((s.col c).position x.ch).map (fun pos => (c, pos, chanPage s frame)))
  if es.isEmpty then [] else modRun n (fun r => { r with chDirty := r.chDirty ++ es.filter (fun e => !r.chDirty.contains e) }) s

/-- Copies page `j` of a segment move to its new home in free cycles (R190 step 1). -/
def copyMovePage (n own i j : Nat) : Act := fun s =>
  let p := s.part n
  match p.obj, p.run.moves.find? (fun m => m.own == own && m.seg == i) with
  | some o, some m =>
    let page := segBase o.segs i / pageSize + j
    match p.page own page, m.frames[j]? with
    | some pg, some f =>
      let mark : Act := modRun n (fun r => { r with moves := r.moves.map (fun x =>
        if x.own == own && x.seg == i then { x with clean := page :: x.clean.erase page } else x) })
      let g := o.segs[i]?
      let peer := (g.map (·.peer)).getD 0
      let far := ((g.bind (fun g => o.exps[g.exp]?)).map (fun e => segBase o.segs e.seg + e.off * 4096)).getD 0 + j * pageSize
      let to? := f * pageSize
      match pg.home, m.home with
      | .remote, _ => Act.all [
          Act.each (msgParts 2 pageSize) (fun k => fun s =>
            let r := (s.part n).run
            Act.all [
              modRun n (fun r => { r with
                reqs := r.reqs ++ [{ ident := r.nextReq, sid := hardware n, op := keywayOp, own := own,
                                     addr := to? + k.1 }],
                nextReq := r.nextReq + 1 }),
              postTo (deliver n) n own peer none .readReq 2 0 0 (far + k.1) 0 (r.nextReq.toNat * 65536 + k.2) []] s),
          mark] s
      | _, .remote =>
        let bs := peekN s (pg.frame * pageSize) pageSize
        Act.all [Act.each (msgParts 2 pageSize) (fun k =>
            postTo (deliver n) n own peer none .write 2 0 0 (far + k.1) k.2 0 (slice bs k.1 k.2)), mark] s
      | _, _ =>
        let lo := pg.frame * pageSize
        let cells := s.store.mem.filter (fun c => lo ≤ c.1 && c.1 < lo + pageSize)
        let zero : Act := fun s => match place s to? with
          | .dram a => [.clearMem a (a + pageSize)]
          | _ => []
        if (place s lo matches .dram _) && (place s to? matches .dram _) then
          Act.all [zero, Act.each cells (fun c => writeMem (to? + (c.1 - lo)) [c.2]), mark, frameDirty n f] s
        else Act.all [poke to? (peekN s lo pageSize), mark, frameDirty n f] s
    | _, _ => []
  | _, _ => []

/-- True where every page of a move is copied and clean and no copy of it is still under way (R190 step 3). -/
def moveReady (p : Part) (o : Obj) (m : MoveRec) : Bool :=
  let page0 := segBase o.segs m.seg / pageSize
  (List.range m.frames.length).all (fun j => m.clean.contains (page0 + j)) &&
  !p.run.reqs.any (fun q => q.op == keywayOp && m.frames.any (fun f => f * pageSize ≤ q.addr && q.addr < (f + 1) * pageSize))

/-- The keyway's part in an epoch strike: moves that are ready switch, others are deferred (R190 step 3). -/
def switchMoves (n : Nat) : Act := fun s =>
  match (s.part n).obj with
  | none => []
  | some o => Act.all [
      Act.each (s.part n).run.moves (fun m => fun s =>
        let p := s.part n
        if moveReady p o m then Act.all [
          modPart n (fun p => { p with
            kwy := { p.kwy with moves := satAdd p.kwy.moves 1 },
            run := { p.run with
              moves := p.run.moves.erase m,
              pages := putPages p.run.pages
                (segPages (p.tag n) m.own (segBase o.segs m.seg / pageSize) m.home m.frames) } }),
          count (ctrHub 0x18) 1] s
        else modPart n (fun p => { p with kwy := { p.kwy with defer := satAdd p.kwy.defer 1 } }) s),
      fun s => modKwy (fun k => { k with busy := s.parts.any (fun e => !e.2.run.moves.isEmpty) }) s,
      modPart n (fun p => { p with kwy := { p.kwy with
        dramPages := BitVec.ofNat 32 ((p.run.pages.filter (fun e => e.2.home == .loc || e.2.home == .neigh)).length),
        hostPages := BitVec.ofNat 32 ((p.run.pages.filter (fun e => e.2.home == .host)).length) } })] s

end Sys2Proof.Machine
end

