-- ==== Sys2Proof/Machine/Messages.lean ====
section
/-!
DEFINITION. The arrival of messages (R160 to R162, R210, R213, R290) and the commands MSG_*.
-/
namespace Sys2Proof.Machine

/-- True when this (source, class, SEQ) was accepted among the last 1,024 of its source and class (R210). -/
def seqSeen (h : Hub) (src cls seq : Nat) : Bool := h.rxSeq.any (fun e => e.1 == src && e.2.1 == cls && e.2.2 == seq)

/-- Remembers an accepted SEQ (R210). -/
def noteSeq (src cls seq : Nat) : Act := modHub (fun h =>
  let same := (src, cls, seq) :: h.rxSeq.filter (fun e => e.1 == src && e.2.1 == cls)
  { h with rxSeq := same.take 1024 ++ h.rxSeq.filter (fun e => !(e.1 == src && e.2.1 == cls)) })

/-- Kind of a message in the stale-message log (R162); the log names no number for the others, which take a free value
(log entry 20). -/
def staleKind (s : State) : MsgKind → Nat
  | .signal => 1 | .ack => 2 | .write => 3 | .readReq => 4 | .clx => 5
  | _ => Config.freeNat s.free % 256

/-- An entry of the stale-message log (R162). -/
def staleEntry (s : State) (n : Nat) (m : Msg) : List Byte :=
  let p := s.part n
  let latch := match m.kind with
    | .signal => fld m.addr 0 19
    | .ack => p.latchName (fld m.addr 0 19)
    | _ => 0
  leBytes 8 s.tim.hall.toNat ++ leBytes 2 m.srcDev.toNat ++ leBytes 1 n ++ leBytes 1 (staleKind s m.kind) ++
    leBytes 4 m.epoch.toNat ++ leBytes 4 p.run.bindingEpoch.toNat ++ leBytes 4 latch ++ leBytes 2 m.tag.toNat ++
    leBytes 2 0 ++ leBytes 4 m.bytes.toNat

/-- A stale message goes to the log and is counted for its partition (R162). -/
def staleNote (n : Nat) (m : Msg) : Act := fun s => Act.all [
  modHub (fun h => { h with
    staleLog := Tab.set [] h.staleLog (h.staleWr.toNat % 256) (staleEntry s n m), staleWr := h.staleWr + 1 }),
  fun t => [.free (t.free + 1)],
  modPart n (fun p => { p with sync := { p.sync with stale := satAdd p.sync.stale 1 } }),
  count (ctrBank n 0x27) 1] s

/-- A stale message is logged and counted, and nothing else (R161, R162). -/
def staleMsg (l : LinkId) (n : Nat) (m : Msg) : Act := Act.all [
  staleNote n m, count (ctrDie l.die 0x06) 1, fltEvent (dieLink l.die) l.link .stale (some n) 0]

/-- A message leaves its class buffer, and its credits are freed (R213). -/
def freeCredits (l : LinkId) (cls k : Nat) : Act := modLink l (fun r =>
  match cls with
  | 1 => { r with freed1 := r.freed1 + k }
  | 2 => { r with freed2 := r.freed2 + k }
  | 3 => { r with freed3 := r.freed3 + k }
  | 4 => { r with freed4 := r.freed4 + k }
  | _ => r)

/-- Size of the park buffer (R213). -/
def parkSize : Nat := 262144

/-- Bytes that a message takes in the park buffer: its flits. -/
def msgBytes (m : Msg) : Nat := 256 * flitsOf m.payload.length

/-- Bytes parked on a link die (R213). -/
def parkedOn (s : State) (die : Nat) : Nat :=
  (((List.range 24).flatMap (fun i => (s.link ⟨die, i⟩).parked)).map (fun e => msgBytes e.2)).sum

/-- Counts what arrives (R352). -/
def countArrival (s : State) (l : LinkId) (cls n : Nat) (m : Msg) : Act :=
  let o : Occ := { part := some n, master := 6, cls := some cls, addr := some m.addr.toNat }
  Act.all [
    Act.guard (m.kind == .write || m.kind == .readReply || m.kind == .atomic || m.kind == .atomicReply)
      (countF (20 + l.die) (ctrDie l.die 0x04) (ceilDiv m.payload.length 256) o),
    Act.guard (match (s.part n).obj with
      | some ob => !accessOk ob m
      | none => false) (count (ctrDie l.die 0x05) 1)]

/-- Parks a message in its link die (R213, R241): the flits that find the buffer full are discarded, and what they held never
lands (DEDUCED, log entry 55). -/
def park (l : LinkId) (cls : Nat) (m : Msg) : Act := fun s =>
  let k := flitsOf m.payload.length
  let kept := min k ((parkSize - parkedOn s l.die) / 256)
  Act.all [
    Act.guard (decide (0 < kept)) (Act.all [
      modLink l (fun r => { r with parked := r.parked ++ [(cls, { m with payload := m.payload.take (256 * kept - 32) })] }),
      count (ctrDie l.die 0x09) kept]),
    Act.guard (decide (kept < k)) (Act.all [
      linkErr l 1, count (ctrDie l.die 0x08) (k - kept), fltEvent (dieLink l.die) l.link .parkDrop (some m.dstPart.toNat) 0])] s

/-- A message of one class arrives for a partition from a link (R161, R210, R213, R241); `k` flits of it hold credits. -/
def arriveWith (k : Nat) (l : LinkId) (cls : Nat) (m : Msg) : Act := fun s =>
  let n := m.dstPart.toNat
  if seqSeen s.hub m.srcDev.toNat cls m.seq.toNat then freeCredits l cls k s
  else
    match judge s n m with
    | .stale => Act.all [noteSeq m.srcDev.toNat cls m.seq.toNat, staleMsg l n m, freeCredits l cls k] s
    | .deliver => Act.all [noteSeq m.srcDev.toNat cls m.seq.toNat, countArrival s l cls n m,
        fun s =>
          let h := (s.part n).run.held.length
          let e := accept n cls m s
          e ++ Act.guard (decide (h < ((applyAll e s).part n).run.held.length)) (count (ctrDie l.die 0x07) 1) (applyAll e s),
        freeCredits l cls k] s
    | .early => Act.all [park l cls m, freeCredits l cls k] s
    | _ => if cls = 0 then park l cls m s else modLink l (fun r => { r with blocked := r.blocked ++ [(cls, m)] }) s

/-- A message arrives from a link, its flits still holding their credits. -/
def arrive (l : LinkId) (cls : Nat) (m : Msg) : Act := arriveWith (flitsOf m.payload.length) l cls m

/-- Where a message waits: in a link die's park buffer, in a class of a link, or on the device. -/
inductive Waiting where
  | parked (l : LinkId) (cls : Nat) (m : Msg)
  | blocked (l : LinkId) (cls : Nat) (m : Msg)
  | here (n cls : Nat) (m : Msg)

/-- A message that waits need wait no longer where it is. -/
def mayLeave (s : State) (isParked : Bool) (m : Msg) : Bool :=
  match judge s m.dstPart.toNat m with
  | .deliver | .stale => true
  | .early => !isParked
  | _ => false

/-- A waiting message that can go on now: a parked one whose wait has ended, a blocked one, or the first of its class on the
device. -/
def nextWaiting (s : State) : Option Waiting :=
  (allLinks.findSome? (fun l =>
    let r := s.link l
    match r.parked.find? (fun e => mayLeave s true e.2) with
    | some e => some (.parked l e.1 e.2)
    | none => (r.blocked.find? (fun e => mayLeave s false e.2)).map (fun e => .blocked l e.1 e.2))).or
  (s.parts.findSome? (fun p => (p.2.run.localWait.find? (fun e => !noRoom s p.1 e.2 &&
    (p.2.run.localWait.find? (fun x => x.1 == e.1)).any (fun x => decide (x = e)))).map (fun e => .here p.1 e.1 e.2)))

/-- A waiting message goes on. -/
def resume : Waiting → Act
  | .parked l cls m => Act.all [modLink l (fun r => { r with parked := r.parked.erase (cls, m) }), arriveWith 0 l cls m]
  | .blocked l cls m => Act.all [modLink l (fun r => { r with blocked := r.blocked.erase (cls, m) }), arrive l cls m]
  | .here n cls m => fun s => Act.all [
      modRun n (fun r => { r with localWait := r.localWait.erase (cls, m) }),
      if judge s n m == .stale then Act.all [staleNote n m, fltEvent dieHub 5 .stale (some n) 0] else accept n cls m] s

/-- Lets waiting messages land as far as epochs, room and rows allow (R160, R161, R213, R241, R290). -/
def retryLinksFuel : Nat → Act
  | 0, _ => []
  | f + 1, s =>
    match nextWaiting s with
    | none => []
    | some w =>
      let e := resume w s
      e ++ retryLinksFuel f (applyAll e s)

def retryLinks : Act := fun s =>
  retryLinksFuel ((s.links.map (fun l => l.2.parked.length + 2 * l.2.blocked.length)).sum +
    (s.parts.map (fun p => p.2.run.localWait.length)).sum + 1) s

/-- A remote write, read or atomic (R198). -/
def remoteAccess (m : Msg) : Bool := m.kind == .write || m.kind == .readReq || m.kind == .atomic

/-- A remote access has another of its source and tag before it that came on the same link in another class (R199). -/
def behindRow (r : LinkReg) (m : Msg) : Bool := remoteAccess m &&
  (r.blocked ++ r.rxMsgs.takeWhile (fun e => decide (e.2 ≠ m))).any (fun e => remoteAccess e.2 && e.2.srcDev == m.srcDev &&
    e.2.srcPart == m.srcPart && e.2.dstPart == m.dstPart && e.2.tag == m.tag)

/-- The effect of a message row: `m` has been assembled on link `l` (R206, R207), nothing of its class waits before it,
and it is of the row's kind. Otherwise there is no such event. -/
def msgRow (kind : MsgKind) (l : LinkId) (m : Msg) : Act := fun s =>
  let r := s.link l
  match r.rxMsgs.find? (fun e => decide (e.2 = m)) with
  | none => []
  | some e =>
    if m.kind != kind || (r.rxMsgs.find? (fun x => x.1 == e.1)).map (fun x => decide (x.2 = m)) != some true ||
        (e.1 != 0 && r.blocked.any (fun b => b.1 == e.1)) || behindRow r m then []
    else Act.all [modLink l (fun r => { r with rxMsgs := r.rxMsgs.erase e }), arrive l e.1 m, retryLinks] s

def actMsg (kind : MsgKind) (l : LinkId) (m : Msg) (s : State) : Host.Outcome State Fault Refusal :=
  .next ((msgRow kind l m).run s)

/-- MSG_WRITE (R199): the bytes land and add to the landed count. -/
def execMsgWrite (l : LinkId) (m : Msg) (s : State) : Host.Outcome State Fault Refusal := actMsg .write l m s

/-- MSG_READ_REQUEST (R423): a read reply, or a refusal. -/
def execMsgReadRequest (l : LinkId) (m : Msg) (s : State) : Host.Outcome State Fault Refusal := actMsg .readReq l m s

/-- MSG_READ_REPLY (R423): the bytes land at the address kept for the request. -/
def execMsgReadReply (l : LinkId) (m : Msg) (s : State) : Host.Outcome State Fault Refusal := actMsg .readReply l m s

/-- MSG_SIGNAL (R159): applied, or held until its bytes have landed. -/
def execMsgSignal (l : LinkId) (m : Msg) (s : State) : Host.Outcome State Fault Refusal := actMsg .signal l m s

/-- MSG_ACKNOWLEDGEMENT (R158, R159): 1 is added to ACKL. -/
def execMsgAcknowledgement (l : LinkId) (m : Msg) (s : State) : Host.Outcome State Fault Refusal := actMsg .ack l m s

/-- MSG_ATOMIC (R200): applied indivisibly and answered with the old value. -/
def execMsgAtomic (l : LinkId) (m : Msg) (s : State) : Host.Outcome State Fault Refusal := actMsg .atomic l m s

/-- MSG_ATOMIC_REPLY (R200): the old value goes to the operand block. -/
def execMsgAtomicReply (l : LinkId) (m : Msg) (s : State) : Host.Outcome State Fault Refusal := actMsg .atomicReply l m s

/-- MSG_REFUSAL (R198): a WARD fault in the stream that sent the refused message. -/
def execMsgRefusal (l : LinkId) (m : Msg) (s : State) : Host.Outcome State Fault Refusal := actMsg .refusal l m s

/-- MSG_CLX (R425): a collective delivery lands. -/
def execMsgClx (l : LinkId) (m : Msg) (s : State) : Host.Outcome State Fault Refusal := actMsg .clx l m s

end Sys2Proof.Machine
end

