-- ==== Sys2Proof/Machine/Fatal.lean ====
section
/-!
DEFINITION. What fatal and degrading errors do: the deadbolt (R315, R318), the abort of a snapshot (R295), the reasons
for replacement (R319), the health record (R322) and channel sparing (R306).
-/
namespace Sys2Proof.Machine

/-! ### Snapshots -/

/-- Ends the snapshot in progress without a manifest (R295), and lets go on what has waited for room in its buffer. -/
def snapAbort (n : Nat) : Act := fun s =>
  if (s.part n).snap.state != .draining then [] else Act.all [snapEnd n, retryLinks] s

/-! ### Channels and reasons -/

/-- Free spare channels of a stack (R306, R327). -/
def freeChannels (c : Col) : List Nat :=
  (List.range' 64 4).filter (fun k => !c.retired.any (fun e => e.2 == k) && !c.chCopy.any (fun e => e.spare == k) &&
    !c.failedCh.contains k)

/-- A spare takes the list position of a channel, which is retired (R179, R306). A spare that served one before is out of service. -/
def Col.retire (ch spare : Nat) (c : Col) : Col := { c with
  chCopy := c.chCopy.filter (fun e => e.ch != ch)
  retired := if c.retired.any (fun e => e.2 == ch) then c.retired.map (fun e => if e.2 == ch then (e.1, spare) else e)
    else c.retired ++ [(ch, spare)]
  failedCh := if 64 ≤ ch then c.failedCh ++ [ch] else c.failedCh }

/-- The health record is rewritten at each change of fences, retirements, failed marks and `HUB_REPL` (R322). Its bytes
have no given layout; the model keeps its content in the fields themselves (log entry 46). -/
def healthWrite : Act := modHub (fun h => { h with healthSeq := h.healthSeq + 1 })

/-- The conditions of R319 that hold now, by bit. CE (bit 2) and WEAR (bit 0) are set where they are found. -/
def replNow (s : State) : List Nat :=
  let cols := (List.range 20).map s.col
  let on (i : Nat) (b : Bool) : List Nat := if b then [i] else []
  on 8 (allLinks.any (fun l => (s.link l).state == linkFailed)) ++
  on 7 (cols.any (·.failed)) ++
  on 6 (cols.any (fun c => c.qfail != 0)) ++
  on 5 ((List.range 20).any (fun c => decide (freeSpares s c < s.hub.cellMin.toNat))) ++
  on 4 (cols.any (fun c => decide ((freeChannels c).length < s.hub.chMin.toNat))) ++
  on 3 (cols.any (fun c => c.rowsUsed.any (fun e => decide (64 ≤ e.2)))) ++
  on 1 (decide (s.hub.laneMax.toNat < (allLinks.filter (fun l => (s.link l).spareIn)).length))

/-- Sets the reasons of R319 that now hold, and rewrites the health record when one is new. -/
def checkRepl : Act := fun s =>
  let new := (replNow s).filter (fun i => !bit s.hub.repl i)
  Act.all [Act.each new replReason, Act.guard (!new.isEmpty) healthWrite] s

/-- A change of fences, retirements or failed marks (R319, R322). -/
def healthChange : Act := Act.all [healthWrite, checkRepl]

/-- A channel that degrades begins to be copied to a free spare of its stack, or stays in service and sets the CHAN
reason (R306). -/
def spareChannel (c ch : Nat) : Act := fun s =>
  let x := s.col c
  if (x.position ch).isNone || x.chCopy.any (fun e => e.ch == ch) then [] else
  match (freeChannels x).head? with
  | some k => Act.all [modCol c (fun x => { x with chCopy := x.chCopy ++ [{ ch := ch, spare := k, clean := [] }] }), checkRepl] s
  | none => Act.all [replReason 4, healthWrite] s

/-! ### The deadbolt -/

/-- Keys, key pair, message and weight entries are erased (R344, R346, R347). A message that runs ends with NOKEY; an INSTALL in
progress goes on to its check of the partition's state. -/
def eraseKeys (n : Nat) : Act := fun s => Act.all [
  modPart n (fun p => { p with key := { p.key with
    slots := [], slotWard := [], ecdh := none, msg := none, decBusy := false, count := 0, weights := [],
    decResult := if p.key.msg.isSome then 2 else p.key.decResult } }),
  Act.guard (s.part n).key.msg.isSome (irqPart n 3)] s

/-- Sends the third copies of hold symbols at once (R315). -/
def thirdHolds (l : LinkId) : Act := fun s =>
  let isHold (b : SymBody) : Bool := match b with
    | .hold _ => true
    | _ => false
  let hs := (s.link l).third.filter (fun e => isHold e.1)
  modLink l (fun r => { r with
    sym := r.sym ++ hs.map (fun e => { body := e.1, left := 0, copies := 1 }),
    third := r.third.filter (fun e => !isHold e.1) }) s

/-- A fatal error (R307, R315): FLT, `HUB_DEADBOLT`, every partition frozen, a hold with no release on every active
domain, `ALERT_N`. A further one before the reset adds its FLT event only. -/
def deadboltAct (cause die unit : BitVec 8) : Act := fun s =>
  if s.hub.stopped then [] else
  if s.hub.deadboltPending then fltEvent die.toNat unit.toNat .deadbolt none 3 s else
  Act.all [
    fltEvent die.toNat unit.toNat .deadbolt none 3,
    modHub (fun h => { h with
      dbCount := satAdd h.dbCount 1, dbCause := cause, dbDie := die, dbUnit := unit,
      deadboltPending := true, deadboltAt := s.tim.hall }),
    Act.each allParts raiseHold,
    Act.each allParts eraseKeys,
    alert 0,
    Act.each allParts snapAbort,
    fun s => Act.each (upLinks s) thirdHolds s] s

/-- An uncorrectable block is marked (R181, R305): POISON, the count, and its row for retirement. -/
def poisonBlock (c ch row addr : Nat) : Act := modCol c (fun x => { x with
  eccUe := satAdd x.eccUe 1, poison := if x.poison.contains addr then x.poison else x.poison ++ [addr],
  pendingRows := if x.pendingRows.contains (ch, row) then x.pendingRows else x.pendingRows ++ [(ch, row)] })

/-- DEADBOLT (R307, R315). An uncorrectable block that a read found is marked first, and the health record takes its row in (R181,
R305). -/
def execDeadbolt (cause die : BitVec 8) (site : FatalSite) (s : State) : Host.Outcome State Fault Refusal :=
  .next ((Act.all [
    (match site.block with
      | some b => Act.when (fun s => cause == 1 && !s.hub.stopped && !s.hub.deadboltPending)
          (Act.all [poisonBlock die.toNat b.ch b.row b.addr, healthWrite])
      | none => Act.skip),
    deadboltAct cause die site.unit]).run s)

/-- FIRMWARE_WATCHDOG_EXPIRY (R307): fatal, cause 0x06 (R318). -/
def execFirmwareWatchdogExpiry (s : State) : Host.Outcome State Fault Refusal :=
  .next ((deadboltAct 0x06 0x80 0).run s)

end Sys2Proof.Machine
end

