-- ==== Sys2Proof/Machine/Context.lean ====
section
/-!
DEFINITION. The state records of R172, the context image of R170 and R288, and its restoring. Records of types 0x80 and
above carry what R170, R116, R196, R228, R257 and R289 put into the context and R172 gives no record for (DESIGN CHOICE,
log entry 37).
-/
namespace Sys2Proof.Machine

/-- One record (R172): type, partition, number, 24 bytes. -/
def rec32 (ty part num : Nat) (body : List Byte) : List Byte :=
  leBytes 1 ty ++ leBytes 1 part ++ [0, 0] ++ leBytes 4 num ++ slice body 0 24

/-- The number that a latch, hasp or queue carries in an image: physical (R170, R172), or logical at a snapshot
(R288). -/
def latchNum (p : Part) (own : Option Nat) (l : Nat) : Nat := if own.isSome then p.latchName l else l
def haspNum (p : Part) (own : Option Nat) (h : Nat) : Nat := if own.isSome then p.haspName h % nameSpan else h
def queueNum (p : Part) (own : Option Nat) (q : Nat) : Nat := match own with
  | none => q
  | some i => match p.bind.clxNames.find? (fun e => e.1 == i && e.2.2 == q) with
    | some e => e.2.1
    | none => ((p.bind.queues.find? (fun e => e.2 == q)).map (·.1)).getD 0

/-- A name of the hosted rank that an image is of; every name where it is of none. -/
def ofRank (own : Option Nat) (key : Nat) : Bool := match own with
  | some i => key / nameSpan == i
  | none => true

/-- Latches (type 0x01). -/
def latchRecs (s : State) (n : Nat) (own : Option Nat) : List (List Byte) :=
  let p := s.part n
  (p.bind.latches.filter (fun e => ofRank own e.1)).map (fun e =>
    let pair := p.run.pairs.find? (fun x => x.1 == e.2 || x.2.1 == e.2)
    let partner := match pair with
      | some x => if x.1 == e.2 then 2 ^ 31 + latchNum p own x.2.1 else latchNum p own x.1
      | none => 0
    rec32 1 n (latchNum p own e.2) (leBytes 8 (s.latch e.2).toNat ++ leBytes 4 (e.1 % nameSpan) ++ leBytes 4 partner ++
      leBytes 2 ((pair.map (·.2.2)).getD 0)))

/-- Hasps (type 0x02), and their release latches (type 0x88). -/
def haspRecs (s : State) (n : Nat) (own : Option Nat) : List (List Byte) :=
  let p := s.part n
  (p.bind.hasps.filter (fun e => ofRank own e.1)).flatMap (fun e =>
    let h := s.hasp e.2
    [rec32 2 n (haspNum p own e.2) (leBytes 4 h.gen.toNat ++ leBytes 1 h.kind.toNat ++ leBytes 1 h.nslot ++ [0, 0] ++
       leBytes 8 h.mask0.toNat ++ leBytes 8 h.mask1.toNat),
     rec32 0x88 n (haspNum p own e.2) (leBytes 4 (latchNum p own h.rlatch) ++ leBytes 1 (b2n h.configured))])

/-- Queues (type 0x03). -/
def queueRecs (s : State) (n : Nat) (own : Option Nat) (qs : List Nat) : List (List Byte) :=
  let p := s.part n
  qs.map (fun k =>
    let q := s.queue k
    rec32 3 n (queueNum p own k) (leBytes 4 q.head.toNat ++ leBytes 4 q.tail.toNat ++ leBytes 1 q.wait.toNat ++
      leBytes 1 q.kind.toNat ++ leBytes 1 q.lqtr.toNat ++ leBytes 1 (b2n q.res) ++ leBytes 8 q.wpsc.toNat))

/-- Held signals (types 0x04 and, right after it, 0x87) and tag entries (type 0x05). A partition keeps its tag entries for all its
ranks, so the image of each carries them (log entry 37). -/
def signalRecs (s : State) (n : Nat) (own : Option Nat) : List (List Byte) :=
  let r := (s.part n).run
  let rankOf (h : HeldSig) : Nat := match (s.part n).obj with
    | some o => ownOf o s.hub.devno.toNat n h.msg.dstOwn.toNat
    | none => 0
  (r.held.filter (fun h => own.isNone || own == some (rankOf h))).zipIdx.flatMap (fun e =>
    [rec32 4 n e.2 (leBytes 2 e.1.src.toNat ++ leBytes 2 e.1.tag.toNat ++ leBytes 4 e.1.msg.bytes.toNat ++
       leBytes 4 (fld e.1.msg.addr 0 19) ++ leBytes 4 e.1.msg.epoch.toNat ++ leBytes 8 e.1.arrived.toNat),
     rec32 0x87 n e.2 (leBytes 8 e.1.msg.addr.toNat ++ leBytes 4 e.1.msg.arg.toNat ++ leBytes 1 e.1.cls ++
       leBytes 1 (b2n e.1.dead) ++ leBytes 1 (e.1.msg.srcPart.toNat + 32 * e.1.msg.srcOwn.toNat) ++
       leBytes 1 (e.1.msg.dstPart.toNat + 32 * e.1.msg.dstOwn.toNat) ++ leBytes 2 e.1.msg.dstDev.toNat)]) ++
  r.tags.map (fun t => rec32 5 n 0 (leBytes 2 t.src.toNat ++ leBytes 2 t.tag.toNat ++ leBytes 4 0 ++
    leBytes 8 t.landed ++ leBytes 8 t.consumed))

/-- A block of bytes as records of 16 bytes each: slot number and position first. -/
def blockRecs (ty n num slot : Nat) (bs : List Byte) : List (List Byte) :=
  (chunks 16 bs).zipIdx.map (fun c => rec32 ty n num (leBytes 4 slot ++ leBytes 4 c.2 ++ c.1))

/-- The number of a descriptor slot in an image: with the hosted rank's index where the image is of the whole partition, the slot alone
in the image of one rank (R247). -/
def descNum (own : Option Nat) (k : Nat) : Nat := if own.isSome then k % 256 else k

/-- Streams (type 0x07), with mask registers (0x80), transfer state (0x81), descriptor slots (0x83), rule slots (0x84),
combine slots (0x85) and borrow state (0x86). A snapshot writes every stream epoch as 0 (R288). -/
def streamRecs (s : State) (n : Nat) (own : Option Nat) (qs : List Nat) : List (List Byte) :=
  let p := s.part n
  (p.run.streams.filter (fun t => qs.contains t.queue)).flatMap (fun t =>
    let k := queueNum p own t.queue
    [rec32 7 n k (leBytes 4 (s.queue t.queue).head.toNat ++ leBytes 4 (if own.isSome then 0 else t.epoch.toNat) ++
       leBytes 4 t.ctr0.toNat ++ leBytes 4 t.ctr1.toNat ++ leBytes 4 t.ctr2.toNat ++ leBytes 4 t.ctr3.toNat),
     rec32 0x80 n k (leBytes 4 t.maskWindow.toNat ++ leBytes 4 t.maskMode.toNat ++ leBytes 4 t.maskQ.toNat ++
       leBytes 4 t.maskK.toNat),
     rec32 0x81 n k (leBytes 2 t.ltag.toNat ++ leBytes 2 t.lcls.toNat ++ leBytes 4 t.llen.toNat ++
       leBytes 2 t.collSeq.toNat ++ leBytes 2 (b2n t.halted)),
     rec32 0x86 n k (leBytes 1 t.bmask.toNat ++ leBytes 1 t.bsel.toNat)] ++
    (t.descs.filter (fun d => own.isNone || own == some (d.1 / 256))).flatMap (fun d => blockRecs 0x83 n k (descNum own d.1) d.2) ++
    t.rules.flatMap (fun d => blockRecs 0x84 n k d.1 d.2) ++
    t.combs.flatMap (fun d => blockRecs 0x85 n k d.1 d.2))

/-- Binding epoch, epoch base and the next request identifier (type 0x82). -/
def epochRec (s : State) (n : Nat) (own : Option Nat) : List Byte :=
  let r := (s.part n).run
  rec32 0x82 n 0 (leBytes 4 (if own.isSome then 0 else r.bindingEpoch.toNat) ++ leBytes 4 r.epochBase.toNat ++
    leBytes 2 r.nextReq.toNat)

/-- The records of the dump (R171, R172). -/
def dumpRecs (s : State) (n : Nat) : List (List Byte) :=
  let qs := (s.part n).bind.queues.map (·.2)
  latchRecs s n none ++ haspRecs s n none ++ queueRecs s n none qs ++ signalRecs s n none ++ streamRecs s n none qs

/-- Header and records (R172). -/
def recImage (s : State) (mask : Nat) (recs : List (List Byte)) : List Byte :=
  [0x53, 0x59, 0x4E, 0x44] ++ leBytes 2 1 ++ leBytes 2 0 ++ leBytes 8 s.tim.hall.toNat ++ leBytes 4 recs.length ++
    leBytes 4 mask ++ List.replicate 40 0 ++ recs.flatten

/-- Index of a lane of a vector register in the store. -/
def vregIdx (q r lane : Nat) : Nat := (q * 32 + r) * 512 + lane

/-- Bytes of a slice's state: registers in order, lanes ascending, then job seed, step counter, four zero bytes and the
16 stream seeds (DESIGN CHOICE, log entry 37). -/
def sliceState (s : State) (q : Nat) : List Byte :=
  let g := s.gen q
  (List.range (32 * 512)).flatMap (fun i => leBytes 8 (Tab.get 0 s.store.vreg (vregIdx q 0 i)).toNat) ++
    leBytes 8 g.job.toNat ++ leBytes 4 g.step.toNat ++ leBytes 4 0 ++
    (List.range 16).flatMap (fun i => leBytes 8 ((g.seeds[i]?).getD 0).toNat)

def sliceBytes : Nat := 32 * 512 * 8 + 144

/-- Queues of the streams that serve hosted rank `own`, as the CLX streams do every one (R247); those of every stream where it is
none. -/
def queuesOf (p : Part) (own : Option Nat) : List Nat := match own with
  | none => p.bind.queues.map (·.2)
  | some i => (p.run.streams.filter (fun t => t.sid.own == i || t.sid.kind == .clx)).map (·.queue)

/-- Physical quarters of hosted rank `own`, or all in order of OWN. -/
def slicesOf (p : Part) (own : Option Nat) : List Nat := match own, p.obj with
  | none, _ => p.bind.quarters
  | some i, some o => (p.bind.quarters.drop (i * o.quarters)).take o.quarters
  | some _, none => []

/-- The context image of partition `n` (R170); at a snapshot, with logical numbers and epochs 0, of the streams and
slices of one hosted rank (R288; DEDUCED, log entry 37: R301 moves ranks between partitions). -/
def contextImage (s : State) (n : Nat) (own : Option Nat) : List Byte :=
  let p := s.part n
  let qs := queuesOf p own
  recImage s (2 ^ n) (latchRecs s n own ++ haspRecs s n own ++ queueRecs s n own qs ++ signalRecs s n own ++
    streamRecs s n own qs ++ [epochRec s n own]) ++
  (slicesOf p own).flatMap (sliceState s)

/-! ### Restoring -/

/-- The physical number that a record's number means here; nothing for one that the load did not bind. -/
def latchIn (p : Part) (own : Option Nat) (k : Nat) : Option Nat :=
  match own with
  | some i => p.latchOf i k
  | none => if p.hasLatch k then some k else none
def haspIn (p : Part) (own : Option Nat) (k : Nat) : Option Nat :=
  match own with
  | some i => p.haspOf (nameKey i k)
  | none => if p.hasHasp k then some k else none
def queueIn (p : Part) (own : Option Nat) (k : Nat) : Option Nat :=
  match own with
  | some i => ((p.bind.clxNames.find? (fun e => e.1 == i && e.2.1 == k)).map (·.2.2)).or
      ((p.bind.queues.find? (fun e => e.1 == k)).map (·.2))
  | none => if p.bind.queues.any (fun e => e.2 == k) then some k else none

/-- Updates the stream of queue `q`. -/
def modStreamOf (n q : Nat) (f : Stream → Stream) : Act := modRun n (fun r => { r with
  streams := r.streams.map (fun t => if t.queue == q then f t else t) })

/-- Puts 16 bytes into a block held in a slot. -/
def putBlock (t : Tab (List Byte)) (slot pos : Nat) (bs : List Byte) : Tab (List Byte) :=
  let old := Tab.get [] t slot
  Tab.set [] t slot (slice old 0 (16 * pos) ++ bs ++ old.drop (16 * pos + 16))

/-- A held signal of a snapshot's image is for the rank where it is placed now (R299). -/
def here (p : Part) (n : Nat) (own : Option Nat) (dev : BitVec 16) (m : Msg) : Msg :=
  match own, p.obj with
  | some i, some o => { m with
      dstDev := dev, dstPart := BitVec.ofNat 5 n,
      dstOwn := BitVec.ofNat 3 ((ranksAt o dev.toNat n).idxOf ((o.own[i]?).getD 0)) }
  | _, _ => m

/-- What one record of an image sets on the device `dev`; nothing for a record of no known type or of an object not bound. -/
def applyRec (p : Part) (n : Nat) (dev : BitVec 16) (own : Option Nat) (r : List Byte) : Option Act :=
  let num := leAt r 4 4
  let u (off k : Nat) : Nat := leAt r (8 + off) k
  match leAt r 0 1 with
  | 0x01 => if u 16 2 != 0 && (latchIn p own (u 12 4 % 2 ^ 31)).isNone then none else (latchIn p own num).map (fun l =>
      Act.all [setLatch l (BitVec.ofNat 64 (u 0 8)),
        match latchIn p own (u 12 4 % 2 ^ 31) with
        | some x => Act.guard (u 16 2 != 0 && 2 ^ 31 ≤ u 12 4)
            (modRun n (fun run => { run with pairs := bindPair run.pairs l x (u 16 2) }))
        | none => Act.skip])
  | 0x02 => (haspIn p own num).map (fun h => modHasp h (fun x => { x with
      gen := BitVec.ofNat 32 (u 0 4), kind := BitVec.ofNat 2 (u 4 1), nslot := u 5 1, mask0 := BitVec.ofNat 64 (u 8 8),
      mask1 := BitVec.ofNat 64 (u 16 8), fullAt := none, child0 := [], child1 := [], sentUp := false, known0 := [],
      known1 := [] }))
  | 0x88 => if u 4 1 == 1 && (latchIn p own (u 0 4)).isNone then none else (haspIn p own num).map (fun h => modHasp h (fun x => { x with
      rlatch := (latchIn p own (u 0 4)).getD 0, configured := u 4 1 == 1 }))
  | 0x03 => (queueIn p own num).map (fun q => modQueue q (fun x => { x with
      head := BitVec.ofNat 32 (u 0 4), tail := BitVec.ofNat 32 (u 4 4), res := u 11 1 == 1 }))
  | 0x04 => some (modRun n (fun run => { run with held := run.held ++ [{
      src := BitVec.ofNat 16 (u 0 2), tag := BitVec.ofNat 16 (u 2 2), cls := 2, arrived := BitVec.ofNat 64 (u 16 8),
      dead := false, msg := { (default : Msg) with
        srcDev := BitVec.ofNat 16 (u 0 2), tag := BitVec.ofNat 16 (u 2 2), kind := .signal,
        bytes := BitVec.ofNat 32 (u 4 4), addr := BitVec.ofNat 64 (u 8 4), epoch := BitVec.ofNat 32 (u 12 4) } }] }))
  | 0x87 => some (modRun n (fun run => { run with held := run.held.zipIdx.map (fun e =>
      if e.2 + 1 == run.held.length then { e.1 with
        cls := u 12 1, dead := u 13 1 == 1, msg := here p n own dev { e.1.msg with
          addr := BitVec.ofNat 64 (u 0 8), arg := BitVec.ofNat 32 (u 8 4), srcPart := BitVec.ofNat 5 (u 14 1),
          srcOwn := BitVec.ofNat 3 (u 14 1 / 32), dstPart := BitVec.ofNat 5 (u 15 1),
          dstOwn := BitVec.ofNat 3 (u 15 1 / 32), dstDev := BitVec.ofNat 16 (u 16 2) } }
      else e.1) }))
  | 0x05 =>
    let t : TagEntry := { src := BitVec.ofNat 16 (u 0 2), tag := BitVec.ofNat 16 (u 2 2), landed := u 8 8, consumed := u 16 8 }
    some (modRun n (fun run => { run with
      tags := run.tags.filter (fun e => !(e.src == t.src && e.tag == t.tag)) ++ [t] }))
  | 0x07 => (queueIn p own num).map (fun q => Act.all [
      modQueue q (fun x => { x with head := BitVec.ofNat 32 (u 0 4) }),
      modStreamOf n q (fun t => { t with
        epoch := BitVec.ofNat 32 (u 4 4), ctr0 := BitVec.ofNat 32 (u 8 4), ctr1 := BitVec.ofNat 32 (u 12 4),
        ctr2 := BitVec.ofNat 32 (u 16 4), ctr3 := BitVec.ofNat 32 (u 20 4) })])
  | 0x80 => (queueIn p own num).map (fun q => modStreamOf n q (fun t => { t with
      maskWindow := BitVec.ofNat 32 (u 0 4), maskMode := BitVec.ofNat 2 (u 4 4), maskQ := BitVec.ofNat 32 (u 8 4),
      maskK := BitVec.ofNat 32 (u 12 4) }))
  | 0x81 => (queueIn p own num).map (fun q => Act.all [
      modStreamOf n q (fun t => { t with
        ltag := BitVec.ofNat 16 (u 0 2), lcls := BitVec.ofNat 2 (u 2 2), llen := BitVec.ofNat 24 (u 4 4),
        collSeq := BitVec.ofNat 16 (u 8 2), halted := u 10 2 == 1 }),
      Act.each (p.run.streams.filter (fun t => t.queue == q && t.sid.kind == .clx)) (fun t =>
        modClx (t.sid.unit * 32 + n) (fun x => { x with seq := BitVec.ofNat 16 (u 8 2) }))])
  | 0x86 => (queueIn p own num).map (fun q => modStreamOf n q (fun t => { t with
      bmask := BitVec.ofNat 4 (u 0 1), bsel := BitVec.ofNat 2 (u 1 1) }))
  | 0x83 => (queueIn p own num).map (fun q => modStreamOf n q (fun t => { t with
      descs := putBlock t.descs (own.getD 0 * 256 + u 0 4) (u 4 4) (slice r 16 16) }))
  | 0x84 => (queueIn p own num).map (fun q => modStreamOf n q (fun t => { t with
      rules := putBlock t.rules (u 0 4) (u 4 4) (slice r 16 16) }))
  | 0x85 => (queueIn p own num).map (fun q => modStreamOf n q (fun t => { t with
      combs := putBlock t.combs (u 0 4) (u 4 4) (slice r 16 16) }))
  | 0x82 => some (modRun n (fun run => { run with
      bindingEpoch := BitVec.ofNat 32 (u 0 4), epochBase := BitVec.ofNat 32 (u 4 4), nextReq := BitVec.ofNat 16 (u 8 2) }))
  | _ => none

/-- Restores a slice's registers and generator state. -/
def applySlice (q : Nat) (bs : List Byte) : Act :=
  let regs := (List.range (32 * 512)).map (fun i => BitVec.ofNat 64 (leAt bs (8 * i) 8))
  let g := bs.drop (32 * 512 * 8)
  Act.all [fun _ => [.vreg (vregIdx q 0 0) regs],
    setGen q { job := BitVec.ofNat 64 (leAt g 0 8), step := BitVec.ofNat 32 (leAt g 8 4),
               seeds := (List.range 16).map (fun i => BitVec.ofNat 64 (leAt g (16 + 8 * i) 8)) }]

/-- The state into which a context image is read: what an image lists replaces what load set up (R170). -/
def clearContext (n : Nat) : Act := modRun n (fun r => { r with pairs := [], held := [], tags := [] })

/-- Length of an image whose header lies in `bs`, for a partition with `k` slices. -/
def contextLen (bs : List Byte) (k : Nat) : Nat := 64 + 32 * leAt bs 16 4 + k * sliceBytes

/-- The records of an image, if its header is right. -/
def contextRecs (bs : List Byte) : Option (List (List Byte)) :=
  if bs.take 4 != [0x53, 0x59, 0x4E, 0x44] || leAt bs 4 2 != 1 then none
  else some (chunks 32 (slice bs 64 (32 * leAt bs 16 4)))

/-- Puts back the slices that follow the records. -/
def applySlices (qs : List Nat) (bs : List Byte) : Act :=
  let at? := 64 + 32 * leAt bs 16 4
  Act.all (qs.zipIdx.map (fun e => applySlice e.1 (slice bs (at? + e.2 * sliceBytes) sliceBytes)))

/-- Restores a saved context: nothing where its format is wrong or it names a latch, hasp or queue that this load did
not bind (R170). -/
def applyContext (s : State) (n : Nat) (bs : List Byte) : Option Act :=
  match contextRecs bs with
  | none => none
  | some recs =>
    let acts := recs.map (applyRec (s.part n) n s.hub.devno none)
    if acts.any (·.isNone) then none
    else some (Act.all [clearContext n, Act.all (acts.filterMap id), applySlices (slicesOf (s.part n) none) bs])

/-- Applies the context of one hosted rank from a snapshot (R299). The number of an object that this load does not bind
names nothing here (DEDUCED, log entry 37). -/
def applySnapContext (s : State) (n own : Nat) (bs : List Byte) : Act :=
  Act.all [Act.all (((contextRecs bs).getD []).filterMap (applyRec (s.part n) n s.hub.devno (some own))),
    applySlices (slicesOf (s.part n) (some own)) bs]

end Sys2Proof.Machine
end

