-- ==== Sys2Proof/Machine/Strike.lean ====
section
/-!
DEFINITION. What the device does at a leader's epoch strike (R85): snapshots (R287, R288), keyway moves (R190), channel
switches (R306), record windows (R277), the end of a replay (R282), and the messages that were ahead (R161).
-/
namespace Sys2Proof.Machine

/-- True for a marker, or an EPOCH that acts as one (R85). -/
def isMarker (sid : StreamId) (w : InsnWord) : Bool := opc w == 0x02 && !isLeader sid

/-- The partition is quiescent (R287): every other stream waits at its marker or has halted, and every operation has
reached its visibility point. -/
def quiescent (s : State) (n : Nat) (leader : StreamId) : Bool :=
  let r := (s.part n).run
  r.ops.isEmpty && r.streams.all (fun t => t.sid == leader || t.halted ||
    (match (s.queue t.queue).headWord s with
     | some w => isMarker t.sid w && t.epoch == r.bindingEpoch
     | none => false))

/-! ### Images (R293) -/

/-- CKPT segments of an object: index and entry. -/
def ckptSegs (o : Obj) : List (Nat × Seg) := (o.segs.zipIdx.filter (fun e => bit e.1.flags 0)).map (fun e => (e.2, e.1))

/-- Bytes of the CKPT segments of a rank. -/
def ckptBytes (o : Obj) : Nat := ((ckptSegs o).map (·.2.size)).sum

/-- `ISIZE` in bytes (R293). -/
def imageSize (o : Obj) : Nat := roundUp (0x40000 + ckptBytes o + 64 * mib) pageSize

/-- Offset in the image of the context. -/
def contextOff (o : Obj) : Nat := 0x40000 + ckptBytes o

/-- Offset in the image of segment `i`, and of a page of the rank's space. -/
def segOff (o : Obj) (i : Nat) : Nat := 0x40000 + (((ckptSegs o).filter (fun e => e.1 < i)).map (·.2.size)).sum
def pageOff (o : Obj) (page : Nat) : Nat := match findSeg o.segs 0 (page * pageSize) with
  | some (i, _, off) => segOff o i + off
  | none => 0

/-- Writes bytes of an image to its destination (R292): the host window, or a peer rank by class 3 writes. -/
def imageWrite (n own off : Nat) (bs : List Byte) : Act := fun s =>
  let p := s.part n
  match p.obj with
  | none => []
  | some o =>
    let a := p.snap.daddr.toNat + own * imageSize o + off
    if p.snap.dest then
      Act.each (msgParts 3 bs.length) (fun k =>
        postTo (deliver n) n own p.snap.peer.toNat (some (hardware n, 0, 0)) .write 3 0 0 (a + k.1) k.2 0 (slice bs k.1 k.2)) s
    else storeAt a bs s

/-- True where the destination of an image cannot take it: the host window does not cover it, or no way leads to the
peer. -/
def imageLost (s : State) (n own off len : Nat) : Bool :=
  let p := s.part n
  match p.obj with
  | none => true
  | some o =>
    let a := localOf s (p.snap.daddr.toNat + own * imageSize o + off)
    if p.snap.dest then !canReach s n p.snap.peer.toNat
    else !((place s a matches .host _) && (place s (a + len - 1) matches .host _))

/-- Pages of the CKPT segments, in order of rank and page (R288, R291). -/
def ckptPages (o : Obj) : List (Nat × Nat) :=
  (List.range o.own.length).flatMap (fun own => o.segs.zipIdx.flatMap (fun g =>
    if bit g.1.flags 0 then (List.range (g.1.size / pageSize)).map (fun j => (own, segBase o.segs g.2 / pageSize + j))
    else []))

/-! ### What the drain reads (R292) -/

/-- The page that a column drains next: a buffered copy, oldest first, or the lowest page still marked. The flag says
that it is buffered. -/
def nextDrain (p : Part) (col : Nat) : Option (Nat × Nat × Bool) :=
  match p.snap.pages.find? (fun b => b.col == col) with
  | some b => some (b.own, b.page, true)
  | none => (p.snap.marked.find? (fun m => (p.page m.1 m.2).any (fun g => p.pageCol m.1 g == col))).map (fun m => (m.1, m.2, false))

/-- The 2 MiB of a page as it drains. -/
def drainBytes (s : State) (n own page : Nat) (buffered : Bool) : List Byte :=
  let p := s.part n
  if buffered then
    match p.snap.pages.find? (fun b => b.own == own && b.page == page) with
    | some b => Mem.readN b.bytes 0 pageSize
    | none => []
  else match p.page own page with
    | some g => Mem.readN (pageCells s (g.frame * pageSize)) 0 pageSize
    | none => []

/-- A column that reads no page takes its next one (R292): the mark of a page that it reads from its home clears, and what goes to a
peer leaves. -/
def startRead (n col : Nat) : Act := fun s =>
  let p := s.part n
  if p.snap.reading.any (fun r => r.1 == col) then [] else
  match p.obj, nextDrain p col with
  | some o, some (own, page, buffered) => Act.all [
      modPart n (fun p => { p with
        snap := { p.snap with
          reading := p.snap.reading ++ [(col, own, page, buffered)], marked := p.snap.marked.erase (own, page) },
        run := { p.run with pages := p.run.pages.map (fun e =>
          if !buffered && e.1 == pageKey own page then (e.1, { e.2 with cow := false }) else e) } }),
      Act.guard p.snap.dest (imageWrite n own (pageOff o page) (drainBytes s n own page buffered))] s
  | _, _ => []

/-- Every column of a draining snapshot reads a page while it has one. -/
def startReads (n : Nat) : Act := Act.when (fun s => (s.part n).snap.state == .draining) (Act.each (List.range 20) (startRead n))

/-! ### The strike (R288) -/

/-- At a snapshot strike, a stream that waits at the marker of the new epoch is captured beyond it, since the epoch the
restored streams begin in is the snapshot epoch (R299; DEDUCED, log entry 39). -/
def passMarkers (s : State) (n : Nat) : State :=
  (s.part n).run.streams.foldl (fun t x =>
    match (t.queue x.queue).headWord t with
    | some w => if !x.halted && isMarker x.sid w then
        Act.run (modQueue x.queue (fun q => { q with head := q.head + 1 })) t else t
    | none => t) s

/-- What the strike captures of one hosted rank (R288). -/
def captureRank (s : State) (n own : Nat) : SnapRank :=
  let p := s.part n
  let g := match p.quarter own 0 with
    | some q => s.gen q
    | none => {}
  { own := own, context := contextImage (passMarkers s n) n (some own), step := g.step, jobSeed := g.job,
    seeds := (List.range 16).map (fun i => (g.seeds[i]?).getD 0), digests := [] }

/-- The snapshot strike (R288): COW marks, captured contexts and generator states. The capture counts as a
snapshot-buffer stall; its duration is not given (log entry 41). A snapshot after a mismatch that a comparison has found ends at
once (R310). -/
def snapStrike (n : Nat) : Act := fun s =>
  let p := s.part n
  match p.obj with
  | none => []
  | some o =>
    let marks := ckptPages o
    let ranks := (List.range o.own.length).map (captureRank s n)
    Act.all [
      modPart n (fun p => { p with
        snap := { p.snap with
          state := .draining, arm := false, pages := [], ranks := ranks, marked := marks, reading := [], ctxSent := false,
          strikeHall := s.tim.hall, strikePsc := (s.dom n).psc, strikeEpoch := BitVec.ofNat 32 (p.run.jobEpoch p.run.bindingEpoch),
          strikeFlags := pack 32 [(0, b2n s.hub.debugMode), (1, b2n p.recd.replay), (2, b2n p.recd.win)],
          stalls := satAdd p.snap.stalls 1 },
        run := { p.run with pages := p.run.pages.map (fun e =>
          if marks.any (fun m => pageKey m.1 m.2 == e.1) then (e.1, { e.2 with cow := true }) else e) } }),
      modPart n (fun p => { p with snap := { p.snap with
        bufmax := BitVec.ofNat 32 ((List.range 20).foldl (fun m c => max m (contextPages p c)) p.snap.bufmax.toNat) } }),
      if p.snap.tainted then snapEnd n else startReads n] s

/-- A record window is open in an epoch (R277). -/
def windowOpen (r : RecReg) (e : BitVec 32) : Bool :=
  r.winFirst.toNat ≤ r.winLast.toNat && r.winFirst.toNat ≤ e.toNat && e.toNat ≤ r.winLast.toNat

/-- Record windows at a leader strike (R277): written bounds take effect, and the window opens or closes. -/
def windowStrike (n : Nat) (e : BitVec 32) : Act := modPart n (fun p =>
  let r := { p.recd with winFirst := p.recd.winFirstNext, winLast := p.recd.winLastNext }
  { p with recd := { r with win := r.fp && windowOpen r e } })

/-- The end of a replay window (R282): every stream stops, and when the operations in flight have ended the domain is held. -/
def replayEnd (n : Nat) : Act := Act.all [
  stopStreams n, modPart n (fun p => { p with recd := { p.recd with ending := true } }), replayDone n]

/-- A channel copy is clean: every page is copied, and none has been written since (R306). -/
def cleanCopy (s : State) (c : Nat) (e : ChanCopy) : Bool :=
  (List.range (chanPages s)).all (e.clean.contains ·) &&
    !s.parts.any (fun p => p.2.run.chDirty.any (fun d => d.1 == c && (s.col c).position e.ch == some d.2.1))

/-- The partitions that have bound quarters of a column. -/
def partsOn (s : State) (c : Nat) : List Nat := allParts.filter (fun n => (s.part n).bind.quarters.any (fun q => q / 4 == c))

/-- Channel copies of a column that are clean switch to their spares (R306): the channels are retired, which the health record
takes in (R322), and the keyway thinks again about the homes of what lies there (R190). -/
def switchChannels (c : Nat) : Act := fun s =>
  let ready := (s.col c).chCopy.filter (cleanCopy s c)
  if ready.isEmpty then [] else Act.all [
    Act.each ready (fun e => modCol c (Col.retire e.ch e.spare)),
    Act.each ready (fun e => fltEvent c (0x40 + e.ch) .channelRetired none 1),
    healthChange,
    Act.each (partsOn s c) reconsider] s

/-- Physical columns of a partition. -/
def partCols (p : Part) : List Nat := ((p.bind.quarters.map (· / 4)).eraseDups)

/-- The strike of the partition's leader (R85): the new binding epoch and origin, and what waits for it. -/
def epochStrike (n : Nat) (strike : BitVec 64) : Act := fun s =>
  let e := (s.part n).run.bindingEpoch + 1
  let p := s.part n
  let snap := p.snap.arm && p.snap.epoch == e
  Act.all [
    modRun n (fun r => { r with bindingEpoch := e, prevOrigin := r.curOrigin, curOrigin := strike }),
    switchMoves n,
    Act.each (partCols p) switchChannels,
    windowStrike n e,
    Act.guard snap (snapStrike n),
    fun s => Act.guard ((s.part n).recd.replay && e == (s.part n).recd.winLast + 1) (replayEnd n) s,
    retryLinks] s

end Sys2Proof.Machine
end

