-- ==== Sys2Proof/Machine/Holds.lean ====
section
/-!
DEFINITION. Dependent instructions and their holds (R28, R355), and the events of a held domain (R29, R30, R33).
-/
namespace Sys2Proof.Machine

/-- A stream that can reach instructions. -/
def streamLive (s : State) (st : Stream) : Bool :=
  (s.part st.sid.part).load.state == .running && !st.halted && !st.stopped

/-- Margin less SLACK at an arming (R355): hold point less PSC, in array cycles. -/
def armMargin (s : State) (n : Nat) (strike : BitVec 64) (w : InsnWord) : Int :=
  ((strike.toNat : Int) - s.tim.lead.toNat - (s.dom n).psc.toNat) / 10 - slack w

/-- The stream reaches a dependent instruction (R28): it is armed, and its hold, if it raised one, is released. -/
def arm (sid : StreamId) : Act := fun s =>
  match stream s sid with
  | none => []
  | some st =>
    match (s.queue st.queue).headWord s with
    | none => []
    | some w =>
      if !streamLive s st || st.armed || !actsDep sid w then [] else
      Act.all [
        modStream sid (fun t => { t with armed := true, raised := false }),
        count (ctrBank sid.part 0x0C) 1,
        noteSlack sid.part (armMargin s sid.part (strikeOf (s.part sid.part).run st w) w),
        Act.guard st.raised (releaseHold sid.part)] s

/-- DEPENDENT_ARM (R28). -/
def execDependentArm (sid : StreamId) (s : State) : Host.Outcome State Fault Refusal := .next ((arm sid).run s)

/-- Hall schedule time has reached the hold point of a strike. The raise belongs to the unit of the hold point, as in the
worked example of R33's chapter, after whatever arms in that unit (R28; DEDUCED, log entry 70). -/
def holdPassed (s : State) (n : Nat) (strike : BitVec 64) : Bool :=
  decide (strike.toNat ≤ ((s.dom n).hst s.tim.hall).toNat + s.tim.lead.toNat)

/-- Hall schedule time passes the hold point of the dependent instruction that a stream has not armed (R28): a hold is
raised, once for each instruction. -/
def missed (sid : StreamId) : Act := fun s =>
  match stream s sid with
  | none => []
  | some st =>
    if !streamLive s st || st.raised || !(s.dom sid.part).active then [] else
    match nextDep s st with
    | none => []
    | some (_, k) =>
      if holdPassed s sid.part k then
        Act.all [modStream sid (fun t => { t with raised := true }), raiseHold sid.part] s
      else []

/-- HOLD_POINT_MISSED (R28). -/
def execHoldPointMissed (sid : StreamId) (s : State) : Host.Outcome State Fault Refusal := .next ((missed sid).run s)

/-- HOLD_TAKE_EFFECT (R29, R30). -/
def execHoldTakeEffect (part : Nat) (s : State) : Host.Outcome State Fault Refusal := .next ((takeEffect part).run s)

/-- A held interval has lasted for TIM_HOLD_MAX (R33); the hold stays in force. -/
def holdMax (n : Nat) : Act := fun s =>
  let d := s.dom n
  if d.held && !d.holdMaxSent && decide (s.tim.maxMs.toNat * 16000000 ≤ (s.tim.hall - d.heldSince).toNat) then
    Act.all [modDom n (fun d => { d with holdMaxSent := true }), timInt 3] s
  else []

/-- HOLD_MAX_EXPIRY (R33). -/
def execHoldMaxExpiry (part : Nat) (s : State) : Host.Outcome State Fault Refusal := .next ((holdMax part).run s)

end Sys2Proof.Machine
end

