-- ==== Sys2Proof/Machine/SideBytes.lean ====
section
/-!
DEFINITION. The side bytes of a 64-byte data block (R180): three check symbols over GF(2^8) and a metadata byte, and what the code
makes of the symbols that are read.
-/
namespace Sys2Proof.Machine

/-- Twice an element of GF(2^8) with the field polynomial of R180: the root α is 2. -/
def gfTwice (a : Nat) : Nat := if a < 128 then 2 * a else (2 * a) ^^^ 0x11D

/-- Product in GF(2^8) with the low `k` bits of the second factor. -/
def gfMul (a : Nat) : Nat → Nat → Nat
  | 0, _ => 0
  | k + 1, b => gfTwice (gfMul a k (b / 2)) ^^^ (if b % 2 = 1 then a else 0)

/-- A power of α. -/
def gfPow : Nat → Nat
  | 0 => 1
  | n + 1 => gfTwice (gfPow n)

/-- Symbols of a stored word: 64 data bytes, the metadata byte and three check symbols. -/
def codeLen : Nat := 68

/-- One step of the division by the generator (x − 1)(x − α)(x − α²) = x³ + 7x² + 14x + 8. -/
def checkStep (r : Nat × Nat × Nat) (m : Nat) : Nat × Nat × Nat :=
  let f := r.1 ^^^ m
  (r.2.1 ^^^ gfMul 7 8 f, r.2.2 ^^^ gfMul 14 8 f, gfMul 8 8 f)

/-- The three check symbols of a block and its metadata byte. The places of the symbols in the code word are not given: they stand in
order, the first with the highest power (DESIGN CHOICE, log entry 119). -/
def checkSymbols (data : List Byte) (info : Byte) : List Nat :=
  let r := (data.map (·.toNat) ++ [info.toNat]).foldl checkStep (0, 0, 0)
  [r.1, r.2.1, r.2.2]

/-- The stored word of a block. -/
def codeWord (data : List Byte) (info : Byte) : List Nat := data.map (·.toNat) ++ [info.toNat] ++ checkSymbols data info

/-- The value of the read word, as a polynomial, at the `j`-th power of α. -/
def syndrome (w : List Nat) (j : Nat) : Nat := w.foldl (fun acc x => gfMul acc 8 (gfPow j) ^^^ x) 0

/-- What the code makes of a read word. -/
inductive Checked where
  | clean
  | fixed (i : Nat) (w : List Nat)
  | bad
  deriving DecidableEq, Repr

/-- A single wrong symbol is corrected, and what fits no single wrong symbol is uncorrectable (R180). -/
def checkWord (w : List Nat) : Checked :=
  let a := syndrome w 0
  let b := syndrome w 1
  let c := syndrome w 2
  if a = 0 ∧ b = 0 ∧ c = 0 then .clean else
  match (List.range codeLen).find? (fun i =>
      a != 0 && b == gfMul a 8 (gfPow (codeLen - 1 - i)) && c == gfMul b 8 (gfPow (codeLen - 1 - i))) with
  | some i => .fixed i (w.set i ((w[i]?).getD 0 ^^^ a))
  | none => .bad

/-- A word with some of its symbols wrong. -/
def withErrors (w : List Nat) (errs : List (Nat × Byte)) : List Nat :=
  errs.foldl (fun v e => v.set e.1 ((v[e.1]?).getD 0 ^^^ e.2.toNat)) w

end Sys2Proof.Machine
end

