-- ==== Sys2Proof/Machine/Dram.lean ====
section
/-!
DEFINITION. Refresh and patrol scrub (R34, R35, R180, R181, R304 to R306), and the catch-up of an idle partition (R26).
-/
namespace Sys2Proof.Machine

/-! ### Positions -/

def refreshEvery : Nat := 62400
def scrubEvery : Nat := 10240
def refreshPhase (ch : Nat) : Nat := ch * 960 % refreshEvery
def scrubPhase (ch : Nat) : Nat := ch * 160 % scrubEvery

/-- The partition to which the quarter of a channel is bound, if it has been started (R34). -/
def chanPart (s : State) (c ch : Nat) : Option Nat :=
  match (s.col c).chanQuarter ch with
  | none => none
  | some q => allParts.find? (fun n =>
      let p := s.part n
      p.bind.quarters.contains (4 * c + q) &&
        (p.load.state == .running || p.load.state == .done || p.load.state == .faulted))

/-- The clock of a channel's positions and their origin (R34): a started partition's PSC, else hall time. -/
def chanClock (s : State) (c ch : Nat) : Nat × Nat :=
  match chanPart s c ch with
  | some n => ((s.dom n).psc.toNat, (s.part n).run.firstOrigin.toNat)
  | none => (s.tim.hall.toNat, 0)

/-- The first position at or after `t`, positions being origin + phase + j × interval for every integer j (R34). -/
def nextPos (origin phase every t : Nat) : Nat := t + (origin + phase + every - t % every) % every

/-- Positions in `[lo, hi)`. -/
def posCount (origin phase every lo hi : Nat) : Nat :=
  let p := nextPos origin phase every lo
  if hi ≤ p then 0 else (hi - p - 1) / every + 1

/-! ### Refresh -/

/-- Channel busy cycles (R352). -/
def chanBusy (c ch n : Nat) : Act := count (ctrCol c (0x4A + ch)) n

/-- A row that waits for retirement is copied to a spare row within a refresh, which it extends by at most 64 cycles
(R305); how many is a free value (log entry 45). A channel with no spare row left retires it by channel sparing. -/
def retireRows (c ch : Nat) : Act := fun s =>
  let rows := (s.col c).pendingRows.filter (fun e => e.1 == ch)
  if rows.isEmpty then [] else
  Act.all [
    Act.each rows (fun e => fun s =>
      let used := Tab.get 0 (s.col c).rowsUsed ch
      if used < 64 then Act.all [
        modCol c (fun x => { x with
          rowsUsed := Tab.set 0 x.rowsUsed ch (used + 1), pendingRows := x.pendingRows.erase e }),
        withFree (fun i => chanBusy c ch (Config.freeNat i % 65)),
        fltEvent c (0x40 + ch) .rowRetired none 1] s
      else Act.all [modCol c (fun x => { x with pendingRows := x.pendingRows.erase e }), spareChannel c ch] s),
    fun s => Act.guard (decide (64 ≤ Tab.get 0 (s.col c).rowsUsed ch)) (spareChannel c ch) s,
    healthChange] s

/-- `k` refreshes of a channel issue now. -/
def issueRefresh (c ch k : Nat) : Act := fun s =>
  if k = 0 then [] else Act.all [
    modCol c (fun x => { x with lastRefresh := Tab.set 0 x.lastRefresh ch s.tim.hall }),
    chanBusy c ch (192 * k), count (ctrCol c 0x94) k, retireRows c ch] s

/-- A refresh position of a channel comes due and issues (R34). -/
def refreshPos (c ch : Nat) : Act := fun s =>
  let (now, o) := chanClock s c ch
  let p := nextPos o (refreshPhase ch) refreshEvery (Tab.get 0 (s.col c).refreshFrom ch).toNat
  if s.hub.stopped || decide (now < p) then [] else Act.all [
    modCol c (fun x => { x with refreshFrom := Tab.set 0 x.refreshFrom ch (BitVec.ofNat 64 (p + 1)) }),
    issueRefresh c ch 1] s

/-- REFRESH_POSITION (R34). -/
def execRefreshPosition (col ch : Nat) (s : State) : Host.Outcome State Fault Refusal := .next ((refreshPos col ch).run s)

/-- A refresh on hall time while the channel's partition is frozen (R35). -/
def freezeRefresh (c ch : Nat) : Act := fun s =>
  match chanPart s c ch with
  | none => []
  | some n =>
    if frozen s n && (s.dom n).jump.isNone && decide (refreshEvery ≤ (s.tim.hall - Tab.get 0 (s.col c).lastRefresh ch).toNat) then Act.all [
      issueRefresh c ch 1,
      modCol c (fun x => { x with refreshDone := Tab.set 0 x.refreshDone ch (s.tim.hall + 1920) })] s
    else []

/-- FREEZE_REFRESH (R35). -/
def execFreezeRefresh (col ch : Nat) (s : State) : Host.Outcome State Fault Refusal :=
  .next ((freezeRefresh col ch).run s)

/-! ### Patrol scrub -/

/-- Scrub positions of one pass over a channel (R34). -/
def scrubPass : Nat := 2097152

/-- `k` scrub positions of a channel are done; a pass that ends clears what it counted. -/
def scrubStep (c ch k : Nat) : Act := fun s =>
  if k = 0 then [] else
  let pos := Tab.get 0 (s.col c).scrubPos ch + k
  let ended : Bool := scrubPass ≤ pos
  Act.all [
    modCol c (fun x => { x with
      scrubPos := Tab.set 0 x.scrubPos ch (pos % scrubPass),
      passCe := if ended then Tab.set 0 x.passCe ch 0 else x.passCe,
      badRows := if ended then x.badRows.filter (fun e => e.1 != ch) else x.badRows }),
    chanBusy c ch (8 * k), count (ctrCol c 0x95) k,
    countF c (ctrCol c 0x8E) k { master := 9, priv := true }] s

/-- Corrected symbols at one position (R304 to R306, R319). -/
def corrected (c ch row symbols : Nat) : Act := fun s =>
  let x := s.col c
  let seen := x.badRows.any (fun e => e.1 == ch && e.2.1 == row)
  let ce := Tab.get 0 x.passCe ch + symbols
  let total := (x.passCe.map (·.2)).sum + symbols
  Act.all [
    modCol c (fun x => { x with
      eccCe := satAdd x.eccCe symbols, passCe := Tab.set 0 x.passCe ch ce,
      badRows := if seen then x.badRows else x.badRows ++ [(ch, row, 0)],
      pendingRows := if seen && !x.pendingRows.contains (ch, row) then x.pendingRows ++ [(ch, row)]
        else x.pendingRows }),
    count (ctrCol c 0x93) symbols,
    countF c (ctrCol c 0x8F) 1 { master := 9, priv := true },
    Act.guard (decide (s.hub.ceMax.toNat / 16 < ce)) (spareChannel c ch),
    Act.guard (decide (s.hub.ceMax.toNat < total) && !bit s.hub.repl 2) (Act.all [replReason 2, healthWrite])] s

/-- An uncorrectable block (R181, R305): POISON, and the retirement of its row; a deadbolt where its memory is bound to a
partition. -/
def uncorrectable (c ch row addr : Nat) : Act := fun s =>
  let bound := (usedFrames s).contains (addr / pageSize)
  Act.all [
    poisonBlock c ch row addr,
    Act.guard bound (Act.all [healthWrite, deadboltAct 0x01 (BitVec.ofNat 8 c) (BitVec.ofNat 8 (0x40 + ch))])] s

/-- The stored word of the block at a local address of a column (R180): its data, the metadata with POISON, the check symbols. -/
def storedWord (s : State) (c addr : Nat) : List Nat :=
  codeWord (s.store.mem.readN addr 64) (if (s.col c).poison.contains addr then 0x80 else 0)

/-- What the code makes of a block that is read with errors. -/
def foundIn (s : State) (c : Nat) (b : BadBlock) : Checked := checkWord (withErrors (storedWord s c b.addr) b.errs)

/-- The data bytes of a word. -/
def wordData (w : List Nat) : List Byte := (w.take 64).map (BitVec.ofNat 8)

/-- The blocks of a list that are read with one wrong symbol, which is corrected. -/
def fixedIn (s : State) (c : Nat) (bad : List BadBlock) : List BadBlock := bad.filter (fun b =>
  match foundIn s c b with
  | .fixed _ _ => true
  | _ => false)

/-- A patrol scrub writes back the blocks it corrects (R304). A word with three wrong symbols or more can pass for one with a single
wrong symbol, and is then written back as what it passes for. -/
def writeBack (c : Nat) (b : BadBlock) : Act := fun s => match foundIn s c b with
  | .fixed _ w => Act.guard (wordData w != s.store.mem.readN b.addr 64) (writeMem b.addr (wordData w)) s
  | _ => []

/-- The uncorrectable blocks of a list (R181). -/
def spoiled (c : Nat) (bad : List BadBlock) : Act := Act.each bad (fun b => fun s => match foundIn s c b with
  | .bad => uncorrectable c b.ch b.row b.addr s
  | _ => [])

/-- What a scrub position finds in its 256 bytes (R180, R304, R305). -/
def scrubFound (c ch : Nat) (bad : List BadBlock) : Act := fun s =>
  let mine := bad.map (fun b => { b with ch := ch })
  let fixed := fixedIn s c mine
  Act.all [
    Act.each ((fixed.map (·.row)).eraseDups) (fun row => corrected c ch row (fixed.filter (·.row == row)).length),
    Act.each fixed (writeBack c), spoiled c mine] s

/-- What a read finds (R181, R304): a corrected symbol is counted, and the block stays as it is. -/
def readFound (bad : List BadBlock) : Act := Act.each bad (fun b => fun s =>
  let c := b.addr / dramSpan
  Act.all [
    Act.guard (!(fixedIn s c [b]).isEmpty) (Act.all [
      modCol c (fun x => { x with eccCe := satAdd x.eccCe 1 }), count (ctrCol c 0x93) 1]),
    spoiled c [b]] s)

/-- A patrol scrub position comes due and reads 256 bytes (R34). -/
def scrubAct (c ch : Nat) (bad : List BadBlock) : Act := fun s =>
  let (now, o) := chanClock s c ch
  let p := nextPos o (scrubPhase ch) scrubEvery (Tab.get 0 (s.col c).scrubFrom ch).toNat
  if s.hub.stopped || decide (now < p) then [] else Act.all [
    modCol c (fun x => { x with scrubFrom := Tab.set 0 x.scrubFrom ch (BitVec.ofNat 64 (p + 1)) }),
    scrubFound c ch bad,
    scrubStep c ch 1] s

/-- SCRUB_POSITION (R34, R180, R181, R304). -/
def execScrubPosition (col ch : Nat) (bad : List BadBlock) (s : State) : Host.Outcome State Fault Refusal :=
  .next ((scrubAct col ch bad).run s)

/-! ### Catch-up (R26) -/

/-- The binding epoch has not reached the one that a marker of a stream at epoch `e` waits for (R85). -/
def epochAhead (binding e : BitVec 32) : Bool := decide (2 ^ 31 ≤ (binding - (e + 1)).toNat)

/-- A stream is empty or waits at a timed instruction; the strike at which it waits. A stream that waits at a marker sets no
bound of its own: the leader that will release it does, once its own stream has reached its EPOCH (R85). -/
def idleStream (s : State) (st : Stream) : Bool × Option (BitVec 64) :=
  if st.halted || st.stopped then (true, none) else
  match (s.queue st.queue).headWord s with
  | none => (true, none)
  | some w => match headStrike (s.part st.sid.part).run st w with
    | some k => (decide ((s.dom st.sid.part).psc.toNat < k.toNat), some k)
    | none => (opc w == 0x02 && !isLeader st.sid && epochAhead (s.part st.sid.part).run.bindingEpoch st.epoch, none)

/-- An idle partition (R26): every stream empty or waiting at a timed instruction, no operation in flight. -/
def idlePart (s : State) (n : Nat) : Bool :=
  let r := (s.part n).run
  r.ops.isEmpty && r.streams.all (fun t => (idleStream s t).1)

/-- Where the PSC of an idle partition jumps to: hall schedule time or the earliest strike at which a stream waits. -/
def catchTarget (s : State) (n : Nat) : Nat :=
  (s.part n).run.streams.foldl (fun m t => match (idleStream s t).2 with
    | some k => min m k.toNat
    | none => m) ((s.dom n).hst s.tim.hall).toNat

/-- The refreshes and the scrubs of a channel strictly between the PSC and the end of a jump to `to?`, but for those that have
issued. -/
def passed (s : State) (c ch to? : Nat) : Nat × Nat :=
  let (now, o) := chanClock s c ch
  (posCount o (refreshPhase ch) refreshEvery (max (now + 1) (Tab.get 0 (s.col c).refreshFrom ch).toNat) to?,
   posCount o (scrubPhase ch) scrubEvery (max (now + 1) (Tab.get 0 (s.col c).scrubFrom ch).toNat) to?)

/-- The channel time of what a channel issues in a jump, in array cycles (R34). -/
def passTime (k : Nat × Nat) : Nat := 192 * k.1 + 8 * k.2

/-- The positions of a channel up to but not at the jump's end issue at once. -/
def catchChannel (c ch to? : Nat) : Act := fun s =>
  let k := passed s c ch to?
  Act.all [
    modCol c (fun x => { x with
      refreshFrom := Tab.set 0 x.refreshFrom ch (BitVec.ofNat 64 (max (Tab.get 0 x.refreshFrom ch).toNat to?)),
      scrubFrom := Tab.set 0 x.scrubFrom ch (BitVec.ofNat 64 (max (Tab.get 0 x.scrubFrom ch).toNat to?)) }),
    issueRefresh c ch k.1,
    scrubStep c ch k.2] s

/-- The channels that serve a partition: column and channel. -/
def partChannels (s : State) (n : Nat) : List (Nat × Nat) :=
  (s.part n).bind.quarters.flatMap (fun q => ((List.range 68).filter (fun ch =>
    (s.col (q / 4)).chanQuarter ch == some (q % 4))).map (fun ch => (q / 4, ch)))

/-- The PSC of a partition takes the value of its jump. -/
def jumpEnd (n : Nat) (to? : BitVec 64) : Act := fun s => Act.all [
  count (ctrBank n 0x00) ((to?.toNat - (s.dom n).psc.toNat) / 10),
  modDom n (fun d => { d with psc := to?, jump := none })] s

/-- The jumps whose operations have ended by now (R26). -/
def jumpsEnd : Act := fun s => Act.each s.doms (fun e => match e.2.jump with
  | some (to?, t) => Act.guard (decide (t ≤ s.tim.hall)) (jumpEnd e.1 to?)
  | none => Act.skip) s

/-- An idle partition with lag jumps (R26): the positions it passes issue at once, and the PSC takes its new value when the
channel time of the busiest channel is over. What the scrubs would find wrong is not found here (log entry 47). -/
def catchUp (n : Nat) : Act := fun s =>
  let d := s.dom n
  let to? := catchTarget s n
  if (s.part n).load.state != .running || !d.active || d.jump.isSome || stalled s n || s.hub.deadboltPending ||
      !idlePart s n || !timeRuns s.tim.state || decide (to? ≤ d.psc.toNat) then [] else
  let chans := partChannels s n
  let time := (chans.map (fun e => passTime (passed s e.1 e.2 to?))).foldl max 0
  Act.all [
    Act.each chans (fun e => catchChannel e.1 e.2 to?),
    if time = 0 then jumpEnd n (BitVec.ofNat 64 to?)
    else modDom n (fun d => { d with jump := some (BitVec.ofNat 64 to?, s.tim.hall + BitVec.ofNat 64 (10 * time)) })] s

/-- IDLE_CATCH_UP (R26). -/
def execIdleCatchUp (part : Nat) (s : State) : Host.Outcome State Fault Refusal := .next ((catchUp part).run s)

end Sys2Proof.Machine
end

