-- ==== Sys2Proof/Machine/Tree.lean ====
section
/-!
DEFINITION. The pintle tree: election, time transfer, holdover and its end, the time code (R16 to R21, R377 to R379,
R400), and the discovery of the topology (R380, R381).
-/
namespace Sys2Proof.Machine

/-! ### Steps of hall time -/

/-- Hall time after a step in which as much has passed as had passed since `t`. -/
def shifted (d t : BitVec 64) : BitVec 64 := t + d

/-- A table of times after a step. -/
def shiftTab (d : BitVec 64) (t : Tab (BitVec 64)) : Tab (BitVec 64) :=
  (t.map (fun e => (e.1, shifted d e.2))).filter (fun e => e.2 != 0)

/-- The links' own timers at a step of hall time: what has passed since an event does not change. -/
def LinkReg.shift (x : LinkReg) (d : BitVec 64) (was now : Nat) : LinkReg := { x with
  rxLast := shifted d x.rxLast, lastTime := shifted d x.lastTime, third := x.third.map (fun e => (e.1, shifted d e.2)),
  txFlit := now + x.txFlit - was, ackAt := now + x.ackAt - was }

/-- The channels' timers at a step of hall time. Positions in hall time between the old and the new value are passed over
(DEDUCED, log entry 65). -/
def stepColumn (c : Nat) (d h : BitVec 64) : Act := fun s =>
  let hallSide (t : Tab (BitVec 64)) : Tab (BitVec 64) :=
    (List.range 68).foldl (fun t ch => if (chanPart s c ch).isNone then Tab.set 0 t ch h else t) t
  modCol c (fun x => { x with
    lastRefresh := shiftTab d x.lastRefresh,
    refreshDone := shiftTab d x.refreshDone,
    refreshFrom := hallSide x.refreshFrom, scrubFrom := hallSide x.scrubFrom }) s

/-- Hall time takes the value `h` (R16: only in the states that allow a step). Timers that measure what has passed go on
from where they stood; a hold's interval is in hall time itself and does not. -/
def stepHall (h : BitVec 64) : Act := fun s =>
  let d := h - s.tim.hall
  if d == 0 then [] else Act.all [
    modTim (fun t => { t with
      hall := h, phase := 0, steppedAt := h, noticeAt := shifted d t.noticeAt, lastLower := shifted d t.lastLower, electAt := shifted d t.electAt,
      lockedAt := shifted d t.lockedAt, holdoverAt := shifted d t.holdoverAt }),
    modHub (fun x => { x with
      perstSince := shifted d x.perstSince, topoChange := shifted d x.topoChange, deadboltAt := shifted d x.deadboltAt }),
    Act.each s.links (fun e => fun _ => [.link e.1 (e.2.shift d (s.tim.hall.toNat / 40) (h.toNat / 40))]),
    Act.each (List.range 20) (fun c => stepColumn c d h)] s

/-! ### Topology -/

/-- A distance of `HUB_TOPO`; the table holds its complement, so that "never seen" is its default. -/
def Hub.dist (h : Hub) (dev : Nat) : Nat := 255 - (Tab.get 0 h.topo dev).toNat

/-- Sets a distance: the table changes and is no longer settled (R380). -/
def setDist (dev d : Nat) : Act := fun s =>
  if s.hub.dist dev == d then [] else
  modHub (fun h => { h with
    topo := Tab.set 0 h.topo dev (BitVec.ofNat 8 (255 - d)), topoChange := s.tim.hall, topoSettled := false }) s

/-- ARG of a class 4 message that carries a topology record, and of one that answers a register read: R423 gives KIND 10 no
ARG (DESIGN CHOICE, log entries 55 and 74). -/
def topoArg : BitVec 32 := 1
def mgmtReply : BitVec 32 := 2

/-- A topology record as a class 4 message (R211, R380). The layout of its payload is not given (DESIGN CHOICE, log entry 55). -/
def topoMsg (s : State) (l : LinkId) (r : TopoRec) : Msg :=
  let body := leBytes 2 r.dev.toNat ++ leBytes 16 r.ident.toNat ++ leBytes 1 r.depth.toNat ++ leBytes 1 r.upLinks ++
    leBytes 1 r.hops.toNat ++ leBytes 4 r.seq
  { dstDev := (s.link l).pdev, srcDev := s.hub.devno, dstPart := 0, srcPart := 0, dstOwn := 0, srcOwn := 0, kind := .mgmt,
    epoch := 0, tag := 0, seq := 0, addr := 0, bytes := BitVec.ofNat 32 body.length, arg := topoArg, payload := body }

/-- Puts a class 4 message into a link's send queue (R211). -/
def postMgmt (l : LinkId) (m : Msg) : Act := postLink 0 none { link := l, route := 0 } 4 0 m

/-- Sends a record on every link that is UP except one (R211, R380). -/
def floodTopo (but : Option LinkId) (r : TopoRec) : Act := fun s =>
  Act.each ((upLinks s).filter (fun l => some l != but)) (fun l => fun s => postMgmt l (topoMsg s l r) s) s

/-- Floods this device's own record (R380); SEQ tells one flooding from the next (DESIGN CHOICE, log entry 55). -/
def topoFlood : Act := fun s =>
  let dev := s.hub.devno.toNat
  if !timeRuns s.tim.state then [] else
  let seq := Tab.get 0 s.hub.topoSeq dev
  Act.all [
    setDist dev 0,
    modHub (fun h => { h with topoSeq := Tab.set 0 h.topoSeq dev (seq + 1) }),
    floodTopo none { dev := s.hub.devno, ident := s.fuses.identity, depth := s.tim.depth,
                     upLinks := (upLinks s).length, hops := 0, seq := seq }] s

/-- This device's number is used twice in the hall (R377, R381). -/
def dupNumber : Act := Act.all [
  modHub (fun h => { h with dupnum := true }), modTim (fun t => { t with ineligible := true })]

/-- A topology record's message leaves its class buffer (R213). -/
def topoTaken (l : LinkId) : Act := fun s =>
  match (s.link l).rxMsgs.find? (fun e => e.1 == 4 && e.2.kind == .mgmt && e.2.arg == topoArg) with
  | some e => Act.all [
      modLink l (fun r => { r with rxMsgs := r.rxMsgs.erase e }),
      noteSeq e.2.srcDev.toNat 4 e.2.seq.toNat, freeCredits l 4 (flitsOf e.2.payload.length)] s
  | none => []

/-- A topology record arrives (R380, R381). -/
def topoRecord (l : LinkId) (r : TopoRec) : Act := fun s =>
  if (s.link l).state != linkUp then [] else
  let dev := r.dev.toNat
  if r.dev == s.hub.devno then
    (if r.ident == s.fuses.identity then []
     else Act.all [dupNumber, modHub (fun h => { h with topoDup := true })] s)
  else
    let known := h2 s dev
    let d := min (r.hops.toNat + 1) 254
    let fresh := decide (Tab.get 0 s.hub.topoSeq dev < r.seq + 1)
    Act.all [
      Act.guard (known.isSome && known != some r.ident) (modHub (fun h => { h with topoDup := true })),
      modHub (fun h => { h with
        topoIdent := Tab.set 0 h.topoIdent dev r.ident,
        topoSeq := Tab.set 0 h.topoSeq dev (max (Tab.get 0 h.topoSeq dev) (r.seq + 1)) }),
      Act.guard (decide (d < s.hub.dist dev)) (setDist dev d),
      Act.guard fresh (floodTopo (some l) { r with hops := BitVec.ofNat 8 d })] s
where
  /-- Identity seen under a number, if the number was seen. -/
  h2 (s : State) (dev : Nat) : Option (BitVec 128) :=
    if s.hub.dist dev == 255 then none else some (Tab.get 0 s.hub.topoIdent dev)

/-- TOPOLOGY_RECORD (R380). -/
def execTopologyRecord (l : LinkId) (r : TopoRec) (s : State) : Host.Outcome State Fault Refusal :=
  .next ((Act.all [topoTaken l, topoRecord l r]).run s)

/-- TOPO_SETTLE (R380): no record has changed the table for 1 s. -/
def topoSettleAct : Act := fun s =>
  if !s.hub.topoSettled && !s.hub.topo.isEmpty && decide (16000000000 ≤ (s.tim.hall - s.hub.topoChange).toNat) then
    modHub (fun h => { h with topoSettled := true }) s
  else []

def execTopoSettle (s : State) : Host.Outcome State Fault Refusal := .next (topoSettleAct.run s)

/-! ### Candidates -/

/-- This device may be the pintle (R17, R377, R381). -/
def eligible (s : State) : Bool :=
  s.tim.pri != 0xFF && s.hub.devnoValid && !s.tim.ineligible && !s.hub.dupnum

/-- Order of candidates: priority, then device number (R17). -/
def candLt (p1 d1 p2 d2 : Nat) : Bool := decide (p1 < p2) || (p1 == p2 && decide (d1 < d2))

/-- The elected pintle's identity is shown in `TIM_PINTLE_ID` (R17). -/
def showPintle (pri : BitVec 8) (dev : BitVec 16) : Act := modTim (fun t => { t with idPri := pri, idDev := dev })

/-- The device has adopted a candidate. -/
def Tim.hasCand (t : Tim) : Bool := t.pintlePri != 0xFF

/-- Adopts the device itself where it is eligible and lower than what it has adopted. -/
def selfCand : Act := fun s =>
  let t := s.tim
  if eligible s && (!t.hasCand || candLt t.pri.toNat s.hub.devno.toNat t.pintlePri.toNat t.pintleDev.toNat) then
    modTim (fun t => { t with pintlePri := t.pri, pintleDev := s.hub.devno, pintleIdent := s.fuses.identity }) s
  else []

/-- The adopted candidate as it is announced. -/
def Tim.cand (t : Tim) : Candidate :=
  { pri := t.pintlePri, dev := t.pintleDev, ident := t.pintleIdent, settled := t.settled }

/-- Sends a candidate: ELECT followed by ELECTX (R208). -/
def sendCand (l : LinkId) (c : Candidate) : Act := Act.all [sendSym l (.elect c), sendSym l (.electx c)]

/-- A neighbour shows a state of R378 in its TIME symbols. -/
def hearsTree (s : State) : Bool := (upLinks s).any (fun l =>
  match (s.link l).nTime with
  | some t => timeRuns t.state
  | none => false)

/-- A neighbour serves time: LOCKED, PINTLE or PINTLE_FREE (R19, R21). -/
def serves : TimeState → Bool
  | .locked | .pintle | .pintleFree => true
  | _ => false

/-- The device takes part in an election: UNLOCKED and not yet settled, with no neighbour in a tree (R377, R378), or in
HOLDOVER without a neighbour that serves time (R18; DEDUCED, log entry 54). -/
def electing (s : State) : Bool :=
  match s.tim.state with
  | .unlocked => !s.tim.settled && !hearsTree s && s.tim.rejoin.isNone
  | .holdover => !(upLinks s).any (fun l =>
      match (s.link l).nTime with
      | some t => serves t.state
      | none => false)
  | _ => false

/-- Announces the adopted candidate on every link except one. -/
def announce (but : Option LinkId) : Act := fun s =>
  if !electing s || !s.tim.hasCand then [] else
  Act.each ((upLinks s).filter (fun l => some l != but)) (fun l => sendCand l { s.tim.cand with settled := false }) s

/-- A complete candidate arrives (R208, R377, R378). -/
def elect (l : LinkId) (c : Candidate) : Act := fun s =>
  let r := s.link l
  let t := s.tim
  if r.state != linkUp then [] else
  Act.all [
    modLink l (fun r => { r with nCand := some c }),
    Act.guard (t.settled && c.settled && r.nCand != some c && timeRuns t.state && c.dev != t.tree)
      (fltEvent (dieLink l.die) l.link .treesMeet none 0),
    Act.guard (t.settled && c.settled && t.parentDie.toNat == l.die && t.parentLink.toNat == l.link &&
        (t.state == .locked || t.state == .acquiring))
      (modTim (fun t => { t with
        pintlePri := c.pri, pintleDev := c.dev, pintleIdent := c.ident, idPri := c.pri, idDev := c.dev, tree := c.dev })),
    fun s =>
      let t := s.tim
      if !electing s || c.settled || c.pri == 0xFF || t.badCands.contains c.dev.toNat then []
      else if c.dev == s.hub.devno && c.pri == t.pri && c.ident != s.fuses.identity then
        Act.all [dupNumber, strike c.dev] s
      else if t.hasCand && c.pri == t.pintlePri && c.dev == t.pintleDev then
        (if c.ident == t.pintleIdent then [] else strike c.dev s)
      else if !t.hasCand || candLt c.pri.toNat c.dev.toNat t.pintlePri.toNat t.pintleDev.toNat then
        Act.all [
          modTim (fun t => { t with pintlePri := c.pri, pintleDev := c.dev, pintleIdent := c.ident, lastLower := s.tim.hall }),
          announce (some l)] s
      else []] s
where
  /-- Two candidates with one (PRI, number) and two identities: neither is eligible (R377). -/
  strike (dev : BitVec 16) : Act := Act.all [
    modTim (fun t => { t with
      badCands := t.badCands ++ [dev.toNat],
      pintlePri := if t.pintleDev == dev then 0xFF else t.pintlePri,
      pintleDev := if t.pintleDev == dev then 0xFFFF else t.pintleDev,
      pintleIdent := if t.pintleDev == dev then 0 else t.pintleIdent }),
    fun s => modTim (fun t => { t with lastLower := s.tim.hall }) s,
    selfCand, announce none]

/-- ELECT_RECEIVE (R377). -/
def execElectReceive (l : LinkId) (c : Candidate) (s : State) : Host.Outcome State Fault Refusal :=
  .next ((elect l c).run s)

/-- SETTLED_ELECT_SEND (R378): once per second on every link. -/
def settledElect : Act := fun s =>
  if s.tim.settled && s.tim.hasCand && decide (16000000000 ≤ (s.tim.hall - s.tim.electAt).toNat) then
    Act.all [
      modTim (fun t => { t with electAt := t.hall }),
      Act.each (upLinks s) (fun l => sendCand l s.tim.cand)] s
  else []

def execSettledElectSend (s : State) : Host.Outcome State Fault Refusal := .next (settledElect.run s)

/-- The links' training can add no further candidate: every link die that is present has ended its adaptation (R365,
R376; DEDUCED, log entry 54). -/
def linksReady (s : State) : Bool := (List.range 4).all (fun d =>
  !s.fuses.linkPresent.getLsbD d || (s.die d).calDone || (s.link ⟨d, 0⟩).state == linkFailed)

/-- The pintle takes its source (R18). -/
def pintleStart : Act := fun s =>
  let t := s.tim
  let started (st : TimeState) : Act := Act.all [
    modTim (fun t => { t with state := st, depth := 0, waiting := false, tree := s.hub.devno }), topoFlood]
  if t.src then started .pintleFree s
  else if t.codeValid then Act.all [
    stepHall (t.hall + BitVec.ofInt 64 t.phase + t.codeOff), modTim (fun t => { t with phase := 0 }), started .pintle] s
  else modTim (fun t => { t with waiting := true, noticeAt := t.hall }) s

/-- The election settles (R377), or the re-election of R18 ends: the new pintle goes on from its own hall time. -/
def settle : Act := fun s =>
  if !electing s || s.hub.stopped then [] else
  Act.all [selfCand, fun s =>
    let t := s.tim
    if !t.hasCand then [] else
    let own := t.pintleDev == s.hub.devno
    if t.state == .holdover then
      (if own then Act.all [
         modTim (fun t => { t with
           state := .pintleFree, depth := 0, settled := true, tree := s.hub.devno, idPri := t.pintlePri, idDev := t.pintleDev,
           slewing := !t.src && t.codeValid, slewFrames := 0 }),
         topoFlood, settledNow] s
       else [])
    else if decide ((t.hall - t.lastLower).toNat < 8000000000) || !linksReady s then []
    else Act.all [
      modTim (fun t => { t with settled := true, idPri := t.pintlePri, idDev := t.pintleDev }),
      (if own then pintleStart else modTim (fun t => { t with state := .acquiring, tree := t.pintleDev }))] s] s
where
  /-- The new pintle names itself at once. -/
  settledNow : Act := fun s => Act.each (upLinks s) (fun l => sendCand l s.tim.cand) s

/-- ELECTION_SETTLE (R377). -/
def execElectionSettle (s : State) : Host.Outcome State Fault Refusal := .next (settle.run s)

/-! ### Parents -/

/-- Parent link of the device. -/
def Tim.parent (t : Tim) : LinkId := ⟨t.parentDie.toNat, t.parentLink.toNat⟩

/-- Enters HOLDOVER (R21). Its own candidate, where it is eligible, opens the re-election of R18. -/
def enterHoldover : Act := Act.all [
  modTim (fun t => { t with
    state := .holdover, holdoverAt := t.hall, pintlePri := 0xFF, pintleDev := 0xFFFF, pintleIdent := 0 }),
  timInt 1, count (ctrHub 0x1E) 1, fltEvent dieHub 1 .holdover none 0,
  selfCand, announce none]

/-- A neighbour belongs to the tree of this device, as far as its ELECT symbols say (R378), or to the one it rejoins
(R379). -/
def sameTree (t : Tim) (c : Option Candidate) : Bool :=
  match t.rejoin, c with
  | some d, some x => x.dev == d
  | some _, none => false
  | none, none => true
  | none, some x => t.state == .unlocked && !t.settled || x.dev == t.tree || x.dev == t.pintleDev

/-- The neighbours that could be the parent (R19): link, depth and device number. -/
def parents (s : State) : List (LinkId × Nat × Nat) := (upLinks s).filterMap (fun l =>
  let r := s.link l
  match r.nTime with
  | some t => if serves t.state && sameTree s.tim r.nCand then some (l, t.depth.toNat, r.pdev.toNat) else none
  | none => none)

/-- The lowest (depth, device number) (R19). -/
def bestParent (xs : List (LinkId × Nat × Nat)) : Option (LinkId × Nat × Nat) := xs.foldl (fun m e =>
  match m with
  | none => some e
  | some b => some (if candLt e.2.1 e.2.2 b.2.1 b.2.2 then e else b)) none

/-- Picoseconds in `n` units of hall time (R16). -/
def psOf (n : Int) : Int := n * 125 / 2

/-- What the device measures of a TIME symbol at its arrival, in ps: its own time less the stamp (R19). -/
def measured (x : Tim) (y : TimeSym) : Int := psOf ((x.hall.toNat : Int) + x.phase - y.hall.toNat) + y.fine

/-- The one-way delay of a link in ps, half of what the two ends measured of a pair of exchanged symbols (R19). Until a pair has
been exchanged since this device's hall time last stepped, it is the delay measured at training (DESIGN CHOICE, log entry 99). -/
def pairDelay (x : Tim) (r : LinkReg) (y : TimeSym) : Int :=
  match y.back with
  | some b => if decide (32000 ≤ (x.hall - x.steppedAt).toNat) && decide (0 ≤ measured x y + b) then (measured x y + b) / 2
      else psOf r.delay.toNat
  | none => psOf r.delay.toNat

/-- The delay in units, as `TIM_PARENT` shows it: it saturates (R36). -/
def delayUnits (ps : Int) : BitVec 16 := BitVec.ofNat 16 (min 0xFFFF (ps * 2 / 125).toNat)

/-- The offset from the neighbour in ps: this device's time less the neighbour's (R19; DEDUCED, log entry 99). -/
def pairOffset (x : Tim) (r : LinkReg) (y : TimeSym) : Int := measured x y - pairDelay x r y

/-- The OFFSET field for an offset in ps (R36). -/
def offsetField (ps : Int) : BitVec 16 :=
  if -32768 ≤ ps ∧ ps ≤ 32767 then BitVec.ofInt 16 ps else Config.farOffset ps

/-- A parent's symbol disciplines the DPLL where hall time may not step: it gains or loses one unit while the offset is more than
half a unit (R16, R19; DESIGN CHOICE, log entry 99: the rate is not given). -/
def discipline (ps : Int) (phase : Int) : Int := if 31 < ps then phase - 1 else if ps < -31 then phase + 1 else phase

/-- Takes a parent with what the exchange with it shows; `step` where hall time may step to it (R16, R19). -/
def takeParent (l : LinkId) (y : TimeSym) (st : TimeState) (step : Bool) : Act := fun s =>
  let r := s.link l
  let off := pairOffset s.tim r y
  let delay := delayUnits (pairDelay s.tim r y)
  Act.all [
    if step then stepHall (y.hall + delay.setWidth 64) else modTim (fun x => { x with phase := discipline off x.phase }),
    modTim (fun x => { x with
      state := st, parentDie := BitVec.ofNat 2 l.die, parentLink := BitVec.ofNat 5 l.link,
      depth := y.depth + 1, delay := delay, offset := offsetField off, settled := true }),
    match r.nCand with
    | some c => Act.all [
        modTim (fun x => { x with pintlePri := c.pri, pintleDev := c.dev, pintleIdent := c.ident, tree := c.dev }),
        Act.guard c.settled (showPintle c.pri c.dev)]
    | none => Act.skip] s

/-- A TIME symbol arrives (R19, R21, R378). -/
def timeSymbol (l : LinkId) (t : TimeSym) : Act := fun s =>
  if (s.link l).state != linkUp then [] else
  Act.all [
    fun s => modLink l (fun r => { r with nTime := some t, heard := some (measured s.tim t) }) s,
    fun s =>
      let x := s.tim
      let mine := x.parent == l
      let ps := parents s
      let best := bestParent (ps.filter (fun e => decide (e.2.1 < 15)))
      let deep := best.isNone && !ps.isEmpty
      let depthFlt := fltEvent dieHub 1 .depthExceeded none 0
      match x.state with
      | .unlocked =>
        if x.waiting then [] else
        match best with
        | some b => if b.1 == l then takeParent l t .acquiring true s else []
        | none => if deep then depthFlt s else []
      | .acquiring =>
        (match best with
         | some b => if b.1 == l then takeParent l t .acquiring true s else []
         | none => if deep then Act.all [modTim (fun x => { x with state := .unlocked }), depthFlt] s else [])
      | .locked =>
        if mine && !serves t.state then enterHoldover s
        else
          (match best with
           | some b => if b.1 == l then takeParent l t .locked false s else []
           | none => if deep then Act.all [depthFlt, enterHoldover] s else [])
      | .holdover =>
        (match best with
         | some b => if b.1 == l then Act.all [
             takeParent l t .locked false, modTim (fun x => { x with lockedAt := x.hall }), topoFlood] s else []
         | none => if deep then depthFlt s else [])
      | .lost =>
        (match best with
         | some b => if b.1 == l then Act.all [
             takeParent l t .locked true, modTim (fun x => { x with lockedAt := x.hall }), topoFlood] s else []
         | none => if deep then depthFlt s else [])
      | .pintle | .pintleFree => []] s

/-- TIME_SYMBOL_RECEIVE (R19). -/
def execTimeSymbolReceive (l : LinkId) (t : Copied TimeSym) (s : State) : Host.Outcome State Fault Refusal :=
  .next ((recvSym l (.time t.sym) t.copy (timeSymbol l t.sym)).run s)

/-- TIME_LOCK_ACQUIRED (R19): the device has disciplined its DPLL to its parent. -/
def lockAct : Act := fun s =>
  if s.tim.state == .acquiring && s.tim.depth != 0xF &&
      (parents s).any (fun e => e.1 == s.tim.parent) then
    Act.all [modTim (fun t => { t with state := .locked, lockedAt := t.hall, rejoin := none }), topoFlood] s
  else []

def execTimeLockAcquired (s : State) : Host.Outcome State Fault Refusal := .next (lockAct.run s)

/-- HOLDOVER_TIMEOUT (R21): LOST, with a hold on every active domain. -/
def lostAct : Act := fun s =>
  if s.tim.state == .holdover && decide (160000000 ≤ (s.tim.hall - s.tim.holdoverAt).toNat) then
    Act.all [
      modTim (fun t => { t with state := .lost }),
      Act.each (allParts.filter (fun n => (s.dom n).active)) (fun n => Act.all [
        raiseHold n, modDom n (fun d => { d with lostRaises := d.lostRaises + 1 })]),
      timInt 2, fltEvent dieHub 1 .timeLost none 0] s
  else []

def execHoldoverTimeout (s : State) : Host.Outcome State Fault Refusal := .next (lostAct.run s)

/-- LOST_RELOCK_RELEASE (R21): 1 ms after locking again the device releases its holds, one release for each raise (R29). -/
def relockAct : Act := fun s =>
  if s.tim.state == .locked && decide (16000000 ≤ (s.tim.hall - s.tim.lockedAt).toNat) then
    Act.each (allParts.filter (fun n => (s.dom n).lostRaises != 0)) (fun n => Act.all [
      Act.each (List.replicate (s.dom n).lostRaises ()) (fun _ => releaseHold n),
      modDom n (fun d => { d with lostRaises := 0 })]) s
  else []

def execLostRelockRelease (s : State) : Host.Outcome State Fault Refusal := .next (relockAct.run s)

/-- PINTLE_WAIT_NOTICE (R18): once per second while the pintle waits for its code. -/
def waitNotice : Act := fun s =>
  if s.tim.waiting && decide (16000000000 ≤ (s.tim.hall - s.tim.noticeAt).toNat) then
    Act.all [fltEvent dieHub 1 .pintleWait none 0, modTim (fun t => { t with noticeAt := t.hall })] s
  else []

def execPintleWaitNotice (s : State) : Host.Outcome State Fault Refusal := .next (waitNotice.run s)

/-- The code is at most 2 units (125 ps, below 150 ps) from hall time. -/
def nearCode (t : Tim) : Bool := decide (t.codeOff.toInt ≤ 2) && decide (-2 ≤ t.codeOff.toInt)

/-- PINTLE_SLEW_DONE (R18). -/
def slewDone : Act := fun s =>
  if s.tim.state == .pintleFree && s.tim.slewing && s.tim.codeValid && nearCode s.tim then
    Act.all [modTim (fun t => { t with state := .pintle, slewing := false }), timInt 1,
      fltEvent dieHub 1 .pintleSource none 0] s
  else []

def execPintleSlewDone (s : State) : Host.Outcome State Fault Refusal := .next (slewDone.run s)

/-! ### The time code -/

/-- Bits `i` to `i + n - 1` of a frame, bit 0 sent first, most significant first (R400). -/
def frameFld (f : BitVec 125) (i n : Nat) : Nat := fld f (125 - i - n) n

/-- A frame passes the tests of R400, its T following the frame before it (DESIGN CHOICE for the first frame, log
entry 52). -/
def frameGood (t : Tim) (f : BitVec 125) : Bool :=
  frameFld f 0 16 == 0xE2B5 && frameFld f 88 16 == crc16 72 (frameFld f 16 72) && frameFld f 87 1 == 1 &&
    BitVec.ofNat 64 (frameFld f 16 64) == t.codeT + 16000

/-- Slewing toward the code: one unit for 63 frames, 0.99 ns per 1 ms (R18). The array clock takes it (R16): ten units gained
make a cycle more, ten lost one less, so that hall time never decreases and an array cycle is always 10 units. -/
def slewStep : Act := fun s =>
  let t := s.tim
  if !t.slewing || nearCode t then [] else
  if t.slewFrames < 62 then modTim (fun t => { t with slewFrames := t.slewFrames + 1 }) s
  else if decide (0 < t.codeOff.toInt) then
    modTim (fun t => { t with slewFrames := 0, phase := t.phase + 1, codeOff := t.codeOff - 1 }) s
  else modTim (fun t => { t with slewFrames := 0, phase := t.phase - 1, codeOff := t.codeOff + 1 }) s

/-- TIME_CODE_FRAME (R18, R400). -/
def timeCode (f : BitVec 125) : Act := fun s =>
  if s.hub.stopped then [] else
  let t := s.tim
  let crcOk := frameFld f 88 16 == crc16 72 (frameFld f 16 72)
  let T := BitVec.ofNat 64 (frameFld f 16 64)
  if frameGood t f then
    Act.all [
      modTim (fun t => { t with
        codeGood := t.codeGood + 1, codeBad := 0, codeT := T,
        codeOff := T - t.hall - BitVec.ofInt 64 t.phase,
        codeValid := t.codeValid || decide (2 ≤ t.codeGood) }),
      fun s =>
        let x := s.tim
        if t.codeValid || !x.codeValid then slewStep s
        else if x.state == .unlocked && x.waiting && !x.src then pintleStart s
        else if x.state == .pintleFree && !x.src then modTim (fun t => { t with slewing := true, slewFrames := 0 }) s
        else []] s
  else
    Act.all [
      modTim (fun t => { t with
        codeGood := 0, codeBad := t.codeBad + 1, codeT := if crcOk then T else t.codeT + 16000,
        codeValid := t.codeValid && decide (t.codeBad < 3) }),
      fun s =>
        let x := s.tim
        if t.codeValid && !x.codeValid then
          Act.all [
            modTim (fun t => { t with slewing := false }),
            Act.guard (x.state == .pintle) (Act.all [
              modTim (fun t => { t with state := .pintleFree }), timInt 1, fltEvent dieHub 1 .codeInvalid none 0])] s
        else []] s

def execTimeCodeFrame (f : BitVec 125) (s : State) : Host.Outcome State Fault Refusal := .next ((timeCode f).run s)

end Sys2Proof.Machine
end

