-- ==== Sys2Proof/Machine/Links.lean ====
section
/-!
DEFINITION. Sahver links: flits and their retransmission (R206, R207), the control stream (R208), arbitration (R212),
credits (R213), transit (R220), lane and link failures (R222, R223) and training (R365, R376).
-/
namespace Sys2Proof.Machine

/-! ### The control stream -/

/-- Priority of a symbol (R208). -/
def SymBody.prio : SymBody → Nat
  | .lane _ => 1 | .hold _ => 2 | .nak _ => 3 | .hasp _ => 4 | .time _ => 5 | .ack _ _ => 6 | .elect _ => 7
  | .electx _ => 7

/-- Flit times of one copy (R208). -/
def SymBody.length : SymBody → Nat
  | .lane _ => 2 | .hold _ => 7 | .nak _ => 2 | .hasp _ => 5 | .time _ => 5 | .ack _ _ => 4 | .elect _ => 6
  | .electx _ => 5

/-- A TIME symbol is stamped when its first bit leaves (R208): each copy with its own time (DEDUCED, log entry 56), and with what
the sender has measured of the neighbour's (R19). -/
def stamp (t : Tim) (heard : Option Int) : SymBody → SymBody
  | .time x => .time { x with hall := t.hall, depth := t.depth, state := t.state, back := heard }
  | b => b

/-- A candidate's ELECTX begins as soon as its ELECT has left (R208). -/
def followElect (hall : BitVec 64) (b : SymBody) (xs : List SymTx) : List SymTx × List (SymBody × BitVec 64) :=
  match b with
  | .elect c =>
    (match xs.find? (fun x => decide (x.body = .electx c) && x.left == 0 && x.copies == 2) with
     | some x => ({ x with left := x.body.length } :: xs.erase x, [(x.body, hall + 16000)])
     | none => (xs, []))
  | _ => (xs, [])

/-- Where the symbol with the highest priority waits: the first of its priority. -/
def nextSym (xs : List SymTx) : Option SymTx := xs.foldl (fun m x =>
  match m with
  | none => some x
  | some y => some (if x.body.prio < y.body.prio then x else y)) none

/-- One flit time of the control stream: a symbol begun goes on, or else the one of highest priority begins (R208). -/
def symStep (l : LinkId) : Act := fun s =>
  let r := s.link l
  let cur := match r.sym.find? (fun x => x.left != 0) with
    | some x => some (x, x)
    | none => (nextSym r.sym).map (fun x => (x, { x with body := stamp s.tim r.heard x.body, left := x.body.length }))
  match cur with
  | none => []
  | some (was, x) =>
    let third := if was.left == 0 && x.copies == 2 && x.body.thrice then [(x.body, s.tim.hall + 16000)] else []
    let fin := x.left == 1
    let x' : SymTx := { x with left := x.left - 1 }
    let again : SymTx := { body := stamp s.tim r.heard x.body, left := x.body.length, copies := x.copies - 1 }
    let pre := r.sym.takeWhile (fun y => decide (y ≠ was))
    let post := r.sym.drop (pre.length + 1)
    let mid := if !fin then [x'] else if 2 ≤ x.copies then [again] else []
    let next := if fin && x.copies == 1 then followElect s.tim.hall x.body (pre ++ post) else (pre ++ mid ++ post, [])
    Act.all [
      modLink l (fun r => { r with sym := next.1, third := r.third ++ third ++ next.2 }),
      Act.guard fin (Act.all [
        modOut (fun o => { o with symbols := o.symbols ++ [(linkIdx l, x.body)] }),
        count (ctrLink l.die l.link 0x14) 1])] s

/-- SYMBOL_THIRD_COPY (R208): the symbols whose first copy began 1 µs ago are sent once more. -/
def thirdCopy (l : LinkId) : Act := fun s =>
  let due := (s.link l).third.filter (fun e => decide (e.2 ≤ s.tim.hall))
  if (s.link l).state != linkUp then [] else
  modLink l (fun r => { r with
    sym := r.sym ++ due.map (fun e => { body := e.1, left := 0, copies := 1 }),
    third := r.third.filter (fun e => !decide (e.2 ≤ s.tim.hall)) }) s

def execSymbolThirdCopy (l : LinkId) (s : State) : Host.Outcome State Fault Refusal := .next ((thirdCopy l).run s)

/-- TIME_TRANSFER_SEND (R19): once per microsecond. -/
def timeSend (l : LinkId) : Act := fun s =>
  if (s.link l).state == linkUp && decide (16000 ≤ (s.tim.hall - (s.link l).lastTime).toNat) then
    Act.all [
      modLink l (fun r => { r with lastTime := s.tim.hall }),
      sendSym l (.time { hall := s.tim.hall, depth := s.tim.depth, state := s.tim.state, back := (s.link l).heard, fine := 0 })] s
  else []

def execTimeTransferSend (l : LinkId) (s : State) : Host.Outcome State Fault Refusal := .next ((timeSend l).run s)

/-- The position that an ACK names: every flit before it has arrived or has been named in a NAK (R207; DEDUCED, log entry 56: a
class-0 retransmission waits up to a period for its slot, R221, and the flits after it are acknowledged meanwhile). -/
def LinkReg.ackPos (r : LinkReg) : BitVec 16 := r.rxPos

/-- ACK_SEND (R207, R213): every 64 flit times, with the credits freed since the last. -/
def ackSend (l : LinkId) : Act := fun s =>
  let r := s.link l
  let now := s.tim.hall.toNat / 40
  if r.state == linkUp && decide (r.ackAt ≤ now) then
    Act.all [
      modLink l (fun r => { r with ackAt := now + 64, freed1 := 0, freed2 := 0, freed3 := 0, freed4 := 0 }),
      sendSym l (.ack r.ackPos [r.freed1, r.freed2, r.freed3, r.freed4])] s
  else []

def execAckSend (l : LinkId) (s : State) : Host.Outcome State Fault Refusal := .next ((ackSend l).run s)

/-! ### Sending -/

/-- The flit of a message at index `i`, padded with zeros. -/
def flitAt (t : TxMsg) (i : Nat) : List Byte := slice t.bytes (i * 256) 256

/-- Flits that a queue entry takes. -/
def TxMsg.flits (t : TxMsg) : Nat := max 1 (ceilDiv t.bytes.length 256)

/-- The envelope of a flit (R206); CTRL bits are free values (log entry 23). -/
def envelope (free vc hops route : Nat) (retx : Bool) (payload : List Byte) : BitVec 64 :=
  let high : BitVec 40 := pack 40 [(20, (Config.ctrlBits free).toNat), (17, vc), (16, b2n retx), (13, hops), (0, route)]
  pack 64 [(24, high.toNat), (0, crc24 payload high.toNat)]

/-- What a flit boundary sends. -/
inductive Pick where
  | new (t : TxMsg)
  | again (f : TxFlit)
  | idle
  deriving DecidableEq, Repr

/-- The message is a remote write, read or atomic: its devices, partitions and tag (R199). -/
def TxMsg.remoteKey (t : TxMsg) : Option (List Byte) :=
  if !t.transit && [1, 2, 6].contains (leAt t.bytes 6 1) then some (slice t.bytes 0 6 ++ slice t.bytes 12 2) else none

/-- A remote access waits for those of its source, tag and destination in other classes that the peer has not acknowledged: classes
pass one another on a link, and remote accesses of one tag apply in issue order (R199). That they cannot pass one another in the
queues of a device on the way is UNVERIFIED (log entry 124). -/
def behindOther (r : LinkReg) (t : TxMsg) : Bool := t.remoteKey.isSome &&
  ((r.txq.takeWhile (fun x => decide (x ≠ t))) ++ r.unacked.map (·.1)).any (fun x => x.cls != t.cls && x.remoteKey == t.remoteKey)

/-- The queue entry of a class whose flit is next: one already begun before the others. -/
def classHead (r : LinkReg) (c : Nat) : Option TxMsg :=
  match r.txq.find? (fun t => t.cls == c && t.sent != 0) with
  | some t => some t
  | none => (r.txq.find? (fun t => t.cls == c)).filter (fun t => !behindOther r t)

/-- Credits of a class (R213). -/
def LinkReg.credit (r : LinkReg) (c : Nat) : Nat :=
  match c with
  | 1 => r.credit1 | 2 => r.credit2 | 3 => r.credit3 | 4 => r.credit4 | _ => 0

/-- Takes and returns credits of a class. -/
def LinkReg.setCredit (r : LinkReg) (c v : Nat) : LinkReg :=
  match c with
  | 1 => { r with credit1 := v } | 2 => { r with credit2 := v } | 3 => { r with credit3 := v }
  | 4 => { r with credit4 := v } | _ => r

/-- The flit that a class could send now. -/
def classReady (r : LinkReg) (c : Nat) : Option TxMsg := if r.credit c = 0 then none else classHead r c

/-- Index of the tumbler table at a hall time (R214). -/
def slotNow (hall : BitVec 64) : Nat := hall.toNat / 640 % 4096

/-- The class 0 flit that the current slot is reserved for (R212, R215, R223). -/
def slotPick (s : State) (r : LinkReg) : Option TxMsg :=
  let i := slotNow s.tim.hall
  let e := Tab.get 0 r.tumbler i
  let part := fld e 24 5
  let ts := fld e 0 8
  if i == 4095 || !bit e 31 then none
  else if bit e 29 then r.txq.find? (fun t => t.cls == 0 && t.transit && t.route == fld e 12 12)
  else if bit e 30 && !primaryOut s part ts then none
  else r.txq.find? (fun t => t.cls == 0 && !t.transit && t.part == part && t.ts == ts)

/-- Weight of a class in the current round (R225). -/
def LinkReg.weight (r : LinkReg) (c : Nat) : Nat :=
  match c with
  | 1 => r.cur1.toNat | 2 => r.cur2.toNat | _ => r.cur3.toNat

/-- A new round of step 5, with the weights written meanwhile (R212, R225). -/
def newRound (r : LinkReg) : LinkReg :=
  { r with wrrTurn := 1, wrrCount := 0, cur1 := r.w1, cur2 := r.w2, cur3 := r.w3 }

/-- Step 5 of R212: the class that has the turn keeps it while it can, the turn passes on, and with class 3's turn the
round ends. -/
def wrrFuel (r : LinkReg) : Nat → Option (TxMsg × LinkReg)
  | 0 => none
  | f + 1 =>
    match classReady r r.wrrTurn with
    | some t =>
      if r.wrrCount < r.weight r.wrrTurn then some (t, { r with wrrCount := r.wrrCount + 1 })
      else wrrFuel (passTurn r) f
    | none => wrrFuel (passTurn r) f
where
  /-- The turn passes to the next class. -/
  passTurn (r : LinkReg) : LinkReg :=
    if r.wrrTurn < 3 then { r with wrrTurn := r.wrrTurn + 1, wrrCount := 0 } else newRound r

/-- The flit of a boundary by R212, with the link's arbitration state after it. A full retransmit buffer lets only idle flits
go (R207). -/
def pick (s : State) (r : LinkReg) : Pick × LinkReg :=
  let period := s.tim.hall.toNat / 2621440
  let r := if r.cls4Period == period then r else { r with cls4Period := period, cls4Used := 0 }
  let full := decide (1024 ≤ r.buf.length)
  let spare := slotNow s.tim.hall == 4095
  if full then (.idle, r) else
  match slotPick s r with
  | some t => (.new t, r)
  | none =>
    match (if spare then r.resend.find? (fun f => f.cls == 0) else none) with
    | some f => (.again f, r)
    | none =>
      match r.resend.find? (fun f => f.cls != 0) with
      | some f => (.again f, r)
      | none =>
        match (if r.cls4Used < 656 then classReady r 4 else none) with
        | some t => (.new t, { r with cls4Used := r.cls4Used + 1 })
        | none =>
          match wrrFuel r 6 with
          | some (t, r') => (.new t, r')
          | none =>
            match classReady r 4 with
            | some t => (.new t, { newRound r with cls4Used := r.cls4Used + 1 })
            | none => (.idle, newRound r)

/-- Counts of a boundary beside the flit itself (R352): credit stalls of classes 1 to 4, and a reserved slot left
unused. -/
def boundaryCounts (s : State) (l : LinkId) (r : LinkReg) (p : Pick) : Act :=
  let e := Tab.get 0 r.tumbler (slotNow s.tim.hall)
  let used := match p with
    | .new t => t.cls == 0
    | _ => false
  Act.all [
    Act.each ((List.range' 1 4).filter (fun c => r.credit c == 0 && (classHead r c).isSome))
      (fun c => count (ctrLink l.die l.link (0x0A + c)) 1),
    Act.guard (slotNow s.tim.hall != 4095 && bit e 31 && !used) (count (ctrLink l.die l.link 0x16) 1)]

/-- Master bit of the engine whose flits a class carries (R211, R356). -/
def classMaster (c : Nat) : Nat := if c < 2 then 4 else if c = 4 then 11 else 5

/-- The last flit of a message has left (R274): an outbound transfer of its partition. -/
def messageLeft (t : TxMsg) : Act := fun s =>
  match decodeMsg t.bytes, (s.part t.part).obj with
  | some m, some o =>
    if t.cls == 4 || t.transit || t.gone then []
    else recXfer t.part (xferOf s t.part (ownOf o s.hub.devno.toNat t.part m.srcOwn.toNat) true m) s
  | _, _ => []

/-- Sends a flit: it takes a position, and stays in the retransmit buffer unless it is idle (R207). -/
def emit (l : LinkId) (payload : List Byte) (vc hops route : Nat) (retx : Bool) (f : LinkReg → LinkReg) : Act := fun s =>
  let env := envelope s.free vc hops route retx payload
  Act.all [
    modLink l (fun r =>
      let r := f r
      { r with
        buf := if vc == 6 then r.buf else r.buf ++ [{ pos := r.txPos, cls := vc, env := env, payload := payload }],
        txPos := r.txPos + 1 }),
    modOut (fun o => { o with flits := o.flits ++ [(linkIdx l, { env := env, payload := payload, symErrs := 0 })] }),
    fun t => [.free (t.free + 1)]] s

/-- A flit boundary of a link direction (R206, R212). -/
def flitSend (l : LinkId) : Act := fun s =>
  let r := s.link l
  let now := s.tim.hall.toNat / 40
  if r.state != linkUp || decide (now < r.txFlit) then [] else
  let p := pick s r
  Act.all [
    boundaryCounts s l r p.1,
    fun s => modLink l (fun _ => { p.2 with txFlit := now + 1 }) s,
    match p.1 with
    | .new t =>
      let last := t.sent + 1 == t.flits
      let occ : Occ := { part := if t.transit then none else some t.part, master := classMaster t.cls, cls := some t.cls }
      Act.all [
        emit l (flitAt t t.sent) t.cls t.hops t.route false (fun r =>
          let r := if t.cls == 0 then r else r.setCredit t.cls (r.credit t.cls - 1)
          if last then { r with txq := r.txq.erase t,
                                unacked := r.unacked ++ [({ t with sent := 0, gone := true }, r.txPos)] }
          else { r with txq := r.txq.map (fun x => if x = t then { x with sent := x.sent + 1 } else x) }),
        countF (20 + l.die) (ctrLink l.die l.link t.cls) 1 occ,
        noteUse (if t.transit then 32 else t.part) l.die 1,
        Act.guard (!t.transit && decide (t.cls < 4)) (count (ctrBank t.part (0x1B + t.cls)) 1),
        Act.guard last (messageLeft t)]
    | .again f =>
      Act.all [
        emit l f.payload f.cls (fld f.env 37 3) (fld f.env 24 12) true (fun r => { r with
          resend := r.resend.erase f, buf := r.buf.erase f, retx := satAdd r.retx 1,
          unacked := r.unacked.map (fun e => (e.1, r.txPos)) }),
        count (ctrLink l.die l.link 0x0F) 1, noteUse 32 l.die 1,
        countF (20 + l.die) (ctrLink l.die l.link f.cls) 1 { master := classMaster f.cls, cls := some f.cls }]
    | .idle => Act.all [
        emit l (List.replicate 256 0) 6 0 0 false (fun r => r), count (ctrLink l.die l.link 0x0A) 1],
    symStep l] s

/-- FLIT_SEND (R206, R212). -/
def execFlitSend (l : LinkId) (s : State) : Host.Outcome State Fault Refusal := .next ((flitSend l).run s)

/-- True for a position before `pos`, modulo 2^16. -/
def posBefore (a pos : BitVec 16) : Bool := decide (0 < (pos - a).toNat) && decide ((pos - a).toNat ≤ 32768)

/-- ACK_RECEIVE (R207, R213): the flits before the position leave the buffer, but for those named in a NAK, and credits return.
A message stays to be resent on a detour (R223) while a flit named in a NAK waits. -/
def ackReceive (l : LinkId) (pos : BitVec 16) (credits : List Nat) : Act := fun s =>
  let give (c v : Nat) : Nat := min 256 (v + (credits[c]?).getD 0)
  modLink l (fun r => { r with
    buf := r.buf.filter (fun f => !posBefore f.pos pos || r.resend.contains f),
    unacked := r.unacked.filter (fun e => !posBefore e.2 pos || !r.resend.isEmpty),
    credit1 := give 0 r.credit1, credit2 := give 1 r.credit2, credit3 := give 2 r.credit3, credit4 := give 3 r.credit4 }) s

def execAckReceive (l : LinkId) (pos : BitVec 16) (credits : Copied (List Nat)) (s : State) :
    Host.Outcome State Fault Refusal :=
  .next ((recvSym l (.ack pos credits.sym) credits.copy (ackReceive l pos credits.sym)).run s)

/-- NAK_RECEIVE (R207): the named flit is to be sent again; more than 16 of class 0 set RETX_OVF (R225). -/
def nakReceive (l : LinkId) (pos : BitVec 16) : Act := fun s =>
  let r := s.link l
  match r.buf.find? (fun f => f.pos == pos) with
  | none => []
  | some f =>
    if r.resend.contains f then [] else
    Act.all [
      modLink l (fun r => { r with resend := r.resend ++ [f] }),
      Act.guard (f.cls == 0 && decide (16 ≤ (r.resend.filter (fun x => x.cls == 0)).length)) (linkErr l 4)] s

def execNakReceive (l : LinkId) (pos : Copied (BitVec 16)) (s : State) : Host.Outcome State Fault Refusal :=
  .next ((recvSym l (.nak pos.sym) pos.copy (nakReceive l pos.sym)).run s)

/-! ### Receiving -/

/-- A flit is handed on to the route of its input link (R219, R220). -/
def forward (l : LinkId) (cls hops : Nat) (e : BitVec 64) (payload : List Byte) : Act := fun s =>
  if hops == 4 then
    Act.all [linkErr l 3, count (ctrDie l.die 0x08) 1, fltEvent (dieLink l.die) l.link .hopsDrop none 0] s
  else
    let prim : LinkId := ⟨fld e 60 2, fld e 55 5⟩
    let alt : LinkId := ⟨fld e 40 2, fld e 35 5⟩
    let useAlt := linkOut (s.link prim)
    let out := if useAlt then alt else prim
    if useAlt && (!bit e 42 || linkOut (s.link alt)) then routeDrop l s
    else Act.all [
      enqueue out {
        cls := cls, part := fld e 18 5, ts := 0, route := if useAlt then fld e 23 12 else fld e 43 12, bytes := payload,
        sent := 0, transit := true, hops := hops + 1,
        alt := if !useAlt && bit e 42 then some (alt.die, alt.link, fld e 23 12) else none },
      countF (20 + l.die) (ctrLink l.die l.link 0x13) 1 { master := classMaster cls, cls := some cls }] s

/-- A flit for this device joins the message of its class and route (DESIGN CHOICE, log entry 50); a whole message
waits to land. -/
def assemble (l : LinkId) (cls route : Nat) (payload : List Byte) : Act := fun s =>
  let r := s.link l
  let have' := ((r.partials.find? (fun e => e.1 == cls && e.2.1 == route)).map (·.2.2)).getD []
  let all := have' ++ payload
  let rest := r.partials.filter (fun e => !(e.1 == cls && e.2.1 == route))
  let part := leAt all 4 1 % 32
  Act.all [
    Act.guard (decide (cls < 4)) (count (ctrBank part (0x1F + cls)) 1), noteUse part l.die 1,
    (if (leAt all 7 1 % 64 + 1) * 256 ≤ all.length then
      match decodeMsg all with
      | some m => modLink l (fun r => { r with partials := rest, rxMsgs := r.rxMsgs ++ [(cls, m)] })
      | none => Act.all [modLink l (fun r => { r with partials := rest }), freeCredits l cls (all.length / 256)]
    else modLink l (fun r => { r with partials := rest ++ [(cls, route, all)] }))] s

/-- A flit that passed its check and waits for none before it is delivered or forwarded (R207, R220). -/
def passFlit (l : LinkId) (f : TxFlit) : Act := fun s =>
  let route := fld f.env 24 12
  let e := Tab.get 0 (s.link l).route route
  Act.all [
    countF (20 + l.die) (ctrLink l.die l.link (5 + f.cls)) 1 { master := 6, cls := some f.cls },
    (if route == 0 || (bit e 63 && bit e 62) then assemble l f.cls route f.payload
     else Act.all [
       if bit e 63 then forward l f.cls (fld f.env 37 3) e f.payload else routeDrop l,
       freeCredits l f.cls 1])] s

/-- Flits held back of a class that nothing missing precedes any more (R207). -/
def releaseHeldFuel (l : LinkId) (c : Nat) : Nat → Act
  | 0, _ => []
  | n + 1, s =>
    let r := s.link l
    match r.rxHeld.find? (fun f => f.cls == c) with
    | none => []
    | some f =>
      if r.missing.any (fun m => m.1 == c && posBefore m.2 f.pos) then [] else
      let e := Act.all [modLink l (fun r => { r with rxHeld := r.rxHeld.erase f }), passFlit l f] s
      e ++ releaseHeldFuel l c n (applyAll e s)

def releaseHeld (l : LinkId) (c : Nat) : Act := fun s => releaseHeldFuel l c (s.link l).rxHeld.length s

/-- The place among the flits held back that a flit's position gives it. -/
def holdFlit (f : TxFlit) (xs : List TxFlit) : List TxFlit :=
  xs.takeWhile (fun g => posBefore g.pos f.pos) ++ f :: xs.dropWhile (fun g => posBefore g.pos f.pos)

/-- The retransmission of the first missing flit of its class arrives: it takes that flit's place in the order (R207). -/
def fillMissing (l : LinkId) (f : TxFlit) : Act := fun s =>
  match (s.link l).missing.find? (fun m => m.1 == f.cls) with
  | none => passFlit l f s
  | some m => Act.all [
      modLink l (fun r => { r with missing := r.missing.erase m, rxHeld := holdFlit { f with pos := m.2 } r.rxHeld }),
      releaseHeld l f.cls] s

/-- The retransmission of the first missing flit of a class was bad: named again, it comes after the others (R207). -/
def missAgain (l : LinkId) (vc : Nat) : Act := modLink l (fun r =>
  match r.missing.find? (fun m => m.1 == vc) with
  | none => r
  | some m => { r with missing := r.missing.erase m ++ [m] })

/-- Symbols in error that FEC corrects in a codeword (R205). -/
def fecLimit : Nat := 15

/-- FLIT_RECEIVE (R205 to R207): a bad flit is named in a NAK; its class is read from the envelope as received (DESIGN
CHOICE, log entry 53). A good one is passed on in the order of its class. -/
def flitReceive (l : LinkId) (f : Flit) : Act := fun s =>
  let r := s.link l
  if r.state != linkUp then [] else
  let fecOk := decide (f.symErrs ≤ fecLimit)
  let pos := r.rxPos
  let vc := fld f.env 41 3
  let retx := bit f.env 40
  let crcOk := fld f.env 0 24 == crc24 f.payload (fld f.env 24 40) && vc != 5 && vc != 7
  let flit : TxFlit := { pos := pos, cls := vc, env := f.env, payload := f.payload }
  Act.all [
    modLink l (fun r => { r with rxPos := r.rxPos + 1 }),
    Act.guard (fecOk && f.symErrs != 0) (count (ctrLink l.die l.link 0x10) f.symErrs),
    (if !fecOk || !crcOk then Act.all [
       Act.guard (!fecOk) (count (ctrLink l.die l.link 0x11) 1),
       Act.guard (fecOk && !crcOk) (count (ctrLink l.die l.link 0x12) 1),
       sendSym l (.nak pos),
       if 4 < vc then Act.skip
       else if retx then missAgain l vc
       else modLink l (fun r => { r with missing := r.missing ++ [(vc, pos)] })]
     else Act.all [
       modLink l (fun r => { r with rxLast := s.tim.hall }),
       if vc == 6 then Act.skip
       else if retx then fillMissing l flit
       else if r.missing.any (fun m => m.1 == vc) then modLink l (fun r => { r with rxHeld := r.rxHeld ++ [flit] })
       else passFlit l flit])] s

def execFlitReceive (l : LinkId) (f : Flit) (s : State) : Host.Outcome State Fault Refusal :=
  .next ((flitReceive l f).run s)

/-- HOLD_SYMBOL_RECEIVE (R29, R32): forwarded once, a repeat dropped, and taken for its EFFECT time; one that arrives
after it is applied at once and breaks the domain. -/
def holdSymbol (l : LinkId) (h : HoldSym) : Act := fun s =>
  Act.all [
    count (ctrLink l.die l.link 0x15) 1,
    if s.tim.seen.contains (h.source.toNat, h.seq.toNat) then Act.skip
    else Act.all [
      noteSeen h.source h.seq,
      floodSym (some l) (.hold h),
      Act.each (allParts.filter (fun n => (s.dom n).active && (s.dom n).domain == h.domain)) (fun n =>
        let rec' : HoldRec := { source := h.source, seq := h.seq, release := h.release, effect := h.effect, taken := false }
        if decide (h.effect < s.tim.hall) then Act.all [
          modDom n (fun d => ({ d with holds := d.holds ++ [{ rec' with taken := true }], broken := true } : Dom).settle s.tim.hall),
          timInt 4, raiseHold n, fltEvent dieHub 1 .holdLate (some n) 1]
        else modDom n (fun d => { d with holds := d.holds ++ [rec'] }))]] s

def execHoldSymbolReceive (l : LinkId) (h : Copied HoldSym) (s : State) : Host.Outcome State Fault Refusal :=
  .next ((recvSym l (.hold h.sym) h.copy (holdSymbol l h.sym)).run s)

/-- HASP_SYMBOL_RECEIVE (R166): taken by the partition of the domain with index `dst`, or sent on toward it. -/
def haspSymbol (y : HaspSym) : Act := fun s =>
  match (allParts.filter (fun n => (s.dom n).active && (s.dom n).domain == y.domain && (s.part n).obj.isSome)).head? with
  | none => []
  | some n =>
    match (s.part n).obj with
    | none => []
    | some o => if domainIndex s o n == y.dst then throughHub n y s else sendHasp n y s

def execHaspSymbolReceive (l : LinkId) (y : Copied HaspSym) (s : State) : Host.Outcome State Fault Refusal :=
  .next ((recvSym l (.hasp y.sym) y.copy (haspSymbol y.sym)).run s)

/-! ### Failures and training -/

/-- Puts the messages of a failed link on their detours (R223): whole messages (DESIGN CHOICE, log entry 51). -/
def repost (l : LinkId) (ts : List TxMsg) : Act := Act.each ts (fun t =>
  match t.alt with
  | some (d, k, route) => enqueue ⟨d, k⟩ { t with route := route, sent := 0, alt := none }
  | none => routeDrop l)

/-- A link becomes FAILED (R223): its traffic moves to detours, and the loss of the time parent is handled (R21). -/
def linkFail (l : LinkId) : Act := fun s =>
  let r := s.link l
  if r.state == linkFailed then [] else
  let ts := r.unacked.map (·.1) ++ r.txq
  Act.all [
    modLink l (fun r => { r with
      state := linkFailed, detour := true, txq := [], buf := [], resend := [], unacked := [], sym := [], third := [],
      missing := [], rxHeld := [], partials := [], symActed := false, symDone := [], heard := none, nTime := none,
      nCand := none, dataOk := false }),
    repost l ts,
    fltEvent (dieLink l.die) l.link .linkFailed none 1,
    Act.guard (s.tim.state == .locked && s.tim.parent == l) enterHoldover,
    checkRepl, topoFlood] s

/-- LANE_FAILURE (R222): lane 4 takes over from the next slot; a second failure fails the link. -/
def laneFail (l : LinkId) (lane : Nat) : Act := fun s =>
  let r := s.link l
  if r.state != linkUp || (r.spareIn && r.spareFor.toNat == lane) then []
  else if r.spareIn || r.spareBad then linkFail l s
  else if lane == 4 then modLink l (fun r => { r with spareBad := true }) s
  else Act.all [
    modLink l (fun r => { r with spareIn := true, spareFor := BitVec.ofNat 2 lane }),
    sendSym l (.lane lane), checkRepl] s

def execLaneFailure (l : LinkId) (lane : Nat) (s : State) : Host.Outcome State Fault Refusal :=
  .next ((laneFail l lane).run s)

/-- LANE_SYMBOL_RECEIVE (R222): the peer has seen a lane fail; both ends use lane 4 for it. -/
def execLaneSymbolReceive (l : LinkId) (lane : Copied Nat) (s : State) : Host.Outcome State Fault Refusal :=
  .next ((recvSym l (.lane lane.sym) lane.copy (laneFail l lane.sym)).run s)

/-- LINK_SILENCE_TIMEOUT (R223): 1 µs without a flit that passes its check. -/
def silence (l : LinkId) : Act := fun s =>
  if (s.link l).state == linkUp && decide (16000 ≤ (s.tim.hall - (s.link l).rxLast).toNat) then linkFail l s else []

def execLinkSilenceTimeout (l : LinkId) (s : State) : Host.Outcome State Fault Refusal := .next ((silence l).run s)

/-- STATUS.STATE of a link that trains (R225). -/
def linkTraining : Nat := 1

/-- LINK_TRAINED (R365, R375, R376): the link comes UP, with time and candidates; one that was FAILED carries no data
until the partitions that use it are loaded again. -/
def trained (l : LinkId) (peer : BitVec 16) (pdie : BitVec 2) (plink : BitVec 5) (delay : BitVec 16) : Act := fun s =>
  let r := s.link l
  if s.hub.stopped || !s.fuses.linkPresent.getLsbD l.die || !(s.die l.die).calDone || r.disable ||
      !(r.state == linkTraining || r.state == linkFailed) then []
  else Act.all [
    modLink l (fun r => { r with
      state := linkUp, peerValid := true, pdev := peer, pdie := pdie, plink := plink, delay := delay,
      long := decide (320 < delay.toNat), spareIn := false, spareFor := 0, spareBad := false,
      dataOk := r.state == linkTraining && r.dataOk,
      txPos := 0, rxPos := 0, txFlit := 0, ackAt := s.tim.hall.toNat / 40 + 64, credit1 := 256, credit2 := 256,
      credit3 := 256, credit4 := 256, freed1 := 0, freed2 := 0, freed3 := 0, freed4 := 0, wrrTurn := 1, wrrCount := 0,
      rxLast := s.tim.hall, lastTime := s.tim.hall - 16000, symActed := false, symDone := [], heard := none, nTime := none,
      nCand := none }),
    Act.guard (s.tim.state == .unlocked) (modTim (fun t => { t with lastLower := t.hall })),
    Act.guard (s.tim.state == .unlocked && !s.tim.settled) selfCand,
    fun s => Act.guard (electing s && s.tim.hasCand) (sendCand l { s.tim.cand with settled := false }) s,
    topoFlood] s

def execLinkTrained (l : LinkId) (peer : BitVec 16) (pdie : BitVec 2) (plink : BitVec 5) (delay : BitVec 16) (s : State) :
    Host.Outcome State Fault Refusal := .next ((trained l peer pdie plink delay).run s)

/-- SERDES_ADAPTATION_END (R365): a link die begins to train its links, without waiting for phase 5. -/
def serdesEnd (die : Nat) : Act := fun s =>
  if s.hub.stopped || !s.fuses.linkPresent.getLsbD die || (s.die die).calDone || (s.link ⟨die, 0⟩).state == linkFailed then []
  else Act.all [
    modDie die (fun d => { d with calDone := true }),
    Act.each ((List.range 24).map (fun i => (⟨die, i⟩ : LinkId))) (fun l =>
      Act.when (fun s => !(s.link l).disable) (modLink l (fun r => { r with state := linkTraining }))),
    Act.guard (s.tim.state == .unlocked) (modTim (fun t => { t with lastLower := t.hall }))] s

def execSerdesAdaptationEnd (die : Nat) (s : State) : Host.Outcome State Fault Refusal := .next ((serdesEnd die).run s)

end Sys2Proof.Machine
end

