-- ==== Sys2Proof/Machine/Sha.lean ====
section
/-!
DEFINITION. SHA-256 (R294, R339), SHA-384 (R296, R342), HMAC and HKDF over SHA-384 (R345): the public standards that the
specification names (FIPS 180-4, RFC 2104, RFC 5869). The constants are computed from the primes, as the standard defines them.
-/
namespace Sys2Proof.Machine

/-! ### Constants -/

/-- The primes below 23, which are enough to find the others below 529. -/
def lowPrimes : List Nat := [2, 3, 5, 7, 11, 13, 17, 19]

/-- The first 80 primes: 409 is the last. -/
def shaPrimes : List Nat := lowPrimes ++ (List.range' 23 387).filter (fun n => lowPrimes.all (fun q => n % q != 0))

/-- The largest number below 2^67 whose power of exponent `e` is at most `n`, bit by bit from the highest. -/
def rootBelow (e n : Nat) : Nat → Nat → Nat
  | 0, r => r
  | i + 1, r => rootBelow e n i (if (r + 2 ^ i) ^ e ≤ n then r + 2 ^ i else r)

/-- The first 64 bits of the fraction of the root of exponent `e` of a prime below 512. -/
def rootBits (e q : Nat) : Nat := rootBelow e (q * 2 ^ (64 * e)) 67 0 % 2 ^ 64

/-- What tells the two functions apart: bits of a word, rounds, the round constants, the starting values, words of the digest, and the
turns of the four mixing functions. The last two turn twice and shift once. -/
structure Sha where
  bits : Nat
  rounds : Nat
  consts : List Nat
  start : List Nat
  words : Nat
  mixA : List Nat
  mixE : List Nat
  near : List Nat × Nat
  far : List Nat × Nat

/-- SHA-256: 32 bits of the roots, and the square roots of the first eight primes. -/
def sha256Par : Sha := {
  bits := 32, rounds := 64, words := 8
  consts := (shaPrimes.take 64).map (fun q => rootBits 3 q / 2 ^ 32)
  start := (shaPrimes.take 8).map (fun q => rootBits 2 q / 2 ^ 32)
  mixA := [2, 13, 22], mixE := [6, 11, 25], far := ([7, 18], 3), near := ([17, 19], 10) }

/-- SHA-384: 64 bits of the roots, and the square roots of the ninth to the sixteenth prime. -/
def sha384Par : Sha := {
  bits := 64, rounds := 80, words := 6
  consts := shaPrimes.map (rootBits 3)
  start := ((shaPrimes.drop 8).take 8).map (rootBits 2)
  mixA := [28, 34, 39], mixE := [14, 18, 41], far := ([1, 8], 7), near := ([19, 61], 6) }

/-! ### Words -/

/-- A word, cut to its width. -/
def Sha.word (p : Sha) (x : Nat) : Nat := x % 2 ^ p.bits

/-- The sum modulo 2 of a word turned right by each of the amounts, and of `x0`. -/
def Sha.mix (p : Sha) (turns : List Nat) (x x0 : Nat) : Nat :=
  turns.foldl (fun acc n => acc ^^^ (x / 2 ^ n + p.word (x * 2 ^ (p.bits - n)))) x0

/-- Bits of `x` where `e` has ones, and of `y` where it has zeros. -/
def Sha.pickBits (p : Sha) (e x y : Nat) : Nat := (e &&& x) + ((2 ^ p.bits - 1 - e) &&& y)

/-- Bits that two of three words or more have. -/
def twoOfThree (x y z : Nat) : Nat := (x &&& y) ||| ((x ||| y) &&& z)

/-! ### Rounds -/

/-- What a round works on: the last four values of either register, newest first, and the next sixteen words of the schedule, oldest
first. -/
structure ShaWork where
  a : List Nat
  e : List Nat
  next : List Nat

/-- The word that the schedule continues with. -/
def Sha.scheduled (p : Sha) (next : List Nat) : Nat :=
  let at? (i : Nat) : Nat := (next[i]?).getD 0
  p.word (p.mix p.near.1 (at? 14) (at? 14 / 2 ^ p.near.2) + p.mix p.far.1 (at? 1) (at? 1 / 2 ^ p.far.2) + at? 9 + at? 0)

/-- One round with constant `k`: the value of `e` four rounds back and that of `a` meet in the new ones. -/
def Sha.step (p : Sha) (s : ShaWork) (k : Nat) : ShaWork := match s.a, s.e with
  | [a1, a2, a3, a4], [e1, e2, e3, e4] =>
    let t := e4 + k + (s.next.headD 0) + p.mix p.mixE e1 0 + p.pickBits e1 e2 e3
    { a := [p.word (t + p.mix p.mixA a1 0 + twoOfThree a1 a2 a3), a1, a2, a3]
      e := [p.word (t + a4), e1, e2, e3]
      next := s.next.drop 1 ++ [p.scheduled s.next] }
  | _, _ => s

/-- A block is taken into the chaining value. -/
def Sha.absorb (p : Sha) (v : List Nat) (blk : List Byte) : List Nat :=
  let s := (p.consts.take p.rounds).foldl p.step
    { a := v.take 4, e := v.drop 4, next := (chunks (p.bits / 8) blk).map beNat }
  List.zipWith (fun x y => p.word (x + y)) v (s.a ++ s.e)

/-- What follows a message of `n` bytes: a one bit, zeros up to a whole number of blocks, and the length in bits. -/
def Sha.tail (p : Sha) (n : Nat) : List Byte :=
  let blk := 2 * p.bits
  let field := p.bits / 4
  0x80 :: beBytes (roundUp (n + 1 + field) blk - n - 1) (8 * n)

/-- The digest of a message. -/
def Sha.digest (p : Sha) (m : List Byte) : List Byte :=
  let v := (chunks (2 * p.bits) (m ++ p.tail m.length)).foldl p.absorb p.start
  (v.take p.words).flatMap (beBytes (p.bits / 8))

def sha256 (m : List Byte) : List Byte := sha256Par.digest m
def sha384 (m : List Byte) : List Byte := sha384Par.digest m

/-- Bytes of a block of SHA-384. -/
def hmacBlock : Nat := 128

/-- HMAC over SHA-384. -/
def hmac384 (key m : List Byte) : List Byte :=
  let short := if hmacBlock < key.length then sha384 key else key
  let padded (mask : Byte) : List Byte := (slice short 0 hmacBlock).map (mask ^^^ ·)
  sha384 (padded 0x5C ++ sha384 (padded 0x36 ++ m))

/-- HKDF over SHA-384 with at most 48 bytes of output (R345): one block of its expansion is enough. -/
def hkdf384 (secret salt info : List Byte) (n : Nat) : List Byte :=
  let prk := hmac384 salt secret
  (hmac384 prk (info ++ [1])).take n

end Sys2Proof.Machine
end

