-- ==== Sys2Proof/Machine/Ecc.lean ====
section
/-!
DEFINITION. ECDSA and ECDH on the curve P-384 (R285, R296, R342, R345, R367): the public standard that the specification
names (FIPS 186, SP 800-56A).
-/
namespace Sys2Proof.Machine

def p384P : Nat := 2 ^ 384 - 2 ^ 128 - 2 ^ 96 + 2 ^ 32 - 1
def p384N : Nat :=
  0xffffffffffffffffffffffffffffffffffffffffffffffffc7634d81f4372ddf581a0db248b0a77aecec196accc52973
def p384B : Nat :=
  0xb3312fa7e23ee7e4988e056be3f82d19181d9c6efe8141120314088f5013875ac656398d8a2ed19d2a85c8edd3ec2aef
def p384G : Nat × Nat :=
  (0xaa87ca22be8b05378eb1c71ef320ad746e1d3b628ba79b9859f741e082542a385502f25dbf55296c3a545e3872760ab7,
   0x3617de4a96262c6f5d9e98bf9292dc29f8f41dbd289a147ce9da3113b5f0b8c00a60b1ce1d7e819d7a431d7c90ea0e5f)

/-- Modular power by squaring, over `k` bits of the exponent. -/
def powMod (m b : Nat) : Nat → Nat → Nat
  | 0, _ => 1 % m
  | k + 1, e =>
    let r := powMod m b k (e / 2)
    if e % 2 = 1 then r * r % m * b % m else r * r % m

/-- Inverse modulo a prime. -/
def invMod (m a : Nat) : Nat := powMod m (a % m) 384 (m - 2)

/-- Difference modulo p. -/
def subP (a b : Nat) : Nat := (a + p384P - b % p384P) % p384P

/-- A point in Jacobian coordinates; Z = 0 is the point at infinity. -/
structure JPoint where
  x : Nat
  y : Nat
  z : Nat

def JPoint.inf : JPoint := { x := 1, y := 1, z := 0 }

/-- Doubling on y² = x³ − 3x + b. -/
def JPoint.double (a : JPoint) : JPoint :=
  let p := p384P
  let d := a.z * a.z % p
  let g := a.y * a.y % p
  let be := a.x * g % p
  let al := 3 * (subP a.x d * (a.x + d) % p) % p
  let x3 := subP (al * al % p) (8 * be)
  let z3 := subP (subP ((a.y + a.z) * (a.y + a.z) % p) g) d
  { x := x3, y := subP (al * subP (4 * be) x3 % p) (8 * (g * g % p)), z := z3 }

/-- Addition. -/
def JPoint.add (a b : JPoint) : JPoint :=
  if a.z = 0 then b else if b.z = 0 then a else
  let p := p384P
  let z1 := a.z * a.z % p
  let z2 := b.z * b.z % p
  let u1 := a.x * z2 % p
  let u2 := b.x * z1 % p
  let s1 := a.y * (b.z * z2 % p) % p
  let s2 := b.y * (a.z * z1 % p) % p
  if u1 = u2 then (if s1 = s2 then a.double else .inf) else
  let h := subP u2 u1
  let r := subP s2 s1
  let h2 := h * h % p
  let h3 := h * h2 % p
  let v := u1 * h2 % p
  let x3 := subP (subP (r * r % p) h3) (2 * v)
  { x := x3, y := subP (r * subP v x3 % p) (s1 * h3), z := h * (a.z * b.z % p) % p }

/-- Multiple of a point, over `k` bits of the scalar. -/
def JPoint.mul (a : JPoint) : Nat → Nat → JPoint
  | 0, _ => .inf
  | k + 1, e =>
    let r := (JPoint.mul a k (e / 2)).double
    if e % 2 = 1 then r.add a else r

/-- Affine coordinates; (0, 0) for the point at infinity. -/
def JPoint.affine (a : JPoint) : Nat × Nat :=
  if a.z = 0 then (0, 0) else
  let i := invMod p384P a.z
  let i2 := i * i % p384P
  (a.x * i2 % p384P, a.y * (i2 * i % p384P) % p384P)

/-- `k` times an affine point. -/
def p384Mul (k : Nat) (q : Nat × Nat) : JPoint := JPoint.mul { x := q.1, y := q.2, z := 1 } 384 k

/-- An affine point of the curve. -/
def p384On (q : Nat × Nat) : Bool :=
  decide (q.1 < p384P) && decide (q.2 < p384P) &&
    q.2 * q.2 % p384P == (q.1 * q.1 % p384P * q.1 + p384B + (p384P - 3) * q.1) % p384P

/-- A secret scalar from an unbounded random number. -/
def p384Scalar (r : Nat) : Nat := 1 + r % (p384N - 1)

/-- The public key of a secret scalar, uncompressed (R342). -/
def p384Public (d : Nat) : List Byte :=
  let q := (p384Mul d p384G).affine
  [0x04] ++ beBytes 48 q.1 ++ beBytes 48 q.2

/-- The signature r, s over SHA-384 of a message, each 48 bytes big-endian, with key `d` and nonce `k` (R342). -/
def p384Sign (d k : Nat) (m : List Byte) : List Byte :=
  let z := beNat (sha384 m)
  let r := (p384Mul k p384G).affine.1 % p384N
  let s := invMod p384N k * ((z + r * d) % p384N) % p384N
  beBytes 48 r ++ beBytes 48 s

/-- Verification of a signature under a public key (R367). -/
def p384Verify (q : Nat × Nat) (m sig : List Byte) : Bool :=
  let r := beNat (slice sig 0 48)
  let s := beNat (slice sig 48 48)
  let w := invMod p384N s
  let z := beNat (sha384 m)
  let x := ((p384Mul (z * w % p384N) p384G).add (p384Mul (r * w % p384N) q)).affine.1
  decide (0 < r) && decide (r < p384N) && decide (0 < s) && decide (s < p384N) && p384On q && x % p384N == r

/-- The X coordinate of the ECDH product, 48 bytes (R345); nothing for bytes that are no point of the curve. -/
def p384Ecdh (d : Nat) (peer : List Byte) : Option (List Byte) :=
  let q := (beNat (slice peer 1 48), beNat (slice peer 49 48))
  if slice peer 0 1 == [0x04] && p384On q then some (beBytes 48 (p384Mul d q).affine.1) else none

end Sys2Proof.Machine
end

