-- ==== Sys2Proof/Machine/Cell.lean ====
section
/-!
DEFINITION. The tensor cell instructions (R103 to R122), with the sampling for shadowing (R119 to R121, R308).
-/
namespace Sys2Proof.Machine

/-! ### The storage of a cell (R103, R105, R108) -/

/-- The logical cell that an instruction runs on. -/
structure CellRef where
  own : Nat
  lq : Nat
  j : Nat

/-- Bytes of a cell store and rows of a total buffer (R103). -/
def storeSize : Nat := 0x800000
def tbRows : Nat := 1024

/-- Partition-logical address of a cell's store. -/
def CellRef.base (r : CellRef) (p : Part) : Nat := match p.obj with
  | some o => storeBase o r.lq r.j
  | none => 0

/-- Number of the storage that holds a cell's total buffer. -/
def CellRef.tb (r : CellRef) (p : Part) : Nat := (p.cellOf r.own r.lq r.j).getD 0

/-- The parts of store ranges (offset, length) that lie in the store. -/
def inStore (rs : List (Nat × Nat)) : List (Nat × Nat) :=
  rs.filterMap (fun x => if x.1 < storeSize then some (x.1, min x.2 (storeSize - x.1)) else none)

/-- `len` bytes of a cell store: zeros past its end (R108). -/
def storeRead (s : State) (n : Nat) (r : CellRef) (off len : Nat) : List Byte :=
  slice (readL s n r.own (r.base (s.part n) + off) (min len (storeSize - off))) 0 len

/-- A write of bytes into a cell store: dropped past its end (R108). -/
def storeWrite (p : Part) (r : CellRef) (off : Nat) (bs : List Byte) : Wr :=
  .mem r.own (r.base p + off) (bs.take (storeSize - off))

/-- The first byte address past the store among ranges (R108). -/
def storeWard (p : Part) (r : CellRef) (rs : List (Nat × Nat)) : Option Nat :=
  (rs.find? (fun x => decide (storeSize < x.1 + x.2))).map (fun x => r.base p + max storeSize x.1)

/-- The 256 lanes of a total buffer row: +0 past its end (R108). -/
def tbRow (s : State) (k row : Nat) : List (BitVec 64) :=
  (List.range 256).map (fun i => if row < tbRows then Tab.get 0 s.store.tb ((k * tbRows + row) * 256 + i) else 0)

/-- A write of lanes of a total buffer row from `lane` up: dropped past its end (R108). -/
def tbWrite (k row lane : Nat) (vs : List (BitVec 64)) : List Wr :=
  if row < tbRows then [.tb k (row * 256 + lane) vs] else []

/-- A range of total buffer rows that leaves it breaks the ward (R108). A row has no partition-logical address, so the ADDR
that R94 captures is 0 (DESIGN CHOICE, log entry 106). -/
def tbWard (row count : Nat) : Option Nat := if tbRows < row + count then some 0 else none

def tbRng (k row count : Nat) : Rng := { space := .tb k, lo := row, hi := min tbRows (row + count) }

/-- Store ranges as ranges of the address space. -/
def storeRngs (p : Part) (r : CellRef) (rs : List (Nat × Nat)) : List Rng :=
  (inStore rs).map (fun x => memRng r.own (r.base p + x.1) x.2)

def memRngs (own : Nat) (rs : List (Nat × Nat)) : List Rng := rs.map (fun x => memRng own x.1 x.2)

/-- The address that a WARD fault captures when several ranges of an instruction break the ward: that of the first of them in
the order in which the meaning lists its ranges. No rule says which (DESIGN CHOICE, log entry 106). -/
def firstWard : List (Option Nat) → Option Nat
  | [] => none
  | some a :: _ => some a
  | none :: t => firstWard t

/-! ### Issue to a cell (R107, R264) -/

/-- A cell that a UU stream of its quarter has borrowed (R264). -/
def borrowed (r : Run) (x : CellRef) : Bool :=
  r.streams.any (fun t => t.sid.kind == .uu && t.sid.own == x.own && t.sid.unit == x.lq && bit t.bmask x.j)

/-- Frames that the rings of the resident queues take. -/
def ringFrames (s : State) (p : Part) : Nat :=
  ceilDiv ((p.bind.queues.map (fun e => 2 ^ (s.queue e.2).log2.toNat * 16)).sum) pageSize

/-- The frames of the swap area in which a logical cell that shares a physical one keeps its image (R314): five of the ten of its
pair, those of the fenced cell first. -/
def swapFrames (s : State) (p : Part) (key : Nat) : List Nat :=
  let pair := key - key % 4 + (key % 4 ^^^ 1)
  let area (i : Nat) : List Nat := (p.run.swapReserved.drop (ringFrames s p + 5 * i)).take 5
  match p.bind.muxed.findIdx? (· == key), p.bind.muxed.findIdx? (· == pair) with
  | some i, _ => area (2 * i)
  | none, some i => area (2 * i + 1)
  | none, none => []

/-- The image of a cell: its store, then the lanes of its total buffer (R314; the layout is a DESIGN CHOICE, log entry 120). -/
def cellImage (s : State) (k : Nat) : List Byte :=
  (List.range storeSize).map (fun i => s.store.mem.read (sramBase + k / 18 * 0x10000000 + 0x4000000 + k % 18 * 0x800000 + i)) ++
  (List.range (tbRows * 256)).flatMap (fun i => leBytes 8 (Tab.get 0 s.store.tb (k * (tbRows * 256) + i)).toNat)

/-- The image that stands in storage `k` is written out to the swap area (R314). -/
def swapOut (n k : Nat) : Act := fun s =>
  let p := s.part n
  match p.bind.cells.find? (fun e => e.2 == k) with
  | none => []
  | some (key, _) => Act.each ((swapFrames s p key).zip (chunks pageSize (cellImage s k))) (fun e =>
      Act.all [poke (e.1 * pageSize) e.2, frameDirty n e.1]) s

/-- The logical cell whose storage is `k` becomes the resident one of physical cell `c` (R314): the image of another goes out to the
swap area. What comes in is what the model keeps of the logical cell (log entry 120). -/
def swapIn (n c k : Nat) : Act := fun s => Act.all [
  (match (s.cell c).resident with
    | some a => Act.guard (a != k && !(s.part n).bind.muxed.isEmpty) (swapOut n a)
    | none => Act.skip),
  modCell c (fun y => { y with resident := some k })] s

/-- The cell of an instruction, and what keeps it from one: a UU stream outside a borrow faults, and the CELL stream of a
borrowed cell waits (R264). A `UBOR` in flight has not borrowed yet: what follows it waits (DEDUCED, log entry 68). A shared cell makes the logical cell's image the resident one (R314). -/
def onCell (f : CellRef → Ctx → Verdict) (c : Ctx) : Verdict :=
  let r : CellRef := { own := c.sid.own, lq := c.sid.unit, j := cellNo c.st }
  let run : Verdict := match f r c with
    | .go g => .go { g with
        act := fun id => Act.all [swapIn c.n ((c.p.execCell r.own r.lq r.j).getD 0) (r.tb c.p), g.act id] }
    | v => v
  if c.sid.kind == .uu then (if c.p.run.ops.any (fun o => o.sid == c.sid && opc o.word == 0x54) then .wait 6
    else if c.st.bmask == 0 then .fault .illegal 4 0 else run)
  else if borrowed c.p.run r then .wait 6 else run

/-- Planned duration of a transfer with a cell store (R111), by a cell whichever stream issues it (R264). -/
def cellDur (c : Ctx) (rs : List (Nat × Nat)) (len : Nat) : Nat :=
  let lr := plan c.p c.sid.own { c.eng with peak0 := cellPeak } rs
  duration (lr.1, min lr.2 (256 * 1024)) len

/-! ### CLD and CST (R110) -/

def rowBytes (w : InsnWord) : Nat := (fld w 28 8 + 1) * 128
def rowCount (w : InsnWord) : Nat := fld w 36 12 + 1

/-- The memory rows of a transfer: address and length. -/
def memRows (w : InsnWord) : List (Nat × Nat) :=
  (List.range (rowCount w)).map (fun r => ((fld w 64 40 + r * fld w 0 28) * 16, rowBytes w))

/-- The store rows of a transfer, contiguous. -/
def storeRows (w : InsnWord) : List (Nat × Nat) :=
  (List.range (rowCount w)).map (fun r => (fld w 48 16 * 128 + r * rowBytes w, rowBytes w))

def storeSpan (w : InsnWord) : Nat × Nat := (fld w 48 16 * 128, rowCount w * rowBytes w)

/-- What a CLD writes. -/
def cldWrites (s : State) (n : Nat) (r : CellRef) (w : InsnWord) : List Wr :=
  List.zipWith (fun m t => storeWrite (s.part n) r t.1 (readL s n r.own m.1 m.2)) (memRows w) (storeRows w)

def cldBody (r : CellRef) (c : Ctx) : Verdict := .go {
  dur := cellDur c (memRows c.w) (storeSpan c.w).2, unit := unitLoad r.j,
  rd := memRngs r.own (memRows c.w), wr := storeRngs c.p r [storeSpan c.w],
  pend := cldWrites c.s c.n r c.w, fetch := fetchOf c (memRows c.w),
  ward := firstWard [wardOf c (memRows c.w), storeWard c.p r [storeSpan c.w]] }

/-- CLD (R110): tile load, memory to cell store. -/
def execCld (sid : StreamId) (w : InsnWord) (s : State) : Host.Outcome State Fault Refusal :=
  .next ((issueR sid w (opc w == 0x10) (onCell cldBody)).run s)

/-- What a CST writes, in row order. -/
def cstWrites (s : State) (n : Nat) (r : CellRef) (w : InsnWord) : List Wr :=
  List.zipWith (fun m t => .mem r.own m.1 (storeRead s n r t.1 t.2)) (memRows w) (storeRows w)

def cstBody (r : CellRef) (c : Ctx) : Verdict := .go {
  dur := cellDur c (memRows c.w) (storeSpan c.w).2, unit := unitStore r.j,
  rd := storeRngs c.p r [storeSpan c.w], wr := memRngs r.own (memRows c.w), pend := cstWrites c.s c.n r c.w,
  ward := firstWard [storeWard c.p r [storeSpan c.w], wardOf c (memRows c.w)] }

/-- CST (R110): tile store, cell store to memory. -/
def execCst (sid : StreamId) (w : InsnWord) (s : State) : Host.Outcome State Fault Refusal :=
  .next ((issueR sid w (opc w == 0x11) (onCell cstBody)).run s)

/-! ### Multiplies (R104, R105, R112, R113, R117, R118) -/

/-- A multiply's fields; `ws` says WS mode, `n` the output columns. -/
structure Mul where
  ws : Bool
  pair : Pair
  m : Nat
  n : Nat
  klen : Nat
  tbr : Nat
  acs : Nat
  bcs : Nat
  apitch : Nat
  chunk : Nat
  head : Nat
  acc : Bool
  mask : Bool

/-- The multiply that a word encodes, unless its pair is not one of R56. -/
def mulOf (w : InsnWord) : Option Mul :=
  let ws := opc w == 0x18
  (pairOf (fld w 8 4) (fld w 4 4)).map (fun p => {
    ws := ws, pair := p, m := (if ws then fld w 12 10 else fld w 15 7) + 1,
    n := if ws then 256 else fld w 51 13 + 1, klen := fld w 32 16 + 1, tbr := fld w 22 10, acs := fld w 88 16,
    bcs := fld w 72 16, apitch := fld w 48 16, chunk := 8 / 2 ^ fld w 2 2, head := fld w 0 2, acc := bit w 107,
    mask := bit w 106 })

/-- Passes, and bytes of a row's or a column's segment of one pass. -/
def Mul.passes (x : Mul) : Nat := ceilDiv x.klen x.pair.kpass
def Mul.segA (x : Mul) : Nat := x.pair.kpass * x.pair.fa.width / 8
def Mul.segB (x : Mul) : Nat := x.pair.kpass * x.pair.fb.width / 8

/-- Store offset of row `i`'s segment of pass `p` (R104). -/
def Mul.aOff (x : Mul) (p i : Nat) : Nat :=
  if x.ws then (x.acs + i * x.apitch) * 128 + p * x.segA
  else (x.acs + p * ceilDiv (x.m * x.segA) 128) * 128 + i * x.segA

/-- Store offset of column `j`'s segment of pass `p` (R104). -/
def Mul.bOff (x : Mul) (p j : Nat) : Nat := (x.bcs + p * ceilDiv (x.n * x.segB) 128) * 128 + j * x.segB

/-- The store ranges that a multiply reads. -/
def Mul.reads (x : Mul) : List (Nat × Nat) :=
  (if x.ws then (List.range x.m).map (fun i => (x.aOff 0 i, x.passes * x.segA))
   else (List.range x.passes).map (fun p => (x.aOff p 0, x.m * x.segA))) ++
  (List.range x.passes).map (fun p => (x.bOff p 0, x.n * x.segB))

/-- Total buffer rows of the output (R105, R113). -/
def Mul.rows (x : Mul) : Nat := ceilDiv x.n 256 * x.m

/-- Row and lane of an output element (R105). -/
def Mul.row (x : Mul) (i j : Nat) : Nat := x.tbr + j / 256 * x.m + i

/-- Pass time and planned duration (R122). -/
def Mul.passTime (x : Mul) : Nat := if x.ws then max x.m 32 else max (ceilDiv (x.n * max x.m 32) 256) 16
def Mul.dur (x : Mul) : Nat := x.passes * x.passTime + 48

/-- The K codes of a row or a column: elements at k ≥ KLEN take no part (R60, R104). -/
def Mul.codes (s : State) (n : Nat) (r : CellRef) (x : Mul) (width seg : Nat) (off : Nat → Nat) : List Nat :=
  ((List.range x.passes).flatMap (fun p => unpack width (storeRead s n r (off p) seg))).take x.klen

/-- An output element is masked (R117). Positions are U32. -/
def maskedAt (st : Stream) (i j : Nat) : Bool :=
  let q := st.maskQ + BitVec.ofNat 32 i
  let p := st.maskK + BitVec.ofNat 32 j
  let mode := st.maskMode.toNat
  (1 ≤ mode && decide (q.toNat < p.toNat)) ||
    (mode == 2 && decide (p.toNat ≤ q.toNat) && decide (st.maskWindow.toNat ≤ (q - p).toNat))

/-- What a multiply delivers: its writes, the repeats of each pass (R70) and the non-finite outputs (R71). -/
structure MulOut where
  wr : List Wr
  repeats : List Nat
  nonfin : Nat

/-- The elements of one output row block, lanes `j0` to `j1 − 1` of row `i`. -/
def Mul.block (s : State) (x : Mul) (st : Stream) (k : Nat) (a : List Nat) (cols : List (List Nat)) (i j0 : Nat) :
    MulOut :=
  let row := x.row i j0
  let start := if x.acc then tbRow s k row else []
  let es := (cols.zipIdx).map (fun e =>
    if x.mask && maskedAt st i (j0 + e.2) then ((0xFFF0000000000000, []), false)
    else (dotElement x.pair x.chunk x.head ((start[e.2]?).getD 0).toNat a e.1, true))
  { wr := tbWrite k row 0 (es.map (fun e => BitVec.ofNat 64 e.1.1)),
    repeats := es.foldl (fun acc e => if e.2 then maxRepeats acc e.1.2 else acc) [],
    nonfin := (es.filter (fun e => e.2 && (fTA.decode e.1.1).nonFinite)).length }

/-- The results of a multiply (R74, R105, R112, R113). -/
def Mul.results (s : State) (n : Nat) (st : Stream) (r : CellRef) (x : Mul) : MulOut :=
  let k := r.tb (s.part n)
  let cols := (List.range x.n).map (fun j => Mul.codes s n r x x.pair.fb.width x.segB (fun p => x.bOff p j))
  let outs := (List.range x.m).flatMap (fun i =>
    let a := Mul.codes s n r x x.pair.fa.width x.segA (fun p => x.aOff p i)
    ((chunks 256 cols).zipIdx).map (fun b => Mul.block s x st k a b.1 i (256 * b.2)))
  let reps := outs.foldl (fun acc o => if o.repeats.isEmpty then acc else maxRepeats acc o.repeats) []
  { wr := outs.flatMap (·.wr), repeats := if reps.isEmpty then List.replicate x.passes 0 else reps,
    nonfin := (outs.map (·.nonfin)).sum }

/-! ### Shadowing (R119 to R121, R308) -/

/-- A spare of a column is free to shadow: it can carry shadowing and runs no comparison (R10, R120). -/
def shadowFree (s : State) (col p : Nat) : Bool := canShadow s col p && (s.cell (col * 18 + p)).shadowOf.isNone

/-- The column's selector (R308) chooses the instruction with probability RATE / 256; which ones is a free value. A chosen
instruction runs on a free spare, or is skipped (R120). Of two free spares it is the lower one: R120 names neither
(DESIGN CHOICE, log entry 105). -/
def sample (sid : StreamId) (cell id : Nat) : Act := fun s =>
  let col := cell / 18
  let rate := (s.col col).rate.toNat
  if rate = 0 then [] else
  withFree (fun f => Act.when (fun _ => decide (Config.freeNat f % 256 < rate)) (fun s =>
    match [16, 17].find? (shadowFree s col) with
    | none => modCell cell (fun x => { x with shadowSkip := satAdd x.shadowSkip 1 }) s
    | some p =>
      match (s.part sid.part).run.ops.find? (fun o => o.id == id) with
      | none => []
      | some o => modCell (col * 18 + p) (fun x => { x with role := .shadowing, shadowOf := some {
          part := sid.part, op := id, cell := cell, lqtr := sid.unit, psc := o.issue, qpos := o.qpos,
          repeats := (o.passes.map (·.repeats)).getD [] } }) s)) s

/-- The slot of the mask registers, which a multiply with MASK reads and CMASK writes. -/
def maskRng : Rng := { space := .slot 10, lo := 0, hi := 1 }

/-- A multiply at its cell (R107, R112, R113). -/
def mulBody (r : CellRef) (c : Ctx) : Verdict :=
  match mulOf c.w with
  | none => .fault .pair 0 0
  | some x =>
    let out := Mul.results c.s c.n c.st r x
    let k := r.tb c.p
    let exec := (c.p.execCell r.own r.lq r.j).getD 0
    .go {
      dur := x.dur, unit := unitCompute r.j,
      rd := storeRngs c.p r x.reads ++ (if x.acc then [tbRng k x.tbr x.rows] else []) ++
        (if x.mask then [maskRng] else []),
      wr := [tbRng k x.tbr x.rows], pend := out.wr ++ [.nonfin exec out.nonfin],
      passes := some { cell := exec, time := x.passTime, repeats := out.repeats, idx := 0, owed := 0 },
      act := fun id => Act.all [modCell exec (fun y => { y with mode := !x.ws }),
        Act.guard (!bit c.w 105) (sample c.sid exec id)],
      ward := firstWard [storeWard c.p r x.reads, tbWard x.tbr x.rows] }

/-- MMW (R112): multiply in WS mode. -/
def execMmw (sid : StreamId) (w : InsnWord) (s : State) : Host.Outcome State Fault Refusal :=
  .next ((issueR sid w (opc w == 0x18) (onCell mulBody)).run s)

/-- MMA (R113): multiply in AS mode. -/
def execMma (sid : StreamId) (w : InsnWord) (s : State) : Host.Outcome State Fault Refusal :=
  .next ((issueR sid w (opc w == 0x19) (onCell mulBody)).run s)

/-! ### TBI and TBD (R115) -/

def tbFirst (w : InsnWord) : Nat := fld w 22 10
def tbCount (w : InsnWord) : Nat := fld w 12 10 + 1
/-- The memory range and the store range of a TBI or TBD. -/
def tbMem (w : InsnWord) : Nat × Nat := (fld w 64 40 * 16, 2048 * tbCount w)
def tbStore (w : InsnWord) : Nat × Nat := (fld w 48 16 * 128, 2048 * tbCount w)

/-- What a TBI writes: bits copied exactly. -/
def tbiWrites (s : State) (n : Nat) (r : CellRef) (w : InsnWord) : List Wr :=
  let k := r.tb (s.part n)
  (List.range (tbCount w)).flatMap (fun i => tbWrite k (tbFirst w + i) 0 (
    if fld w 10 2 = 0 then List.replicate 256 0
    else ((chunks 8 (
      if fld w 10 2 = 1 then storeRead s n r ((tbStore w).1 + 2048 * i) 2048
      else readL s n r.own ((tbMem w).1 + 2048 * i) 2048)).map (fun b => BitVec.ofNat 64 (leNat b)))))

def tbiBody (r : CellRef) (c : Ctx) : Verdict :=
  let k := r.tb c.p
  let src := fld c.w 10 2
  let mem := if src = 2 then [tbMem c.w] else []
  let sto := if src = 1 then [tbStore c.w] else []
  .go {
    dur := if src = 0 then 8 + ceilDiv (tbCount c.w) 8 else if src = 1 then 8 + 2 * tbCount c.w
      else cellDur c mem (tbMem c.w).2,
    unit := unitCompute r.j, rd := storeRngs c.p r sto ++ memRngs r.own mem,
    wr := [tbRng k (tbFirst c.w) (tbCount c.w)], pend := tbiWrites c.s c.n r c.w, fetch := fetchOf c mem,
    ward := firstWard [storeWard c.p r sto, wardOf c mem, tbWard (tbFirst c.w) (tbCount c.w)] }

/-- TBI (R115): total buffer initialise. -/
def execTbi (sid : StreamId) (w : InsnWord) (s : State) : Host.Outcome State Fault Refusal :=
  .next ((issueR sid w (opc w == 0x1C) (onCell tbiBody)).run s)

/-- What a TBD writes: rows little-endian to the store or to memory, then +0 to the rows with CLR. -/
def tbdWrites (s : State) (n : Nat) (r : CellRef) (w : InsnWord) : List Wr :=
  let p := s.part n
  let k := r.tb p
  (List.range (tbCount w)).map (fun i =>
    let bs := (tbRow s k (tbFirst w + i)).flatMap (fun v => leBytes 8 v.toNat)
    if fld w 10 2 = 1 then storeWrite p r ((tbStore w).1 + 2048 * i) bs
    else .mem r.own ((tbMem w).1 + 2048 * i) bs) ++
  (if bit w 107 then (List.range (tbCount w)).flatMap (fun i => tbWrite k (tbFirst w + i) 0 (List.replicate 256 0))
   else [])

def tbdBody (r : CellRef) (c : Ctx) : Verdict :=
  let k := r.tb c.p
  let toStore := fld c.w 10 2 = 1
  let mem := if toStore then [] else [tbMem c.w]
  let sto := if toStore then [tbStore c.w] else []
  let rows := tbRng k (tbFirst c.w) (tbCount c.w)
  .go {
    dur := (if toStore then 8 + 2 * tbCount c.w else cellDur c mem (tbMem c.w).2) +
      (if bit c.w 107 then ceilDiv (tbCount c.w) 8 else 0),
    unit := unitCompute r.j, rd := [rows],
    wr := storeRngs c.p r sto ++ memRngs r.own mem ++ (if bit c.w 107 then [rows] else []),
    pend := tbdWrites c.s c.n r c.w,
    ward := firstWard [tbWard (tbFirst c.w) (tbCount c.w), storeWard c.p r sto, wardOf c mem] }

/-- TBD (R115): total buffer drain. -/
def execTbd (sid : StreamId) (w : InsnWord) (s : State) : Host.Outcome State Fault Refusal :=
  .next ((issueR sid w (opc w == 0x1D) (onCell tbdBody)).run s)

/-! ### CMASK (R116) -/

def cmaskBody (r : CellRef) (c : Ctx) : Verdict :=
  if fld c.w 64 2 = 2 && fld c.w 72 32 = 0 then .fault .illegal 3 0
  else .go {
    dur := 1, unit := unitCompute r.j, wr := [maskRng],
    pend := [.mask (BitVec.ofNat 32 (fld c.w 72 32)) (BitVec.ofNat 2 (fld c.w 64 2)) (BitVec.ofNat 32 (fld c.w 32 32))
      (BitVec.ofNat 32 (fld c.w 0 32))] }

/-- CMASK (R116): sets the mask registers of its stream. -/
def execCmask (sid : StreamId) (w : InsnWord) (s : State) : Host.Outcome State Fault Refusal :=
  .next ((issueR sid w (opc w == 0x1E) (onCell cmaskBody)).run s)

end Sys2Proof.Machine
end

