-- ==== Sys2Proof/Machine/Object.lean ====
section
/-!
DEFINITION. The object image and the parameter block (R76 to R78, R99, R184 to R186, R216, R219, R421): their reading, and
the checks of load steps 1 to 8 (R100). Where a rule leaves the step or the result of a bad field open, log entry 57 says
which is taken.
-/
namespace Sys2Proof.Machine

/-- RESULT codes of R100. -/
def rcOk : Nat := 0
def rcFormat : Nat := 1
def rcNumlevel : Nat := 2
def rcDigest : Nat := 3
def rcParam : Nat := 4
def rcIllegal : Nat := 5
def rcLead : Nat := 6
def rcAbsent : Nat := 7
def rcPower : Nat := 8
def rcQueues : Nat := 9
def rcPlace : Nat := 0xA
def rcTumbler : Nat := 0xB
def rcReloc : Nat := 0xC
def rcState : Nat := 0xF

/-- The numeric level of the device (R11). -/
def numLevel : Nat := 1

/-- A section (R77): type, attributes, place in the image and bytes. -/
structure Sect where
  ty : Nat
  attr : Nat
  off : Nat
  size : Nat
  body : List Byte

/-- The header's fields (R76). -/
def imgRanks (img : List Byte) : Nat := leAt img 8 4
def imgQuarters (img : List Byte) : Nat := leAt img 0xC 2
def imgLead (img : List Byte) : Nat := leAt img 0x10 4
def imgNsect (img : List Byte) : Nat := leAt img 0x14 4
def imgTable (img : List Byte) : Nat := leAt img 0x18 8
def imgLength (img : List Byte) : Nat := leAt img 0x20 8

/-- The sections of an image in the order of its table. -/
def imgSects (img : List Byte) : List Sect :=
  (List.range (imgNsect img)).map (fun i =>
    let e := slice img (imgTable img + 32 * i) 32
    { ty := leAt e 0 4, attr := leAt e 4 4, off := leAt e 8 8, size := leAt e 16 8,
      body := slice img (leAt e 8 8) (leAt e 16 8) })

/-- Fields of a STREAM section (R77, R421). -/
def Sect.kind (x : Sect) : Option StreamKind := kindOf (x.attr % 16)
def Sect.unit (x : Sect) : Nat := x.attr / 256 % 256
def Sect.reloc (x : Sect) : Nat := x.attr / 65536
def Sect.rank (x : Sect) : Nat := leAt x.body 0 4
def Sect.words (x : Sect) : List InsnWord := (chunks 16 (x.body.drop 16)).map (fun c => BitVec.ofNat 128 (leNat c))

def streamSects (xs : List Sect) : List Sect := xs.filter (·.ty == 1)

/-- An entry of a TUMBLER section (R216). -/
structure TumEnt where
  index : Nat
  standby : Bool
  transit : Bool
  ts : Nat
  route : Nat

/-- A TUMBLER section: its link, its period and its entries (R77, R216). -/
structure TumSect where
  link : LinkId
  period : Nat
  ents : List TumEnt

def tumSects (xs : List Sect) : List TumSect := (xs.filter (·.ty == 2)).map (fun x =>
  { link := ⟨x.attr / 256 % 4, x.attr % 32⟩, period := leAt x.body 0 2,
    ents := (List.range (leAt x.body 2 2)).map (fun i =>
      let e := slice x.body (8 + 8 * i) 8
      { index := leAt e 0 2, standby := leAt e 2 1 % 2 == 1, transit := leAt e 2 1 / 2 % 2 == 1, ts := leAt e 3 1,
        route := leAt e 4 2 % 4096 }) })

/-- A ROUTE record (R219). -/
structure RouteRec where
  kind : Nat
  inDie : Nat
  inLink : Nat
  term : Bool
  inn : Nat
  outDie : Nat
  outLink : Nat
  outRoute : Nat
  altDie : Nat
  altLink : Nat
  altRoute : Nat

def routeRecs (xs : List Sect) : List RouteRec := (xs.filter (·.ty == 3)).flatMap (fun x =>
  (List.range (x.size / 16)).map (fun i =>
    let e := slice x.body (16 * i) 16
    { kind := leAt e 0 1, inDie := leAt e 1 1, inLink := leAt e 2 1, term := leAt e 3 1 % 2 == 1, inn := leAt e 4 4,
      outDie := leAt e 8 1, outLink := leAt e 9 1, outRoute := leAt e 10 2 % 4096, altDie := leAt e 12 1,
      altLink := leAt e 13 1, altRoute := leAt e 14 2 % 4096 }))

/-- Peak power of the declared plan (R77): the largest of all records. -/
def peakPower (xs : List Sect) : Nat := (xs.filter (·.ty == 6)).foldl (fun m x =>
  (List.range (x.size / 16)).foldl (fun m i => max m (leAt x.body (16 * i + 8) 4)) m) 0

/-- The placement plan (R184 to R186). -/
structure PlacePlan where
  cols : List LCol
  segs : List Seg
  exps : List Exp
  rhops : Nat

def placeNeed (b : List Byte) : Nat := 16 + 8 * leAt b 0 2 + 32 * leAt b 2 2 + 16 * leAt b 4 2

def readPlan (b : List Byte) : PlacePlan :=
  let nc := leAt b 0 2
  let ns := leAt b 2 2
  { rhops := leAt b 6 1,
    cols := (List.range nc).map (fun i =>
      let e := slice b (16 + 8 * i) 8
      { first := leAt e 0 2, count := leAt e 2 1, hot := leAt e 3 1 }),
    segs := (List.range ns).map (fun i =>
      let e := slice b (16 + 8 * nc + 32 * i) 32
      { symbol := leAt e 0 4, flags := BitVec.ofNat 8 (leAt e 4 1), pclass := leAt e 5 1,
        homes := BitVec.ofNat 8 (leAt e 6 1), near := leAt e 7 1, size := leAt e 8 8, grant := leAt e 16 4,
        peer := leAt e 20 4, exp := leAt e 24 2 }),
    exps := (List.range (leAt b 4 2)).map (fun i =>
      let e := slice b (16 + 8 * nc + 32 * ns + 16 * i) 16
      { seg := leAt e 0 2, off := leAt e 4 4, len := leAt e 8 4, rights := BitVec.ofNat 8 (leAt e 12 1) }) }

/-- The one PLACE section's plan. -/
def planOf (xs : List Sect) : Option PlacePlan := match xs.filter (·.ty == 5) with
  | [x] => some (readPlan x.body)
  | _ => none

/-- The core digest (R297). -/
def coreDigest (img : List Byte) (xs : List Sect) : List Byte :=
  sha256 (img.take 16 ++ (xs.filter (fun x => x.ty == 1 || x.ty == 4 || x.ty == 5)).flatMap (fun x =>
    leBytes 4 x.ty ++ leBytes 4 x.attr ++ leBytes 8 x.size ++ x.body))

/-! ### The parameter block (R99) -/

structure Params where
  addr : Nat
  len : Nat
  mapAddr : Nat
  ranks : Nat
  nown : Nat
  ownRaw : List Nat
  start : Nat

def readParams (s : State) (a : Nat) : Params :=
  let b := fetchAt s a 80
  { addr := leAt b 0 8, len := leAt b 8 8, mapAddr := leAt b 0x10 8, ranks := leAt b 0x18 4, nown := leAt b 0x1C 4,
    ownRaw := (List.range 8).map (fun i => leAt b (0x20 + 4 * i) 4), start := leAt b 0x40 8 }

/-- The rank map (R99): device and partition of each rank. -/
def readMap (s : State) (q : Params) : List (Nat × Nat) :=
  (List.range q.ranks).map (fun i => (leNat (fetchAt s (q.mapAddr + 8 * i) 2), leNat (fetchAt s (q.mapAddr + 8 * i + 2) 1) % 32))

/-! ### Step 1 -/

/-- A section that the format allows (R77, R421, and the sizes that R101, R184, R216 and R219 need). -/
def sectOk (img : List Byte) (xs : List Sect) (x : Sect) : Bool :=
  decide (1 ≤ x.ty) && decide (x.ty ≤ 6) && decide (x.off + x.size ≤ imgLength img) &&
  (match x.ty with
   | 1 => x.off % 16 == 0 && x.size % 16 == 0 && decide (16 ≤ x.size) && zeroAt x.body 4 12 &&
      (x.reloc == 0xFFFF || ((xs[x.reloc]?).map (·.ty)) == some 4) && (x.attr % 16 != 10 || decide (x.unit < 16))
   | 2 => decide (8 ≤ x.size) && decide (8 + 8 * leAt x.body 2 2 ≤ x.size)
   | 5 => decide (16 ≤ x.size) && decide (placeNeed x.body ≤ x.size)
   | _ => x.size % 16 == 0)

/-- Header and section table (R76, R77). -/
def headOk (img : List Byte) (q : Params) : Bool :=
  img.take 4 == [0x4B, 0x58, 0x4F, 0x00] && leAt img 4 2 == 1 && imgLength img == q.len && decide (160 ≤ q.len) &&
  decide (imgTable img + 32 * imgNsect img ≤ q.len)

def formatOk (img : List Byte) (q : Params) : Bool :=
  headOk img q && (imgSects img).all (sectOk img (imgSects img))

/-! ### Steps 2 to 4 -/

def digestOk (img : List Byte) : Bool := sha256 (img.take (img.length - 32)) == img.drop (img.length - 32)

/-- Two lists without a repeat. -/
def distinct : List Nat → Bool
  | [] => true
  | x :: xs => !xs.contains x && distinct xs

/-- RANKS, NOWN, OWN and the rank map are consistent (R99, R247, R280, R381). The hosted ranks are those that the map
places here. -/
def paramOk (s : State) (n : Nat) (img : List Byte) (q : Params) : Bool :=
  let own := q.ownRaw.take q.nown
  let replay := (s.part n).recd.replay
  let map := readMap s q
  let here := (map.zipIdx.filter (fun e => e.1 == (s.hub.devno.toNat, n))).map (·.2)
  let xs := streamSects (imgSects img)
  let clx := xs.filter (fun x => x.attr % 16 == 8 && own.contains x.rank)
  (s.part n).cfg.en && s.hub.devnoValid && !s.hub.dupnum && q.ranks == imgRanks img && decide (1 ≤ q.ranks) &&
  decide (q.ranks ≤ 65536) && decide (1 ≤ imgQuarters img) && decide (imgQuarters img ≤ 80) && decide (1 ≤ q.nown) &&
  decide (q.nown ≤ 8) && distinct own && own.all (fun r => decide (r < q.ranks)) && (q.ownRaw.drop q.nown).all (· == 0) &&
  (!replay || q.nown == 1) && (replay || (own.all here.contains && here.all own.contains)) &&
  (q.nown == 1 || (!xs.any (fun x => x.attr % 16 == 9) &&
    clx.all (fun x => own.all (fun r => clx.any (fun y => y.rank == r && y.unit == x.unit && y.body.drop 16 == x.body.drop 16)))))

/-! ### Step 5 -/

/-- The stream that a section is of, as far as its legality goes. -/
def Sect.sid (n : Nat) (k : StreamKind) (x : Sect) : StreamId := { part := n, own := 0, kind := k, unit := x.unit }

/-- Every cell instruction of a UU stream lies between a borrow and the matching return (R264). -/
def spansOk : Bool → List InsnWord → Bool
  | _, [] => true
  | b, w :: ws =>
    if opc w == 0x54 then spansOk (sub w == 0) ws
    else (b || !(decide (0x10 ≤ opc w) && decide (opc w < 0x30))) && spansOk b ws

/-- Encodings that an object with a CKPT segment must not hold (R298). -/
def ckptBad (w : InsnWord) : Bool :=
  (opc w == 0x09 && fld w 15 16 != 0) || (opc w == 0x0C && bit w 104) || (opc w == 0x02 && bit w 104)

/-- A STREAM section's encodings, operand pairs and LOOP targets (R83, R57, R86, R264, R298). -/
def streamOk (n : Nat) (ckpt : Bool) (x : Sect) : Bool :=
  match x.kind with
  | none => false
  | some k =>
    x.words.zipIdx.all (fun e => (illegal (x.sid n k) e.1).isNone && !badPair e.1 &&
      (opc e.1 != 0x03 || decide (fld e.1 32 24 ≤ e.2)) && !(ckpt && ckptBad e.1)) &&
    (k != .uu || spansOk false x.words)

def streamsOk (n : Nat) (xs : List Sect) : Bool :=
  let ckpt := match planOf xs with
    | some p => p.segs.any (fun g => bit g.flags 0)
    | none => false
  (streamSects xs).all (streamOk n ckpt)

/-! ### Step 7 -/

/-- Link dies that the object names in tumblers, routes, CLX and LMOV streams (R4). The OUT_DIE of every route record counts, also of
a TRANSIT record with TERM = 1, which leaves by no link: R4 does not set such records apart (DESIGN CHOICE, log entry 111). -/
def diesNamed (xs : List Sect) : List Nat :=
  ((tumSects xs).map (·.link.die) ++
   ((streamSects xs).filter (fun x => x.attr % 16 == 8 || x.attr % 16 == 9)).map (·.unit) ++
   (routeRecs xs).flatMap (fun r => (if r.kind = 1 then [r.inDie] else []) ++ [r.outDie] ++
     (if r.altDie = 0xFF then [] else [r.altDie]))).eraseDups

def diePresent (s : State) (d : Nat) : Bool := decide (d < 4) && s.fuses.linkPresent.getLsbD d

/-- A segment that can only lie in the rank's own DRAM. -/
def dramOnly (g : Seg) : Bool :=
  !(bit g.homes 2 && decide (3 ≤ g.pclass)) && !(bit g.homes 3 && decide (4 ≤ g.pclass))
/-- A segment that can only lie in its NEAR column. -/
def nearOnly (g : Seg) : Bool := dramOnly g && !(bit g.homes 1 && decide (2 ≤ g.pclass))

/-- DRAM need against what `STACK_H` provides (R4): segments against the DRAM of the quarters (R179); with the snapshot buffer,
which counts toward the need of each column (R302), against the DRAM of whole columns (DEDUCED, log entry 75). -/
def needOk (s : State) (n : Nat) (p : PlacePlan) : Bool :=
  let share (c : LCol) : Nat := c.count * (colDram s / 4)
  let buf := bufPages (s.part n) * pageSize
  let near (i : Nat) : Nat := ((p.segs.filter (fun g => nearOnly g && g.near == i)).map (·.size)).sum
  let all := ((p.segs.filter dramOnly).map (·.size)).sum
  p.cols.zipIdx.all (fun c => decide (near c.2 ≤ share c.1) && decide (near c.2 + buf ≤ colDram s)) &&
  decide (all ≤ (p.cols.map share).sum) && decide (all + buf * p.cols.length ≤ p.cols.length * colDram s)

def absentOk (s : State) (n : Nat) (xs : List Sect) : Bool :=
  (diesNamed xs).all (diePresent s) && (match planOf xs with
    | some p => needOk s n p
    | none => true)

/-! ### The checks in order -/

/-- STREAM sections that this load binds: those of hosted ranks; of CLX, those of the first (R247). -/
def ownSects (own : List Nat) (xs : List Sect) : List Sect :=
  (streamSects xs).filter (fun x => own.contains x.rank && (x.attr % 16 != 8 || some x.rank == own.head?))

/-- Smallest ring that holds an image (R167): 16 entries or more. -/
def ringLog (k : Nat) : Nat := ((List.range 32).find? (fun i => decide (4 ≤ i) && decide (k ≤ 2 ^ i))).getD 32

/-- HDMA channels that no partition has (R391). -/
def freeHdma (s : State) : List Nat := (List.range 16).filter (fun c => !(Tab.get {} s.pcie.hdma c).bound)

/-- Queue numbers that no stream has. -/
def freeQueues (s : State) : List Nat :=
  let used := (s.queues.filter (fun e => e.2.en)).map (·.1)
  (List.range 65536).filter (fun q => !used.contains q)

/-- Step 9 (R100, R391). -/
def queuesOk (s : State) (take : List Sect) : Bool :=
  decide (take.length ≤ 2048) && decide (take.length ≤ (freeQueues s).length) &&
  take.all (fun x => decide (ringLog x.words.length ≤ 24)) &&
  decide ((take.filter (fun x => x.attr % 16 == 10)).length ≤ (freeHdma s).length)

/-- RESULT of load steps 1 to 9 (R100): 0 where none fails. -/
def checkObject (s : State) (n : Nat) (q : Params) (img : List Byte) : Nat :=
  let xs := imgSects img
  if !formatOk img q then rcFormat
  else if leAt img 6 2 != numLevel then rcNumlevel
  else if !digestOk img then rcDigest
  else if !paramOk s n img q then rcParam
  else if !streamsOk n xs then rcIllegal
  else if decide (imgLead img < s.tim.lead.toNat) then rcLead
  else if !absentOk s n xs then rcAbsent
  else if decide ((s.part n).cfg.cap.toNat < peakPower xs) then rcPower
  else if !queuesOk s (ownSects (q.ownRaw.take q.nown) xs) then rcQueues
  else rcOk

end Sys2Proof.Machine
end

