-- ==== Sys2Proof/Machine/Placing.lean ====
section
/-!
DEFINITION. Load step 10, the keyway's binding (R187 to R189, R246, R313, R334), step 11, the tumbler and route check
(R217, R219, R378), and step 12, relocation (R101, R102, R156, R158).
-/
namespace Sys2Proof.Machine

/-- An action that may find no way to act. -/
abbrev Try := State → Option (List Eff)

/-- Actions in order, each seeing what those before it did; nothing happens when one finds no way. -/
def Try.all : List Try → Try
  | [], _ => some []
  | a :: as, s => (a s).bind (fun e => (Try.all as (applyAll e s)).map (fun r => e ++ r))

/-- An action that always finds a way. -/
def Try.of (a : Act) : Try := fun s => some (a s)

/-- One action for each element of a list. -/
def Try.each {α : Type} (xs : List α) (f : α → Try) : Try := Try.all (xs.map f)

/-! ### Quarters and cells -/

/-- A spare cell for a fenced one (R313): the free one that is not the witness, then the lower. -/
def pickSpare (s : State) (c : Nat) (spares : List Nat) : Option Nat :=
  (spares.filter (fun p => !(s.cell (c * 18 + p)).witness) ++ spares).head?

/-- Physical cells for the four logical cells of a quarter, with the spares that are left. -/
def fitCells (s : State) (c : Nat) : List Nat → List Nat → Option (List Nat × List Nat)
  | [], spares => some ([], spares)
  | p :: ps, spares =>
    if fencedCell s c p then
      match pickSpare s c spares with
      | none => none
      | some k => (fitCells s c ps (spares.erase k)).map (fun r => ((c * 18 + k) :: r.1, r.2))
    else (fitCells s c ps spares).map (fun r => ((c * 18 + p) :: r.1, r.2))

/-- The lowest quarters of a column that can be bound, with their cells. -/
def fitQuarters (s : State) (ok : Nat → Bool) (c : Nat) : List Nat → List Nat → List (Nat × List Nat)
  | [], _ => []
  | q :: qs, spares =>
    if !ok (4 * c + q) then fitQuarters s ok c qs spares else
    match fitCells s c ((List.range 4).map (4 * q + ·)) spares with
    | none => fitQuarters s ok c qs spares
    | some (cells, rest) => (4 * c + q, cells) :: fitQuarters s ok c qs rest

/-- A quarter that nothing has bound yet. -/
def noQuarter : Nat := 4096

/-- Quarters of partition `n`'s set that are whole, not under test and not yet bound (R187, R325, R366, R370). -/
def quarterFree (s : State) (n q : Nat) : Bool :=
  let p := s.part n
  bit p.cfg.qmask q && !(s.col (q / 4)).failed && !bit (s.col (q / 4)).qfail (q % 4) &&
    (s.col (q / 4)).katTurn != some (q % 4) && !p.bind.quarters.contains q

/-- What binding a logical cell clears and sets (R71, R124, R313). The witness mark goes once a spare of the column is bound. -/
def bindCell (n lq j k : Nat) : Act := withSpares (k / 18) (Act.all [modCell k (fun x => { x with
  role := .bound, valid := true, part := BitVec.ofNat 5 n, lqtr := BitVec.ofNat 8 lq, lcell := BitVec.ofNat 2 j,
  fault := 0, retryPass := 0, maxRepeat := 0, nonfin := 0, shadowDone := 0, shadowSkip := 0,
  shadowOf := none, resident := none }),
  Act.guard (decide (16 ≤ k % 18)) (Act.each [k / 18 * 18 + 16, k / 18 * 18 + 17] (fun i =>
    modCell i (fun x => { x with witness := false })))])

/-- Binds one logical column of one hosted rank (R178, R187 steps 1 and 2). -/
def placeCol (n own g : Nat) : Try := fun s =>
  let p := s.part n
  match p.obj with
  | none => none
  | some o =>
    match o.cols[g]? with
    | none => none
    | some lc =>
      let taken := ((p.bind.quarters.drop (own * o.quarters)).take o.quarters).map (· / 4)
      let spares (c : Nat) : List Nat := [16, 17].filter (spareFree s c)
      let fit (c : Nat) : List (Nat × List Nat) :=
        (fitQuarters s (quarterFree s n) c [0, 1, 2, 3] (spares c)).take lc.count
      let cands := (List.range 20).filter (fun c => !taken.contains c && (fit c).length == lc.count)
      match bestBy (colRank s) cands with
      | none => none
      | some c =>
        let key (i : Nat) : Nat := o.qkey own (lc.first + i)
        some ((Act.all [
          modPart n (fun p => { p with bind := { p.bind with
            quarters := (fit c).zipIdx.foldl (fun qs e => qs.set (key e.2) e.1.1) p.bind.quarters,
            cells := (fit c).zipIdx.foldl (fun t e => e.1.2.zipIdx.foldl (fun t x =>
              t ++ [(key e.2 * 4 + x.2, x.1)]) t) p.bind.cells } }),
          Act.each (fit c).zipIdx (fun e => Act.each e.1.2.zipIdx (fun x => bindCell n (lc.first + e.2) x.2 x.1))]) s)

/-- The order of R187 step 1: descending HOT, then the column's index, then the hosted rank. -/
def colOrder (o : Obj) : List (Nat × Nat) :=
  (((List.range o.own.length).flatMap (fun own => o.cols.zipIdx.map (fun c => (255 - c.1.hot, c.2, own)))).mergeSort
    (fun a b => lexLe [a.1, a.2.1, a.2.2] [b.1, b.2.1, b.2.2])).map (fun e => (e.2.2, e.2.1))

/-! ### The plan's own rules (R184 to R188, R246) -/

/-- Logical columns cover the quarters in ascending runs. -/
def colsCover : Nat → List LCol → Bool
  | _, [] => true
  | q, c :: cs => c.first == q && decide (1 ≤ c.count) && decide (c.count ≤ 4) && colsCover (q + c.count) cs

def planOk (o : Obj) : Bool :=
  decide (1 ≤ o.cols.length) && decide (o.cols.length ≤ 20) && colsCover 0 o.cols &&
  (o.cols.map (·.count)).sum == o.quarters && decide (1 ≤ o.segs.length) && decide (o.segs.length ≤ 4096) &&
  decide (o.exps.length ≤ 64) && decide (1 ≤ o.rhops) && decide (o.rhops ≤ 5) &&
  o.segs.all (fun g => decide (1 ≤ g.pclass) && decide (g.pclass ≤ 4) && decide (g.near < o.cols.length) &&
    decide (0 < g.size) && g.size % pageSize == 0 && (!bit g.homes 2 || decide (g.peer < o.ranks))) &&
  o.exps.all (fun e => match o.segs[e.seg]? with
    | some g => decide (0 < e.len) && decide ((e.off + e.len) * 4096 ≤ g.size)
    | none => false) &&
  decide ((o.segs.map (·.size)).sum ≤ 0x10000000000)

/-- A stream's engine exists and serves one stream (R12, R77). -/
def enginesOk (o : Obj) (take : List Sect) : Bool :=
  take.all (fun x => match x.kind with
    | some k => !kindQuarter k || decide (x.unit < o.quarters)
    | none => false) &&
  take.zipIdx.all (fun x => !(take.drop (x.2 + 1)).any (fun y =>
    y.attr % 16 == x.1.attr % 16 && y.unit == x.1.unit && y.rank == x.1.rank))

/-! ### Segments and rings -/

/-- Homes of one segment of a hosted rank (R189): its pages join the page table. -/
def placeSeg (n own i : Nat) : Try := fun s =>
  let p := s.part n
  match p.obj with
  | none => none
  | some o =>
    match o.segs[i]? with
    | none => none
    | some g => (chooseHome s n own o g).map (fun h =>
        (modRun n (fun r => { r with
          pages := putPages r.pages (segPages (p.tag n) own (segBase o.segs i / pageSize) h.1.home h.2) })) s)

/-- The lowest run of `k` free frames in one of the ranges. -/
def findRun (used : List Nat) (k : Nat) (ranges : List (Nat × Nat)) : Option Nat :=
  ranges.findSome? (fun r => (List.range' r.1 (r.2 + 1 - k)).find? (fun f =>
    (List.range k).all (fun i => !used.contains (f + i))))

/-- Bytes of the rings of the streams. -/
def ringBytes (take : List Sect) : Nat := (take.map (fun x => 2 ^ ringLog x.words.length * 16)).sum

/-- The rings of the resident queues lie together in the first bound quarter with room (DESIGN CHOICE, log entry 57:
R167 says only that they lie in device DRAM or host memory). -/
def placeRings (n : Nat) (take : List Sect) : Try := fun s =>
  let k := ceilDiv (ringBytes take) pageSize
  if k = 0 then some [] else
  (findRun (usedFrames s) k ((s.part n).bind.quarters.map (fun q => (quarterFrame0 s q, quarterFrames s)))).map (fun f =>
    (modRun n (fun r => { r with swapReserved := List.range' f k })) s)

/-! ### Latches, hasps, queues, channels -/

/-- A relocation record (R101). -/
structure Reloc where
  insn : Nat
  ty : Nat
  lsb : Nat
  width : Nat
  sym : Nat

/-- The records of a STREAM section. -/
def relocsOf (xs : List Sect) (x : Sect) : List Reloc :=
  if x.reloc = 0xFFFF then [] else match xs[x.reloc]? with
  | none => []
  | some r => (chunks 16 r.body).map (fun e =>
      { insn := leAt e 0 4, ty := leAt e 4 1, lsb := leAt e 5 1, width := leAt e 6 1, sym := leAt e 8 8 })

/-- The addend that an instruction holds for a record. -/
def addend (x : Sect) (r : Reloc) : Nat := fld ((x.words[r.insn]?).getD 0) r.lsb r.width

/-- Index in OWN of the rank that a section serves. -/
def ownIdx (o : Obj) (x : Sect) : Nat := o.own.idxOf x.rank

/-- Names of a type that the streams of hosted rank `own` use, ascending: each symbol and, for a record with an addend,
the names up to it (DEDUCED, log entry 57, from the pair of hasps in R102's example). -/
def namesUsed (xs take : List Sect) (o : Obj) (own ty : Nat) : List Nat :=
  ((take.filter (fun x => ownIdx o x == own)).flatMap (fun x => ((relocsOf xs x).filter (·.ty == ty)).flatMap (fun r =>
    List.range' r.sym (addend x r + 1)))).mergeSort.eraseDups

/-- Physical latches among which a logical one binds (R149, R187 step 3): first number and count. -/
def latchRange (p : Part) (o : Obj) (own l : Nat) : Option (Nat × Nat) :=
  if l < 327680 then
    match o.cols[l / 16384]? with
    | some c => (p.quarter own c.first).map (fun q => (q / 4 * 16384, 16384))
    | none => none
  else if l < 393216 then some (327680, 65536) else none

/-- The lowest number of a range that a list lacks. -/
def lowest (used : List Nat) (lo cnt : Nat) : Option Nat := (List.range' lo cnt).find? (fun k => !used.contains k)

/-- Latches of all partitions. -/
def latchesUsed (s : State) : List Nat := s.parts.flatMap (fun e => e.2.bind.latches.map (·.2))
def haspsUsed (s : State) : List Nat := s.parts.flatMap (fun e => e.2.bind.hasps.map (·.2))

/-- Binds a latch, set to 0 (R150). A name that no column or the hub declares binds nothing, and relocation finds it so. -/
def placeLatch (n own l : Nat) : Try := fun s =>
  let p := s.part n
  match p.obj.bind (fun o => latchRange p o own l) with
  | none => some []
  | some (lo, cnt) => (lowest (latchesUsed s) lo cnt).map (fun k => (Act.all [
      modPart n (fun p => { p with bind := { p.bind with latches := p.bind.latches ++ [(nameKey own l, k)] } }),
      setLatch k 0]) s)

/-- Binds a hasp, unconfigured. -/
def placeHasp (n own h : Nat) : Try := fun s =>
  if 4096 ≤ h then some [] else
  (lowest (haspsUsed s) 0 4096).map (fun k => (Act.all [
    modPart n (fun p => { p with bind := { p.bind with hasps := p.bind.hasps ++ [(nameKey own h, k)] } }),
    fun s => modHasp k (fun _ => { owner := some n, ward := BitVec.ofNat 16 ((s.part n).tag n) }) s]) s)

/-- Index of a section among the object's STREAM sections: the logical queue of its stream (DEDUCED, log entry 57). -/
def queueName (xs : List Sect) (x : Sect) : Nat := ((streamSects xs).findIdx? (fun y => y.off == x.off)).getD 0

/-- The CLX streams by the names that each hosted rank's own sections give them: hosted rank, logical queue and physical queue (R247). -/
def clxNames (xs : List Sect) (o : Obj) (queues : List (Nat × Sect)) : List (Nat × Nat × Nat) :=
  (List.range o.own.length).flatMap (fun own =>
    ((streamSects xs).filter (fun x => x.attr % 16 == 8 && o.own[own]? == some x.rank)).filterMap (fun x =>
      (queues.find? (fun e => e.2.attr % 16 == 8 && e.2.unit == x.unit)).map (fun e => (own, queueName xs x, e.1))))

/-- Latches, hasps, queues and HDMA channels. -/
def placeNames (n : Nat) (xs take : List Sect) : Try := fun s =>
  match (s.part n).obj with
  | none => none
  | some o =>
    let owns := List.range o.own.length
    let queues := ((freeQueues s).take take.length).zip take
    let chans := (freeHdma s).zip (take.filter (fun x => x.attr % 16 == 10))
    Try.all [
      Try.each owns (fun own => Try.each (namesUsed xs take o own 2) (placeLatch n own)),
      Try.each owns (fun own => Try.each (namesUsed xs take o own 3) (placeHasp n own)),
      Try.of (modPart n (fun p => { p with bind := { p.bind with
        queues := queues.map (fun e => (queueName xs e.2, e.1)), clxNames := clxNames xs o queues,
        hdma := chans.map (fun e => (ownIdx o e.2 * 16 + e.2.unit, e.1)) } })),
      Try.of (Act.each chans (fun e => modPcie (fun p => { p with
        hdma := Tab.set {} p.hdma e.1
          { bound := true, part := BitVec.ofNat 5 n, lch := BitVec.ofNat 4 e.2.unit, outPorts := 0 } })))] s

/-! ### Clearing (R334) -/

/-- Zeros in host memory. -/
def zeroHost (lo n : Nat) : Act := fun s =>
  Act.each (s.store.host.filter (fun c => lo ≤ c.1 && decide (c.1 < lo + n))) (fun c => writeHost c.1 [0]) s

/-- Clears the DRAM of a quarter, with the poison in it (R334). Copies of its channels begin again (R306). -/
def clearDram (q : Nat) : Act := fun s =>
  let lo := quarterFrame0 s q * pageSize
  let hi := lo + quarterFrames s * pageSize
  Act.all [
    fun _ => [.clearMem lo hi],
    modCol (q / 4) (fun x => { x with
      poison := x.poison.filter (fun a => !(lo ≤ a && decide (a < hi)))
      chCopy := x.chCopy.map (fun e => if (x.position e.ch).map (· / 16) == some (q % 4) then { e with clean := [] } else e) })] s

/-- Clears a quarter's column store slice, vector registers and generator. -/
def clearEngines (q : Nat) : Act :=
  let sl := sramBase + q / 4 * 0x10000000 + q % 4 * 0x800000
  Act.all [fun _ => [.clearMem sl (sl + 0x800000), .clearVreg (vregIdx q 0 0) (vregIdx (q + 1) 0 0)], setGen q {}]

/-- Clears a cell's store and total buffer. -/
def clearCell (k : Nat) : Act := fun _ =>
  let lo := sramBase + k / 18 * 0x10000000 + 0x4000000 + k % 18 * 0x800000
  [.clearMem lo (lo + 0x800000), .clearTb (k * (tbRows * 256)) ((k + 1) * (tbRows * 256))]

/-- Cells of a quarter, in their own places. -/
def ownCells (q : Nat) : List Nat := (List.range 4).map (fun j => q / 4 * 18 + 4 * (q % 4) + j)

/-- Clears what the partition's engines hold: slices, registers, cell stores, total buffers. -/
def clearUnits (n : Nat) : Act := fun s =>
  let b := (s.part n).bind
  Act.all [
    Act.each b.quarters clearEngines,
    Act.each ((b.quarters.flatMap ownCells ++ b.cells.map (·.2)).eraseDups) clearCell] s

/-- A load leaves zeros in the segment of a page (R185): it is zero-filled, or the host does not fill it. -/
def zeroAtLoad (p : Part) (key : Nat) : Bool := match p.obj.bind (fun o => findSeg o.segs 0 (key % 0x80000 * pageSize)) with
  | some (_, g, _) => bit g.flags 2 || !bit g.flags 3
  | none => false

/-- Zeros in HOST homes (R185). -/
def clearHosted (n : Nat) : Act := fun s =>
  let p := s.part n
  Act.each (p.run.pages.filter (fun e => e.2.home == .host && zeroAtLoad p e.1)) (fun e => fun s =>
    match place s (e.2.frame * pageSize) with
    | .host b => zeroHost b pageSize s
    | _ => []) s

/-- Zeros in REMOTE homes (R185) travel as class 2 writes, as every access to them does (R189; DESIGN CHOICE, log entry 121). -/
def clearRemote (n : Nat) : Act := fun s =>
  let p := s.part n
  if p.recd.replay then [] else
  Act.each (p.run.pages.filter (fun e => e.2.home == .remote && zeroAtLoad p e.1)) (fun e =>
    writeRemote n (e.1 / 0x80000) (e.1 % 0x80000 * pageSize) (List.replicate pageSize 0)) s

/-- Clears all that the partition has bound before anything of it can reach it (R334). -/
def clearBound (n : Nat) : Act := fun s =>
  Act.all [Act.each (s.part n).bind.quarters clearDram, clearUnits n, clearHosted n] s

/-- Step 10 whole: everything bound and cleared, the counters of R267 with it. -/
def placeAll (n : Nat) (xs take : List Sect) : Try := fun s =>
  match (s.part n).obj with
  | none => none
  | some o =>
    if !planOk o || !enginesOk o take then none else Try.all [
      Try.of (modPart n (fun p => { p with bind := {
        quarters := List.replicate (o.own.length * o.quarters) noQuarter, ward := BitVec.ofNat 16 (p.tag n) } })),
      Try.each (colOrder o) (fun e => placeCol n e.1 e.2),
      placeRings n take,
      Try.each (List.range o.own.length) (fun own => Try.each (List.range o.segs.length) (placeSeg n own)),
      placeNames n xs take,
      Try.of (fun s => Act.each (s.part n).bind.quarters (fun q => modUu q (fun _ => {})) s),
      Try.of (clearBound n)] s

/-! ### Step 11 -/

/-- Table entries on which an entry lands (R216). -/
def landsOn (period index : Nat) : List Nat := (List.range (4096 / period)).map (fun k => index + k * period)

/-- A link that an object may name: UP, and in this device's tree (R217, R378). -/
def linkFit (s : State) (l : LinkId) : Bool :=
  let r := s.link l
  decide (l.link < 24) && r.state == linkUp && (match r.nCand with
    | some c => !c.settled || c.dev == s.tim.tree
    | none => true)

def powerOfTwo (k : Nat) : Bool := (List.range 13).any (fun i => decide (3 ≤ i) && k == 2 ^ i)

/-- One TUMBLER section against the entries that others hold and those of the sections before it. -/
def tumblerOk (s : State) (before : List TumSect) (t : TumSect) : Bool :=
  let r := s.link t.link
  let mine := t.ents.flatMap (fun e => landsOn t.period e.index)
  let prev := (before.filter (fun b => b.link == t.link)).flatMap (fun b => b.ents.flatMap (fun e => landsOn b.period e.index))
  linkFit s t.link && powerOfTwo t.period && t.ents.all (fun e => decide (e.index + 1 < t.period)) &&
  distinct (mine ++ prev) && mine.all (fun i => Tab.get 0 r.tumbler i == 0) &&
  decide (r.tumbler.length + prev.length + mine.length ≤ 4054)

/-- Every section in turn. -/
def tumblersOk (s : State) : List TumSect → List TumSect → Bool
  | _, [] => true
  | before, t :: ts => tumblerOk s before t && tumblersOk s (t :: before) ts

def routeKey (r : RouteRec) : Nat := (r.inDie * 256 + r.inLink) * 2 ^ 32 + r.inn

/-- The ROUTE records (R219, R217). -/
def routesOk (s : State) (rs : List RouteRec) : Bool :=
  let tr := rs.filter (·.kind == 1)
  rs.all (fun r => (r.kind == 1 || r.kind == 2) && linkFit s ⟨r.outDie, r.outLink⟩ &&
    (r.altDie == 0xFF || linkFit s ⟨r.altDie, r.altLink⟩) && (r.kind == 2 || linkFit s ⟨r.inDie, r.inLink⟩)) &&
  tr.all (fun r => decide (1 ≤ r.inn) && decide (r.inn < 4096) && Tab.get 0 (s.link ⟨r.inDie, r.inLink⟩).route r.inn == 0) &&
  distinct (tr.map routeKey)

def step11 (s : State) (n : Nat) (xs : List Sect) : Bool :=
  (s.part n).recd.replay || (tumblersOk s [] (tumSects xs) && routesOk s (routeRecs xs))

/-! ### Step 12 -/

/-- What a logical identifier resolves to (R102). -/
def resolve (p : Part) (own : Nat) (r : Reloc) : Option Nat :=
  match p.obj with
  | none => none
  | some o =>
    match r.ty with
    | 1 => p.quarter own r.sym
    | 2 => p.latchOf own r.sym
    | 3 => p.haspOf (nameKey own r.sym)
    | 4 => (p.bind.queues.find? (fun e => e.1 == r.sym)).map (·.2)
    | 5 => (o.map[r.sym]?).map (·.1)
    | 6 => (o.segs.findIdx? (fun g => g.symbol == r.sym)).map (segBase o.segs)
    | 7 => if p.kwy.winEn then some hostLogical else none
    | _ => none

/-- The field lies where a record may patch. -/
def fieldOk (w : InsnWord) (r : Reloc) : Bool :=
  decide (1 ≤ r.width) && decide (r.width ≤ 64) && decide (r.lsb + r.width ≤ (if timed w then 64 else 104)) &&
  !(opc w == 0x0A && decide (r.lsb < 72) && decide (53 < r.lsb + r.width))

/-- Applies records in order; `done` are those before. -/
def relocate (p : Part) (own : Nat) : List Reloc → List Reloc → List InsnWord → Option (List InsnWord)
  | _, [], ws => some ws
  | done, r :: rs, ws =>
    match ws[r.insn]?, resolve p own r with
    | some w, some v =>
      let sum := v + fld w r.lsb r.width
      if fieldOk w r && decide (sum < 2 ^ r.width) && !done.any (fun d => d.insn == r.insn && decide (d.lsb < r.lsb + r.width) &&
          decide (r.lsb < d.lsb + d.width)) then
        relocate p own (r :: done) rs (ws.set r.insn (putFld w r.lsb r.width sum))
      else none
    | _, _ => none

/-- Column of a latch, or the hub (R149). -/
def latchDie' (l : Nat) : Nat := if l < 327680 then l / 16384 else 20

/-- A patched image whose LBINDs name latches of one die (R156). -/
def patched (p : Part) (xs : List Sect) (x : Sect) : Option (List InsnWord) :=
  match p.obj with
  | none => none
  | some o => (relocate p (ownIdx o x) [] (relocsOf xs x) x.words).bind (fun ws =>
      if ws.all (fun w => opc w != 0x0B || latchDie' (fld w 45 19) == latchDie' (fld w 26 19)) then some ws else none)

/-- The patched images of all streams. -/
def patchAll (p : Part) (xs : List Sect) : List Sect → Option (List (List InsnWord))
  | [] => some []
  | x :: r => match patched p xs x, patchAll p xs r with
    | some w, some ws => some (w :: ws)
    | _, _ => none

end Sys2Proof.Machine
end

