-- ==== Sys2Proof/Machine/Clx.lean ====
section
/-!
DEFINITION. The CLX instructions (R227 to R245): descriptors, the checks at issue, and the start of each collective.
-/
namespace Sys2Proof.Machine

def cSlot (w : InsnWord) : Nat := fld w 32 8
/-- ROOT, or SHIFT of a CRING. -/
def cRoot (w : InsnWord) : Nat := fld w 16 16

/-- The descriptor slots of a CLX stream as a space. -/
def slotRng (k : Nat) : Rng := { space := .slot 0, lo := k, hi := k + 1 }

/-! ### CDESC (R228) -/

def cdescBlock (w : InsnWord) : Nat × Nat := (fld w 64 40 * 16, 64)
def cdescSlot (w : InsnWord) : Nat := fld w 56 8

/-- What R227 and R228 check of a descriptor when CDESC copies it. -/
def descBad (ranks : Nat) (d : List Byte) : Bool :=
  dGsize d == 0 || dGstride d == 0 || ranks % (dGsize d * dGstride d) != 0 ||
  dSrc d % 256 != 0 || dDst d % 256 != 0 || dAux d % 256 != 0 || 2 ≤ dFlags d || !zeroAt d 0x3D 3

/-- Number of a descriptor slot of a hosted rank: each rank's instruction acts in its own space (R247). -/
def descKey (own k : Nat) : Nat := own * 256 + k

def cdescWrites (s : State) (n : Nat) (w : InsnWord) : List Wr :=
  (owns (s.part n)).map (fun own => .desc own (cdescSlot w) (readL s n own (cdescBlock w).1 64))

/-- CDESC (R228, R231) acts once for each hosted rank, in its space (R247). A block in a REMOTE home or in the host window is
checked when it has arrived (Machine/Visible). -/
def cdescBody (c : Ctx) : Verdict :=
  let rs := [cdescBlock c.w]
  let os := owns c.p
  let out := os.findSome? (fun own => firstOut c.p own c.eng rs)
  let fs := if out.isSome then [] else os.flatMap (fun own => remoteParts c.p own c.eng rs ++ hostParts c.p own rs)
  let ranks := (c.p.obj.map (·.ranks)).getD 0
  if c.p.run.ops.any (fun o => o.sid == c.sid && (o.coll.map (·.slot)) == some (cdescSlot c.w)) then .wait 6
  else if out.isNone && fs.isEmpty && os.any (fun own => descBad ranks (readL c.s c.n own (cdescBlock c.w).1 64))
    then .fault .illegal 3 0
  else .go {
    dur := duration (plan c.p c.sid.own c.eng rs) 64 + 4, rd := os.map (fun own => memRng own (cdescBlock c.w).1 64),
    wr := [slotRng (cdescSlot c.w)], pend := if out.isSome then [] else cdescWrites c.s c.n c.w,
    fetch := fs, ward := out, ordered := false }

/-- CDESC (R228): loads a descriptor slot. -/
def execCdesc (sid : StreamId) (w : InsnWord) (s : State) : Host.Outcome State Fault Refusal :=
  .next ((issueR sid w (opc w == 0x70) cdescBody).run s)

/-! ### The checks of R229 and R230 -/

/-- The fields of a descriptor beside those of every operation, as zero or not: AUX, CAP, ROW, DPHASE, FIN, FOUT, FLAGS,
TS1, in the order in which an operation lists those it may use. -/
structure DescUse where
  aux : Bool := false
  cap : Bool := false
  row : Bool := false
  dphase : Bool := false
  fmt : Bool := false
  ts1 : Bool := false

def descZeros (d : List Byte) (u : DescUse) : Bool :=
  (u.aux || dAux d == 0) && (u.cap || dCap d == 0) && (u.row || dRow d == 0) && (u.dphase || dDphase d == 0) &&
  (u.fmt || (dFin d == 0 && dFout d == 0 && dFlags d == 0)) && (u.ts1 || dTs d 1 == 0)

/-- A row size of R228. -/
def rowOk (d : List Byte) : Bool := dRow d % 16 == 0 && 16 ≤ dRow d && decide (dRow d ≤ 65536)

/-- DETAIL of an operation's slot that R230 refuses, if it does. -/
def descDetail (opc sub : Nat) (d : List Byte) : Option Nat :=
  let three (ok : Bool) : Option Nat := if ok then none else some 3
  match opc, sub with
  | 0x71, _ => firstOf [three (descZeros d { aux := true, fmt := true, ts1 := true } && 1 ≤ dCount d &&
        decide (dCount d ≤ 2 ^ 28)),
      if [1, 2, 3, 4, 5].contains (dFin d) && [4, 5].contains (dFout d) then none else some 6]
  | 0x72, _ => three (descZeros d { ts1 := true } && dCount d % 256 == 0)
  | 0x73, 0 => three (descZeros d { row := true } && rowOk d)
  | 0x73, _ => three (descZeros d { aux := true, cap := true, row := true, dphase := true } && rowOk d)
  | 0x74, _ => three (descZeros d { aux := true, cap := true })
  | _, _ => three (descZeros d {} && dCount d % 256 == 0)

/-! ### First links (R232) -/

/-- The link on which messages to a rank leave, and whether its STANDBY entries count: while the primary link of its
ORIGIN record is FAILED. -/
def firstLink (s : State) (o : Obj) (rank : Nat) : Option (LinkId × Bool) :=
  match o.origins.find? (fun r => r.rank == rank) with
  | some r => some ((originWay s r).link, (s.link ⟨r.die, r.link⟩).state == linkFailed)
  | none => (wayTo s o rank).map (fun w => (w.link, false))

/-- A link holds a reserved entry of tumbler stream `ts` of partition `n` (R215, R232). -/
def hasSlot (s : State) (l : LinkId) (n ts : Nat) (standby : Bool) : Bool :=
  (s.link l).tumbler.any (fun e => bit e.2 31 && !bit e.2 29 && fld e.2 24 5 == n && fld e.2 0 8 == ts &&
    (standby || !bit e.2 30))

/-- The members (rank, tumbler stream) to which one hosted rank sends class 0 traffic in an operation. -/
def collTargets (o : Obj) (c : Coll) (x : CollRank) : List (Nat × Nat) :=
  let d := x.desc
  let rank := (o.own[x.own]?).getD 0
  let gn := dGsize d
  let me := groupIndex d rank
  let at? (t q : Nat) : Nat × Nat := (member d rank (treeIdx gn c.root t q), dTs d t)
  let up (t : Nat) : List (Nat × Nat) := match parentPos gn t (treePos gn c.root t me) with
    | some (q, _) => [at? t q]
    | none => []
  let down (t : Nat) : List (Nat × Nat) :=
    let k := childPos gn t (treePos gn c.root t me)
    k.1.toList.map (at? t) ++ k.2.toList.map (at? t)
  let ts (n : Nat) : List Nat := (List.range 2).filter (fun t => decide (0 < (if n = 0 then redRange (dCount d) t
    else bcRange (dCount d) t).2))
  match c.opc, c.sub with
  | 0x71, 0 => (ts 0).flatMap up
  | 0x71, _ => (ts 0).flatMap (fun t => up t ++ down t)
  | 0x72, _ => (ts 1).flatMap down
  | 0x73, _ => (othersFrom gn me).map (fun j => (member d rank j, dTs d 0))
  | 0x74, 0 => if me == c.root then [] else [(member d rank c.root, dTs d 0)]
  | 0x74, _ => []
  | _, _ => [(member d rank ((me + c.root) % gn), dTs d 0)]

/-- Every first link that an operation needs has a reserved entry of its tumbler stream (R232). In replay nothing leaves
and no tumbler is installed (R280). -/
def slotsOk (s : State) (n : Nat) (o : Obj) (c : Coll) : Bool :=
  (s.part n).recd.replay || c.ranks.all (fun x => (collTargets o c x).all (fun t =>
    o.own.contains t.1 || (match firstLink s o t.1 with
      | some (l, sb) => hasSlot s l n t.2 sb
      | none => true)))

/-- Members that no path reaches (R424). -/
def unreached (s : State) (n : Nat) (o : Obj) (c : Coll) : Bool :=
  c.ranks.any (fun x => (collTargets o c x).any (fun t => !canReach s n t.1))

/-! ### Issue -/

/-- Operations of one stream that may be in progress (R231). -/
def collLimit : Nat := 8

/-- The operation that a word starts on the hosted ranks of its partition, each with its own descriptor (R247). -/
def collStart (c : Ctx) (o : Obj) : Coll := {
  opc := opc c.w, sub := sub c.w, slot := cSlot c.w, root := cRoot c.w, tag := c.st.collSeq,
  strike := if timed c.w then strikeOf c.p.run c.st c.w else c.psc,
  ranks := (List.range o.own.length).map (fun own => {
    own := own, desc := Tab.get [] c.st.descs (descKey own (cSlot c.w)), up0 := false, up1 := false, down0 := false,
    down1 := false, sq := false, counts := false, data := false, applied := false }) }

/-- What R229 and R230 find wrong in the slot of a hosted rank. -/
def slotDetail (w : InsnWord) (d : List Byte) : Option Nat :=
  if d.isEmpty || (opc w == 0x75 && cRoot w == 0) || (opc w != 0x73 && dGsize d ≤ cRoot w) then some 3
  else descDetail (opc w) (sub w) d

/-- The memory ranges of an operation. -/
def collRngs (k : Coll) (f : CollRank → List (Nat × Nat)) : List Rng :=
  k.ranks.flatMap (fun x => (f x).map (fun r => memRng x.own r.1 r.2))

/-- A collective at its queue head (R229 to R233). Its planned duration is the largest PLAN of the hosted ranks (DESIGN CHOICE,
log entry 102). -/
def collBody (c : Ctx) : Verdict :=
  match c.p.obj with
  | none => .wait 6
  | some o =>
    let w := c.w
    let k := collStart c o
    let busy (x : Op) : Bool := x.sid == c.sid && x.wr.any (·.meets (slotRng (cSlot w)))
    if c.p.run.ops.any busy then .wait 6
    else if collLimit ≤ (c.p.run.ops.filter (fun x => x.sid == c.sid && x.coll.isSome)).length then .wait 6
    else match k.ranks.findSome? (fun x => slotDetail w x.desc) with
      | some x => .fault .illegal x 0
      | none =>
        if unreached c.s c.n o k then .fault .ward 0 0
        else if !slotsOk c.s c.n o k then .fault .illegal 3 0
        else .go {
          dur := (k.ranks.map (fun x => dPlan x.desc)).foldl max 0, ordered := false,
          rd := slotRng (cSlot w) :: collRngs k (fun x => collHead k x ++ collReads c.s c.n o k x),
          wr := collRngs k (collResults o k), coll := some k, cause := .remote,
          ward := k.ranks.findSome? (collOut c.s c.n o k),
          act := fun _ => Act.all [
            modStream c.sid (fun t => { t with collSeq := t.collSeq + 1 }),
            modClx (c.sid.unit * 32 + c.n) (fun x => { x with
              lastSlot := BitVec.ofNat 8 (cSlot w), seq := c.st.collSeq + 1 }),
            progress (deliver c.n) c.n, retryLinks] }

/-- CRED REDUCE (R237). -/
def execCredReduce (sid : StreamId) (w : InsnWord) (s : State) : Host.Outcome State Fault Refusal :=
  .next ((issueR sid w (opc w == 0x71 && sub w == 0) collBody).run s)

/-- CRED ALLREDUCE (R237). -/
def execCredAllreduce (sid : StreamId) (w : InsnWord) (s : State) : Host.Outcome State Fault Refusal :=
  .next ((issueR sid w (opc w == 0x71 && sub w == 1) collBody).run s)

/-- CBC (R238): broadcast. -/
def execCbc (sid : StreamId) (w : InsnWord) (s : State) : Host.Outcome State Fault Refusal :=
  .next ((issueR sid w (opc w == 0x72) collBody).run s)

/-- CA2A EQUAL (R240). -/
def execCa2aEqual (sid : StreamId) (w : InsnWord) (s : State) : Host.Outcome State Fault Refusal :=
  .next ((issueR sid w (opc w == 0x73 && sub w == 0) collBody).run s)

/-- CA2A UNEQUAL (R241): its counts phase; the data phase is a row of its own. -/
def execCa2aUnequal (sid : StreamId) (w : InsnWord) (s : State) : Host.Outcome State Fault Refusal :=
  .next ((issueR sid w (opc w == 0x73 && sub w == 1) collBody).run s)

/-- COACC SEND (R244). -/
def execCoaccSend (sid : StreamId) (w : InsnWord) (s : State) : Host.Outcome State Fault Refusal :=
  .next ((issueR sid w (opc w == 0x74 && sub w == 0) collBody).run s)

/-- COACC APPLY (R245). -/
def execCoaccApply (sid : StreamId) (w : InsnWord) (s : State) : Host.Outcome State Fault Refusal :=
  .next ((issueR sid w (opc w == 0x74 && sub w == 1) collBody).run s)

/-- CRING (R243). -/
def execCring (sid : StreamId) (w : InsnWord) (s : State) : Host.Outcome State Fault Refusal :=
  .next ((issueR sid w (opc w == 0x75) collBody).run s)

/-- The data phase of a CA2A UNEQUAL (R241): DPHASE cycles after its strike each hosted rank sends its rows. -/
def dataPhase (n id : Nat) : Act := fun s =>
  match ((s.part n).run.ops.find? (fun o => o.id == id)).bind (·.coll) with
  | some k => if k.ranks.any (phaseDue s n k) then Act.all [progress (deliver n) n, retryLinks] s else []
  | none => []

/-- CA2A_DATA_PHASE (R241). -/
def execCa2aDataPhase (part op : Nat) (s : State) : Host.Outcome State Fault Refusal :=
  .next ((dataPhase part op).run s)

end Sys2Proof.Machine
end

