-- ==== Sys2Proof/Machine/Mov.lean ====
section
/-!
DEFINITION. The MOV and LMOV instructions (R193 to R202).
-/
namespace Sys2Proof.Machine

/-- Bytes in 256 byte units, rounded up, as the counters take them (R352). -/
def units256 (n : Nat) : Nat := ceilDiv n 256

/-- Counts the bytes of a quarter's MOV (R352). -/
def movCount (c : Ctx) (n : Nat) : Act :=
  let q := (c.p.quarter c.sid.own c.sid.unit).getD 0
  count (ctrCol (q / 4) (0x3E + q % 4)) (units256 n)

/-! ### MCPY (R194) -/

def mcpyDst (w : InsnWord) : Nat := fld w 64 40 * 16
def mcpySrc (w : InsnWord) : Nat := fld w 24 40 * 16
def mcpyLen (w : InsnWord) : Nat := (fld w 0 24 + 1) * 16

/-- What an MCPY writes. -/
def mcpyWrites (s : State) (n own : Nat) (w : InsnWord) : List Wr :=
  let len := mcpyLen w
  [.mem own (mcpyDst w) (if bit w 104 then List.replicate len 0
    else mcpyFuel n own (mcpySrc w) (mcpyDst w) len (len / 256 + 1) s [])]

/-- MCPY (R194, R202). -/
def mcpyBody (c : Ctx) : Verdict :=
  let zero := bit c.w 104
  let len := mcpyLen c.w
  let dst := [(mcpyDst c.w, len)]
  let src := if zero then [] else [(mcpySrc c.w, len)]
  let ld := plan c.p c.sid.own c.eng dst
  let ls := plan c.p c.sid.own c.eng src
  let lr := if zero then ld else (max ls.1 ld.1, min ls.2 ld.2)
  .go { dur := duration lr len, unit := 1, rd := src.map (fun x => memRng c.sid.own x.1 x.2),
        wr := [memRng c.sid.own (mcpyDst c.w) len], pend := mcpyWrites c.s c.n c.sid.own c.w, fetch := fetchOf c src,
        ward := wardOf c (src ++ dst), act := fun _ => movCount c len }

/-- MCPY (R194). -/
def execMcpy (sid : StreamId) (w : InsnWord) (s : State) : Host.Outcome State Fault Refusal :=
  .next ((issueR sid w (opc w == 0x60) mcpyBody).run s)

/-! ### PFH (R195) -/

def pfhDst (w : InsnWord) : Nat := fld w 64 40 * 16
/-- Partition-logical address of the host window offset that a PFH reads. -/
def pfhSrc (w : InsnWord) : Nat := hostLogical + fld w 36 28 * 4096
def pfhLen (w : InsnWord) : Nat := (fld w 20 16 + 1) * 4096

/-- The bytes of a transfer from the host window that lie inside it. -/
def windowPart (p : Part) (a len : Nat) : Nat :=
  if p.kwy.winEn then min len (hostLogical + p.kwy.winSize.toNat * gib - a) else 0

/-- An address lies in host memory. -/
def inHost (p : Part) (own a : Nat) : Bool := match p.reach own a with
  | .loc y => hostBase ≤ y && y < regBase
  | _ => false

/-- First byte of a range that reaches host memory (R195). -/
def hostTarget (p : Part) (own a len : Nat) : Option Nat :=
  ((pageParts (len / pageSize + 2) a len).find? (fun x => inHost p own x.1)).map (·.1)

/-- The parts of what a PFH writes that do not lie in host memory: what does is dropped (R93, R195). -/
def pfhParts (p : Part) (own a : Nat) (bs : List Byte) : List (Nat × List Byte) :=
  ((pageParts (bs.length / pageSize + 2) a bs.length).filter (fun x => !inHost p own x.1)).map (fun x =>
    (x.1, slice bs (x.1 - a) x.2))

/-- A transfer from the host that `id` makes: chunks, or in replay the bytes of the record (R281). -/
def hostFetch (n own : Nat) (src len : Nat) (id : Nat) : Act := fun s =>
  if (s.part n).recd.replay then [] else addChunks false n own id src len s

/-- PFH (R195): the read starts at issue; bytes land with their chunks. Those past the window's end read as zeros (R93). -/
def pfhBody (c : Ctx) : Verdict :=
  let len := pfhLen c.w
  let k := windowPart c.p (pfhSrc c.w) len
  .go { dur := 16 * fld c.w 0 20, unit := 1, rd := [memRng c.sid.own (pfhSrc c.w) len],
        wr := [memRng c.sid.own (pfhDst c.w) (min len (hostLogical - pfhDst c.w))],
        pend := (pfhParts c.p c.sid.own (pfhDst c.w + k) (List.replicate (len - k) 0)).map (fun x => .mem c.sid.own x.1 x.2),
        want := if c.p.recd.replay then k else 0, cause := .prefetch,
        ward := (wardOf c [(pfhSrc c.w, len)]).or
          ((wardOf c [(pfhDst c.w, len)]).or (hostTarget c.p c.sid.own (pfhDst c.w) len)),
        act := fun id => Act.all [movCount c len, hostFetch c.n c.sid.own (pfhSrc c.w) k id] }

/-- PFH (R195). -/
def execPfh (sid : StreamId) (w : InsnWord) (s : State) : Host.Outcome State Fault Refusal :=
  .next ((issueR sid w (opc w == 0x61) pfhBody).run s)

/-! ### LMOV (R196 to R200) -/

/-- LSET (R196): the transfer tag, class and length of the stream. -/
def lsetBody (c : Ctx) : Verdict :=
  .go { dur := 1, unit := 1, pend := [.lset (BitVec.ofNat 16 (fld c.w 88 16)) (BitVec.ofNat 2 (fld c.w 86 2))
    (BitVec.ofNat 24 (fld c.w 0 24))] }

/-- LSET (R196). -/
def execLset (sid : StreamId) (w : InsnWord) (s : State) : Host.Outcome State Fault Refusal :=
  .next ((issueR sid w (opc w == 0x7B) lsetBody).run s)

def lRank (w : InsnWord) : Nat := fld w 88 16
def lRaddr (w : InsnWord) : Nat := fld w 56 32 * 256
def lLaddr (w : InsnWord) : Nat := fld w 22 34 * 256
def Ctx.lBytes (c : Ctx) : Nat := (c.st.llen.toNat + 1) * 256

/-- A remote access that cannot start: no class set (R196), or no way to the rank (R197, R424). -/
def remoteOk (f : Ctx → Verdict) (c : Ctx) : Verdict :=
  if c.p.run.ops.any (fun o => o.sid == c.sid && opc o.word == 0x7B) then .wait 6
  else if c.st.lcls.toNat < 2 then .fault .illegal 3 0
  else if !canReach c.s c.n (lRank c.w) then .fault .ward 0 0
  else f c

/-- A link grant in 1/256 byte per cycle is capped at 64 bytes per cycle (R202). -/
def linkGrant : Nat := 16384

/-- Remembers the class of a write or atomic with its tag, in which a later signal travels (R158). -/
def noteClass (n rank tag cls : Nat) : Act := modRun n (fun r => { r with
  lastClass := (rank, tag, cls) :: r.lastClass.filter (fun e => !(e.1 == rank && e.2.1 == tag)) })

/-- The remote access that an LMOV instruction makes as operation `id`, of its stream's class and tag. -/
def Ctx.outgoing (c : Ctx) (id : Nat) (kind : MsgKind) (far near len arg : Nat) (bs : List Byte) (ready : Bool) : Outgoing := {
  op := id, own := c.sid.own, sid := c.sid, qpos := c.q.head, word := c.w, kind := kind, rank := lRank c.w,
  cls := c.st.lcls.toNat, tag := c.st.ltag, far := far, near := near, len := len, arg := arg, bytes := bs, ready := ready }

/-- LWR (R197, R202). Its messages leave at issue, or at its visibility point when its source lies in a REMOTE home. -/
def lwrBody (c : Ctx) : Verdict :=
  let len := c.lBytes
  let src := [(lLaddr c.w, len)]
  let lr := plan c.p c.sid.own c.eng src
  let fs := fetchOf c src
  let cls := c.st.lcls.toNat
  let late := !fs.isEmpty
  .go { dur := duration (lr.1, min lr.2 linkGrant) len, unit := 1, rd := [memRng c.sid.own (lLaddr c.w) len], fetch := fs,
        ward := wardOf c src,
        act := fun id => Act.all [
          countF (20 + c.sid.unit) (ctrDie c.sid.unit 0x03) (units256 len)
            { part := some c.n, master := 5, cls := some cls },
          noteClass c.n (lRank c.w) c.st.ltag.toNat cls,
          fun s => pushOut (deliver c.n) c.n (c.outgoing id .write (lRaddr c.w) (lLaddr c.w) len 0
            (if late then [] else readL s c.n c.sid.own (lLaddr c.w) len) (!late)) s] }

/-- LWR (R197): remote write. -/
def execLwr (sid : StreamId) (w : InsnWord) (s : State) : Host.Outcome State Fault Refusal :=
  .next ((issueR sid w (opc w == 0x78) (remoteOk lwrBody)).run s)

/-- Grant of the segment of the rank's own plan that holds the remote address (R202). -/
def remoteGrant (p : Part) (a : Nat) : Nat := match p.obj with
  | none => linkGrant
  | some o => match findSeg o.segs 0 a with
    | some (_, g, _) => if g.grant = 0 then linkGrant else min g.grant linkGrant
    | none => linkGrant

def rhops (p : Part) : Nat := (p.obj.map (·.rhops)).getD 0

/-- LRD (R197, R202): its bytes are written at its visibility point. It asks for them in one request per part (R422). -/
def lrdBody (c : Ctx) : Verdict :=
  let len := c.lBytes
  .go { dur := 776 + 448 * rhops c.p + ceilDiv (len * 256) (remoteGrant c.p (lRaddr c.w)), unit := 1,
        wr := [memRng c.sid.own (lLaddr c.w) len], want := len, cause := .remote, ward := wardOf c [(lLaddr c.w, len)],
        act := fun id => pushOut (deliver c.n) c.n (c.outgoing id .readReq (lRaddr c.w) (lLaddr c.w) len 0 [] true) }

/-- LRD (R197): remote read. -/
def execLrd (sid : StreamId) (w : InsnWord) (s : State) : Host.Outcome State Fault Refusal :=
  .next ((issueR sid w (opc w == 0x79) (remoteOk lrdBody)).run s)

/-- LATOM (R200, R202): its old value is written at its visibility point. -/
def latomBody (c : Ctx) : Verdict :=
  let block := fld c.w 8 38 * 16
  let rs := [(block, 16)]
  let fs := fetchOf c rs
  let late := !fs.isEmpty
  .go { dur := 776 + 448 * rhops c.p + 16, unit := 1, rd := [memRng c.sid.own block 16], wr := [memRng c.sid.own block 8],
        want := 8, cause := .remote, fetch := fs, ward := wardOf c rs,
        act := fun id => Act.all [
          noteClass c.n (lRank c.w) c.st.ltag.toNat c.st.lcls.toNat,
          fun s => pushOut (deliver c.n) c.n (c.outgoing id .atomic (fld c.w 51 37 * 8) block 8
            (fld c.w 48 3 * 256 + fld c.w 46 2) (if late then [] else readL s c.n c.sid.own block 16) (!late)) s] }

/-- LATOM (R200): remote integer atomic. -/
def execLatom (sid : StreamId) (w : InsnWord) (s : State) : Host.Outcome State Fault Refusal :=
  .next ((issueR sid w (opc w == 0x7A) (remoteOk latomBody)).run s)

end Sys2Proof.Machine
end

