-- ==== Sys2Proof/Machine/Hdma.lean ====
section
/-!
DEFINITION. The HDMA streams (R391 to R393, R419) and the chunks and ports of host traffic (R389, R390, R401).
-/
namespace Sys2Proof.Machine

/-! ### The instructions -/

/-- Partition-logical address of device memory that an HXFER names. -/
def hxDev (w : InsnWord) : Nat := fld w 64 40 * 16
/-- Partition-logical address of the host window offset that an HXFER names. -/
def hxHost (w : InsnWord) : Nat := hostLogical + fld w 36 28 * 4096
def hxLen (w : InsnWord) : Nat := (fld w 20 16 + 1) * 4096
def hxGrant (w : InsnWord) : Nat := fld w 0 16
/-- Planned duration of an HXFER (R391). -/
def hxDur (w : InsnWord) : Nat := 3200 + ceilDiv (hxLen w * 256) (hxGrant w)



/-- HXFER IN (R391): the read starts at issue; bytes land with their chunks, and past the window's end zeros (R93). A stream's transfers run one at a time
(DEDUCED, log entry 43). -/
def hxInBody (c : Ctx) : Verdict :=
  let len := hxLen c.w
  let k := windowPart c.p (hxHost c.w) len
  .go { dur := hxDur c.w, unit := 1, rd := [memRng c.sid.own (hxHost c.w) len],
        wr := [memRng c.sid.own (hxDev c.w) len], want := if c.p.recd.replay then k else 0, cause := .prefetch,
        pend := if k < len then [.mem c.sid.own (hxDev c.w + k) (List.replicate (len - k) 0)] else [],
        ward := (wardOf c [(hxHost c.w, len)]).or (wardOf c [(hxDev c.w, len)]),
        act := fun id => hostFetch c.n c.sid.own (hxHost c.w) k id }

/-- HXFER with SUB IN (R391). -/
def execHxferIn (sid : StreamId) (w : InsnWord) (s : State) : Host.Outcome State Fault Refusal :=
  .next ((issueR sid w (opc w == 0x7C && sub w == 0) hxInBody).run s)

/-- What an HXFER OUT writes to the host. -/
def hxOutWrites (s : State) (n own : Nat) (w : InsnWord) : List Wr :=
  [.mem own (hxHost w) (readL s n own (hxDev w) (hxLen w))]

/-- HXFER OUT (R391): complete when the host has accepted every chunk, which its write to the host window sends. -/
def hxOutBody (c : Ctx) : Verdict :=
  let len := hxLen c.w
  .go { dur := hxDur c.w, unit := 1, rd := [memRng c.sid.own (hxDev c.w) len],
        wr := [memRng c.sid.own (hxHost c.w) len], cause := .prefetch, pend := hxOutWrites c.s c.n c.sid.own c.w,
        fetch := remoteParts c.p c.sid.own c.eng [(hxDev c.w, len)],
        ward := (wardOf c [(hxDev c.w, len)]).or (wardOf c [(hxHost c.w, len)]) }

/-- HXFER with SUB OUT (R391). -/
def execHxferOut (sid : StreamId) (w : InsnWord) (s : State) : Host.Outcome State Fault Refusal :=
  .next ((issueR sid w (opc w == 0x7C && sub w == 1) hxOutBody).run s)

/-- Partition-logical address of a note. -/
def noteAddr (w : InsnWord) : Nat := hostLogical + fld w 64 40 * 16

/-- HNOTE (R392): a zero-length read on each port that carried the stream's earlier OUT transfers, then the note on
port 0. -/
def hnoteBody (c : Ctx) : Verdict :=
  let a := noteAddr c.w
  let ports := match c.p.channel c.sid with
    | some ch => (Tab.get {} c.s.pcie.hdma ch).outPorts
    | none => 0
  let b := busOf c.p a
  let flush := ([0, 1].filter (fun i => bit ports i)).map (fun i => (i, b, 0))
  .go { dur := 3200, unit := 1, wr := [memRng c.sid.own a 16], cause := .prefetch,
        pend := [.mem c.sid.own a (leBytes 4 (fld c.w 0 32) ++ leBytes 4 c.sid.unit ++ List.replicate 8 0)],
        ward := wardOf c [(a, 16)],
        act := fun id => Act.guard (decide (0 < windowPart c.p a 16))
          (putChunks true c.n c.sid.own id (flush ++ [(0, b, 16)])) }

/-- HNOTE (R392). -/
def execHnote (sid : StreamId) (w : InsnWord) (s : State) : Host.Outcome State Fault Refusal :=
  .next ((issue sid w (opc w == 0x7D) hnoteBody).run s)

/-- HIRQ (R393): its interrupt goes out at its visibility point. -/
def execHirq (sid : StreamId) (w : InsnWord) (s : State) : Host.Outcome State Fault Refusal :=
  .next ((issue sid w (opc w == 0x7E) (fun _ => .go { dur := 4, pend := [.irq] })).run s)

/-! ### Chunks -/

/-- An operation whose bytes land with their chunks: a PFH or an HXFER IN. -/
def landsChunks (o : Op) : Bool := opc o.word == 0x61 || (opc o.word == 0x7C && sub o.word == 0)
def chunkSrc (o : Op) : Nat := if opc o.word = 0x61 then pfhSrc o.word else hxHost o.word
def chunkDst (o : Op) : Nat := if opc o.word = 0x61 then pfhDst o.word else hxDev o.word

/-- Address at which a chunk lands. -/
def chunkAddr (p : Part) (o : Op) (c : Chunk) : Nat := chunkDst o + (c.addr - busOf p (chunkSrc o))

/-- Partition-logical address of a chunk. -/
def chunkFrom (p : Part) (c : Chunk) : Nat := hostLogical + (c.addr - p.kwy.haddr.toNat)

/-- The parts of the host window that an operation reads at its present stage. -/
def opHostParts (s : State) (n : Nat) (o : Op) : List Fetch :=
  let p := s.part n
  match o.coll, p.obj with
  | some c, some ob => c.ranks.flatMap (fun x =>
      hostParts p x.own (if x.asked ≤ 1 then collHead c x else collReads s n ob c x))
  | _, _ => o.rd.flatMap (fun r => match r.space with
      | .mem own => hostParts p own [(r.lo, r.hi - r.lo)]
      | _ => [])

/-- Adds a span to sorted spans that do not meet. -/
def addSpan : List (Nat × Nat) → Nat × Nat → List (Nat × Nat)
  | [], x => [x]
  | y :: ys, x =>
    if x.2 < y.1 then x :: y :: ys
    else if y.2 < x.1 then y :: addSpan ys x
    else addSpan ys (min x.1 y.1, max x.2 y.2)

/-- The spans that a hosted rank reads of the host window in an operation, in ascending order, each byte once (R273). -/
def hostSpans (s : State) (n own : Nat) (o : Op) : List (Nat × Nat) :=
  (((opHostParts s n o).filter (fun f => f.own == own && f.len != 0)).map (fun f => (f.addr, f.addr + f.len))).foldl addSpan []

/-- A byte that an operation's chunks have brought. -/
def broughtAt (r : Run) (id key a : Nat) : Byte :=
  ((r.remoteBuf.find? (fun e => e.1 == id && e.2.1 == key && e.2.2.1 ≤ a && a < e.2.2.1 + e.2.2.2.length)).bind
    (fun e => e.2.2.2[a - e.2.2.1]?)).getD 0

/-- Key under which an operation's host bytes are kept: those that land with their chunks are not read again. -/
def broughtKey (o : Op) (own : Nat) : Nat := if landsChunks o then own + lrdMark else own

/-- The transfer of R274 that the host bytes of a hosted rank are. -/
def hostXfer (s : State) (n own : Nat) (o : Op) : Xfer :=
  let p := s.part n
  let sp := hostSpans s n own o
  let inn := opc o.word == 0x7C
  { own := own, peer := hostPeer, kind := if inn then 0x11 else 0x12, outb := false,
    epoch := p.run.jobEpoch p.run.bindingEpoch, tag := 0,
    addr := if inn then hxDev o.word else (sp.head?.map (·.1)).getD 0, bytes := (sp.map (fun x => x.2 - x.1)).sum, arg := 0,
    payload := sp.flatMap (fun x => (List.range (x.2 - x.1)).map (fun i =>
      broughtAt p.run o.id (broughtKey o own) (x.1 + i))) }

/-- Reads of the host window for an operation are under way. -/
def readsWait (s : State) (n id : Nat) : Bool := s.pcie.chunks.any (fun c => c.requester == n && c.op == id && !c.out)

/-- The bytes of a chunk that an operation reads: those of a PFH or an HXFER IN land as external writes (R90), others wait for
the operation's visibility point. -/
def bringChunk (n : Nat) (o : Op) (c : Chunk) : Act := fun s =>
  let p := s.part n
  let bs := s.store.host.readN c.addr c.len
  let keep : Act := modRun n (fun r => { r with
    remoteBuf := (o.id, broughtKey o c.own, chunkFrom p c, bs) :: r.remoteBuf })
  if landsChunks o then Act.all [
    trackExt n c.own (chunkAddr p o c) c.len (annOp o.id),
    Act.each (if opc o.word = 0x61 then pfhParts p c.own (chunkAddr p o c) bs else [(chunkAddr p o c, bs)])
      (fun x => store n c.own x.1 x.2),
    Act.guard p.recd.fp keep] s
  else Act.all [keep, gotBytes n o.id c.len] s

/-- What the completion of a chunk does to the operation it serves: its bytes come, the ports of an OUT are noted (R392), and
the last byte makes a host input of R274. -/
def landChunk (n : Nat) (o : Op) (c : Chunk) : Act := fun s =>
  let p := s.part n
  Act.all [
    Act.guard (!c.out) (bringChunk n o c),
    match p.channel o.sid with
      | some ch => Act.guard (o.sid.kind == .hdma) (Act.all [
          count (ctrHub (0x04 + ch)) 1,
          Act.guard (opc o.word == 0x7C && sub o.word == 1) (modPcie (fun x => { x with
            hdma := Tab.set {} x.hdma ch { Tab.get {} x.hdma ch with
              outPorts := (Tab.get {} x.hdma ch).outPorts ||| BitVec.ofNat 2 (2 ^ c.port) } }))])
      | none => Act.skip,
    fun t => Act.guard (!c.out && !readsWait t n o.id) (Act.each (owns p) (fun own =>
      Act.guard (!(hostSpans s n own o).isEmpty) (fun t => recInputOp n (hostXfer t n own o) (some o.id) t))) t,
    Act.guard (!c.out && !landsChunks o) (Act.all [atomicReady (deliver n) n o.id, progress (deliver n) n])] s

/-- The operation that a chunk serves. -/
def chunkOp (s : State) (c : Chunk) : Option Op := (s.part c.requester).run.ops.find? (fun o => o.id == c.op)

/-- Bytes that would have to be copied before they are overwritten find no room in the snapshot buffer (R290): the chunk
cannot end yet. -/
def chunkHeld (s : State) (c : Chunk) : Bool := match chunkOp s c with
  | some o => !c.out && landsChunks o && cowFull s c.requester c.own (chunkAddr (s.part c.requester) o c) c.len
  | none => false

/-- The chunk in progress on a port. -/
def activeChunk (s : State) (port : Nat) : Option Chunk := s.pcie.chunks.find? (fun c => c.active && c.port == port)

/-- A chunk ends on a port, which takes the next one (R390). -/
def chunkDone (port : Nat) : Act := fun s =>
  match activeChunk s port with
  | none => []
  | some c =>
    if chunkHeld s c then [] else
    Act.all [
      modPcie (fun p => { p with chunks := p.chunks.filter (fun x => x != c) }),
      count (ctrHub ((if c.out && c.len != 0 then 2 else 0) + port)) (units256 c.len), noteUse c.requester hubUnit 1,
      match chunkOp s c with
        | some o => landChunk c.requester o c
        | none => Act.skip,
      takeChunks] s

/-- HDMA_CHUNK_COMPLETE (R390). -/
def execHdmaChunkComplete (port : Nat) (s : State) : Host.Outcome State Fault Refusal := .next ((chunkDone port).run s)

/-- A chunk's completion has not come within 50 ms (R389): it is issued again on the other port; after its second
timeout it waits like any chunk. -/
def chunkTimeout (port : Nat) : Act := fun s =>
  match activeChunk s port with
  | none => []
  | some c => Act.all [
      modPcie (fun p => { p with chunks := p.chunks.map (fun x =>
        if x = c then { x with active := false, port := 1 - port } else x) }),
      takeChunks] s

/-- HDMA_CHUNK_TIMEOUT (R389). -/
def execHdmaChunkTimeout (port : Nat) (s : State) : Host.Outcome State Fault Refusal := .next ((chunkTimeout port).run s)

/-- A port leaves L0 (R389, R401): its chunks pass to the other port. -/
def portDown (port : Nat) : Act := fun s =>
  if !portUp s port then [] else Act.all [
    modPcie (fun p => { p with
      up0 := if port = 0 then false else p.up0, up1 := if port = 0 then p.up1 else false,
      chunks := p.chunks.map (fun c => if c.active && c.port == port then { c with active := false, port := 1 - port }
        else c) }),
    Act.guard s.hub.ready (alert 2),
    takeChunks] s

/-- PCIE_PORT_DOWN (R389, R401). -/
def execPciePortDown (port : Nat) (s : State) : Host.Outcome State Fault Refusal := .next ((portDown port).run s)

/-- A port reaches L0, with power good and PERST_N high (R364, R382, R389). -/
def portUpEvent (port : Nat) : Act := fun s =>
  if 2 ≤ port || portUp s port || s.hub.stopped || s.hub.perst then [] else Act.all [
    modPcie (fun p => { p with up0 := if port = 0 then true else p.up0, up1 := if port = 0 then p.up1 else true }),
    takeChunks] s

/-- PCIE_PORT_UP (R382, R389). -/
def execPciePortUp (port : Nat) (s : State) : Host.Outcome State Fault Refusal := .next ((portUpEvent port).run s)

end Sys2Proof.Machine
end

