-- ==== Sys2Proof/Machine/Uu.lean ====
section
/-!
DEFINITION. The update unit (R251 to R267).
-/
namespace Sys2Proof.Machine

/-! ### Memory as the UU reaches it (R252) -/

/-- The UU reaches only the DRAM and SRAM of its own device: a REMOTE or HOST home breaks the ward (R252). -/
def uuReach (p : Part) (own a : Nat) : Bool := match p.reach own a with
  | .loc x => decide (x < hostBase)
  | _ => false

/-- `k` bytes as the UU reads them. -/
def uuRead (s : State) (n own : Nat) : Nat → Nat → List Byte
  | _, 0 => []
  | a, k + 1 => (if uuReach (s.part n) own a then readL1 s n own a else 0) :: uuRead s n own (a + 1) k

/-- A little-endian number as the UU reads it. -/
def uuNat (s : State) (n own a k : Nat) : Nat := leNat (uuRead s n own a k)

/-- First address of a range that the UU may not reach, page by page. -/
def uuOutFuel (p : Part) (own : Nat) : Nat → Nat → Nat → Option Nat
  | 0, _, _ => none
  | f + 1, a, n =>
    if n = 0 then none
    else if uuReach p own a then
      let k := min n (0x100000 - a % 0x100000)
      uuOutFuel p own f (a + k) (n - k)
    else some a

def uuWard (p : Part) (own : Nat) (rs : List (Nat × Nat)) : Option Nat :=
  rs.findSome? (fun r => uuOutFuel p own (r.2 / 0x100000 + 2) r.1 r.2)

/-- A write of the UU: dropped where it may not reach. -/
def uuWrite (p : Part) (own a : Nat) (bs : List Byte) : List Wr :=
  if uuReach p own a then [.mem own a bs] else []

/-! ### Blocks (R258, R265) -/

def rHi (b : List Byte) : Nat := leAt b 0x00 8
def rLo (b : List Byte) : Nat := leAt b 0x08 8
def rG (b : List Byte) : Nat := leAt b 0x10 8
def rM (b : List Byte) : Nat := leAt b 0x18 8
def rV (b : List Byte) : Nat := leAt b 0x20 8
def rUbw (b : List Byte) : Nat := leAt b 0x28 2
def rRule (b : List Byte) : Nat := leAt b 0x2A 1
def rNorm (b : List Byte) : Nat := leAt b 0x2B 1
def rMode (b : List Byte) : Nat := leAt b 0x2C 1
/-- The TA value at an offset of a block. -/
def rTA (b : List Byte) (off : Nat) : FV := fTA.decode (leAt b off 8)

/-- What UCFG refuses in a rule block (R258): values beyond a field's, addresses that are not aligned, an M with APPLY, a V with
any rule but ADAMW, and reserved bytes that are not 0. -/
def ruleBad (b : List Byte) : Bool :=
  rUbw b == 0 || decide (625 < rUbw b) || decide (3 < rRule b) || decide (2 < rNorm b) || decide (1 < rMode b) ||
  (rRule b == 3 && rM b != 0) || (rRule b != 0 && rV b != 0) ||
  [0x00, 0x08, 0x10, 0x18, 0x20, 0x80, 0x88].any (fun o => leAt b o 8 % 256 != 0) || !zeroAt b 0x2D 3 ||
  !zeroAt b 0x98 8

def cCount (b : List Byte) : Nat := leAt b 0x20 4
def cFin (b : List Byte) : Nat := leAt b 0x24 1
def cFout (b : List Byte) : Nat := leAt b 0x25 1
def cUbw (b : List Byte) : Nat := leAt b 0x26 2

/-- What UCFG refuses in a combine block (R265): the DETAIL. -/
def combBad (b : List Byte) : Option Nat :=
  if cCount b = 0 ∨ 1048576 < cCount b ∨ cUbw b = 0 ∨ 625 < cUbw b then some 3
  else if [3, 4, 5].contains (cFin b) && [3, 4, 5].contains (cFout b) then none else some 6

/-! ### UCFG (R256, R258, R265) -/

def ucfgAddr (w : InsnWord) : Nat := fld w 64 40 * 16
def uSlot (w : InsnWord) : Nat := fld w 61 3

/-- UCFG of a block of `len` bytes. A block that breaks the ward leaves the slot as it is (R93). -/
def ucfgBody (len : Nat) (bad : List Byte → Option Nat) (put : Nat → List Byte → Wr) (c : Ctx) : Verdict :=
  let rs := [(ucfgAddr c.w, len)]
  let out := uuWard c.p c.sid.own rs
  let b := uuRead c.s c.n c.sid.own (ucfgAddr c.w) len
  let go (pend : List Wr) : Verdict := .go {
    dur := 160 + ceilDiv len 64 + 4, unit := unitUu, ordered := false, rd := [memRng c.sid.own (ucfgAddr c.w) len],
    pend := pend, ward := out }
  if unitBusy c unitUu then .wait 6
  else if out.isSome then go []
  else match bad b with
    | some x => .fault .illegal x 0
    | none => go [put (uSlot c.w) b]

/-- UCFG of a rule block (R258). -/
def execUcfgRule (sid : StreamId) (w : InsnWord) (s : State) : Host.Outcome State Fault Refusal :=
  .next ((issue sid w (opc w == 0x50 && sub w == 0)
    (ucfgBody 160 (fun b => if ruleBad b then some 3 else none) .rule)).run s)

/-- UCFG of a combine block (R265). -/
def execUcfgCombine (sid : StreamId) (w : InsnWord) (s : State) : Host.Outcome State Fault Refusal :=
  .next ((issue sid w (opc w == 0x50 && sub w == 1) (ucfgBody 64 combBad .comb)).run s)

/-! ### The norm check (R261, R263) -/

/-- A decision with its scale s, in the numbers of `UU_STATUS.LASTDEC`. -/
structure Decision where
  dec : Nat
  scale : FV

def one : FV := .fin false 1 0
def update : Decision := { dec := 0, scale := one }

/-- The decision of R261 on q, for a NORMACT that is not 0. -/
def decideNorm (b : List Byte) (q : FV) : Decision :=
  if q.nonFinite then { dec := 2, scale := one }
  else if (rTA b 0x78).lt q then
    (if rNorm b = 1 then { dec := 2, scale := one }
     else { dec := 1, scale := fTA.decode (fTA.rne ((rTA b 0x90).div (fTA.decode (fTA.rne q.sqrt)))) })
  else update

/-- The q that a UUPD or UCHK reads: none when NORMACT is 0. -/
def readQ (s : State) (n own : Nat) (b : List Byte) : Option Nat :=
  if rNorm b = 0 then none else some (uuNat s n own (leAt b 0x80 8) 8)

/-- The decision of R261 for a slot. -/
def normDecision (s : State) (n own : Nat) (b : List Byte) : Decision :=
  match readQ s n own b with
  | none => update
  | some q => decideNorm b (fTA.decode q)

/-- The decision of a UUPD: in compatibility mode a global flag that is not zero skips (R263). -/
def updDecision (s : State) (n own : Nat) (b : List Byte) : Decision :=
  if rMode b = 1 ∧ !(fTA.decode (uuNat s n own (leAt b 0x88 8) 8)).eq (.fin false 0 0) then { dec := 3, scale := one }
  else normDecision s n own b

def normRanges (b : List Byte) (flag : Bool) : List (Nat × Nat) :=
  (if rNorm b = 0 then [] else [(leAt b 0x80 8, 8)]) ++ (if flag && rMode b = 1 then [(leAt b 0x88 8, 8)] else [])

/-! ### UUPD (R259, R260) -/

/-- TA operations, each rounded once (R259). -/
def taMul (a b : FV) : FV := fTA.decode (fTA.rne (a.mul b))
def taAdd (a b : FV) : FV := fTA.decode (fTA.rne (a.add b))
def taFma (a b c : FV) : FV := fTA.decode (fTA.rne ((a.mul b).add c))
def taDiv (a b : FV) : FV := fTA.decode (fTA.rne (a.div b))
def taSqrt (a : FV) : FV := fTA.decode (fTA.rne a.sqrt)

/-- The direction and the new moments of an element (R259): u, m1, v1. -/
def direction (b : List Byte) (sc g m v : FV) : FV × FV × FV :=
  let gs := taMul g sc
  let b1 := rTA b 0x40
  let omb1 := rTA b 0x48
  let b2 := rTA b 0x50
  let omb2 := rTA b 0x58
  match rRule b with
  | 0 =>
    let m1 := taFma b1 m (taMul omb1 gs)
    let v1 := taFma b2 v (taMul omb2 (taMul gs gs))
    (taDiv (taMul m1 (rTA b 0x68)) (taAdd (taSqrt (taMul v1 (rTA b 0x70))) (rTA b 0x60)), m1, v1)
  | 1 =>
    let m1 := taFma b1 m gs
    (m1, m1, v)
  | 2 =>
    let t := taFma b1 m (taMul omb1 gs)
    let u : FV := if t.isNan then .nan else if FV.lt (.fin false 0 0) t then one
      else if t.lt (.fin false 0 0) then .fin true 1 0 else .fin false 0 0
    (u, taFma b2 m (taMul omb2 gs), v)
  | _ => (gs, m, v)

/-- The new master of an element (R259): its T32 bits. -/
def newMaster (b : List Byte) (x u : FV) : Nat :=
  fT32.rne (taFma (rTA b 0x30).neg (taFma (rTA b 0x38) x u) x)

/-- Widths of the arrays that a rule reads and writes besides HI and LO: whether it has M and V. -/
def hasM (b : List Byte) : Bool := decide (rRule b ≤ 2)
def hasV (b : List Byte) : Bool := rRule b == 0

/-- One element of an update: its writes, and whether it was left unchanged (R260). -/
def updElem (s : State) (n own : Nat) (b : List Byte) (sc : FV) (e : Nat) : List Wr × Bool :=
  let p := s.part n
  let t32 (a : Nat) : FV := fT32.decode (uuNat s n own (a + 4 * e) 4)
  let g := t32 (rG b)
  if g.nonFinite then ([], true) else
  let x := fT32.decode (uuNat s n own (rHi b + 2 * e) 2 * 65536 + uuNat s n own (rLo b + 2 * e) 2)
  let r := direction b sc g (if hasM b then t32 (rM b) else .fin false 0 0) (if hasV b then t32 (rV b) else .fin false 0 0)
  let x1 := newMaster b x r.1
  (uuWrite p own (rHi b + 2 * e) (leBytes 2 (x1 / 65536)) ++ uuWrite p own (rLo b + 2 * e) (leBytes 2 x1) ++
    (if hasM b then uuWrite p own (rM b + 4 * e) (leBytes 4 (fT32.rne r.2.1)) else []) ++
    (if hasV b then uuWrite p own (rV b + 4 * e) (leBytes 4 (fT32.rne r.2.2)) else []), false)

def uStart (w : InsnWord) : Nat := fld w 29 32
def uCount (w : InsnWord) : Nat := fld w 0 29 + 1

/-- Bytes per element (R266). -/
def ruleBytes (b : List Byte) : Nat := match rRule b with
  | 0 => 28
  | 1 | 2 => 20
  | _ => 12

/-- The ranges of an update's arrays. -/
def updRanges (b : List Byte) (start k : Nat) : List (Nat × Nat) :=
  [(rHi b + 2 * start, 2 * k), (rLo b + 2 * start, 2 * k), (rG b + 4 * start, 4 * k)] ++
  (if hasM b then [(rM b + 4 * start, 4 * k)] else []) ++ (if hasV b then [(rV b + 4 * start, 4 * k)] else [])

def updWritten (b : List Byte) (start k : Nat) : List (Nat × Nat) :=
  (updRanges b start k).filter (fun r => r.1 != rG b + 4 * start)

/-- Physical quarter of a UU stream. -/
def uuQuarter (c : Ctx) : Nat := (c.p.quarter c.sid.own c.sid.unit).getD 0

/-- Cycles in which a UU instruction reads q and the flag before it decides (R266). -/
def decideCycles : Nat := 184

/-- A decision, made once what it rests on has been read (R261, R263, R267); with nothing to read, at issue. -/
def decided (c : Ctx) (b : List Byte) (upd : Bool) (dec : Nat) : Act :=
  later c.n (if rNorm b = 0 ∧ !(upd && rMode b == 1) then 0 else decideCycles) [.uuDec (uuQuarter c) {
    upd := upd, dec := BitVec.ofNat 2 dec, sq := (readQ c.s c.n c.sid.own b).map (BitVec.ofNat 64) }]

/-- UUPD (R259 to R261). -/
def uupdBody (c : Ctx) : Verdict :=
  let own := c.sid.own
  let b := Tab.get [] c.st.rules (uSlot c.w)
  if unitBusy c unitUu then .wait 6 else
  if b.isEmpty then .fault .illegal 3 0 else
  let d := updDecision c.s c.n own b
  let skip := 2 ≤ d.dec
  let es := if skip then [] else (List.range (uCount c.w)).map (fun i =>
    updElem c.s c.n own b d.scale (uStart c.w + i))
  let nonfin := (es.filter (·.2)).length
  let rs := normRanges b true ++ (if skip then [] else updRanges b (uStart c.w) (uCount c.w))
  .go {
    dur := 176 + (if rNorm b = 0 ∧ rMode b = 0 then 0 else decideCycles) + ceilDiv (uCount c.w * ruleBytes b) (rUbw b),
    unit := unitUu, ordered := false, rd := rs.map (fun r => memRng own r.1 r.2),
    wr := (if skip then [] else updWritten b (uStart c.w) (uCount c.w)).map (fun r => memRng own r.1 r.2),
    pend := es.flatMap (·.1) ++ [.uuUpd (uuQuarter c) { written := es.length - nonfin, nonfin := nonfin }],
    act := fun _ => decided c b true d.dec,
    ward := uuWard c.p own rs }

/-- UUPD (R259). -/
def execUupd (sid : StreamId) (w : InsnWord) (s : State) : Host.Outcome State Fault Refusal :=
  .next ((issue sid w (opc w == 0x51) uupdBody).run s)

/-- UCHK (R263). -/
def uchkBody (c : Ctx) : Verdict :=
  let own := c.sid.own
  let b := Tab.get [] c.st.rules (uSlot c.w)
  let flag := fld c.w 64 40 * 16
  if unitBusy c unitUu then .wait 6 else
  if b.isEmpty then .fault .illegal 3 0 else
  let d := normDecision c.s c.n own b
  let wrote := d.dec = 2
  let rs := normRanges b false ++ (if wrote then [(flag, 8)] else [])
  .go {
    dur := 344, unit := unitUu, ordered := false, rd := (normRanges b false).map (fun r => memRng own r.1 r.2),
    wr := if wrote then [memRng own flag 8] else [],
    pend := if wrote then uuWrite c.p own flag (leBytes 8 0x3FF0000000000000) else [],
    act := fun _ => decided c b false d.dec,
    ward := uuWard c.p own rs }

/-- UCHK (R263). -/
def execUchk (sid : StreamId) (w : InsnWord) (s : State) : Host.Outcome State Fault Refusal :=
  .next ((issue sid w (opc w == 0x52) uchkBody).run s)

/-! ### UCOMB (R265) -/

/-- One element of a combination: its bits in FOUT. R265 asks no alignment of X, Y, Z and DST and says nothing of an address that
is no multiple of the element's width; the element is the bytes at that address (DESIGN CHOICE, log entry 107). -/
def combElem (s : State) (n own : Nat) (b : List Byte) (nt e : Nat) : Nat :=
  let w := fmtBytes (cFin b)
  let src (base : Nat) : FV := fTA.decode (toTA (cFin b) (uuNat s n own (leAt b base 8 + w * e) w))
  let r1 := taMul (rTA b 0x28) (src 0x00)
  let r2 := if 2 ≤ nt then taFma (rTA b 0x30) (src 0x08) r1 else r1
  let r3 := if nt = 3 then taFma (rTA b 0x38) (src 0x10) r2 else r2
  fromTA (cFout b) (fTA.rne r3)

/-- The elements in ascending order, each read before it is written: `t` is the memory in which the earlier ones stand. -/
def combFuel (n own : Nat) (b : List Byte) (nt : Nat) : Nat → Nat → State → List (List Wr)
  | 0, _, _ => []
  | f + 1, e, t =>
    let wo := fmtBytes (cFout b)
    let a := leAt b 0x18 8 + wo * e
    let bs := leBytes wo (combElem t n own b nt e)
    let ws := uuWrite (t.part n) own a bs
    ws :: combFuel n own b nt f (e + 1) (if ws.isEmpty then t else (writeL n own a bs).run t)

/-- UCOMB (R265). -/
def ucombBody (c : Ctx) : Verdict :=
  let own := c.sid.own
  let b := Tab.get [] c.st.combs (uSlot c.w)
  let nt := fld c.w 59 2
  if unitBusy c unitUu then .wait 6 else
  if b.isEmpty then .fault .illegal 3 0 else
  let wi := fmtBytes (cFin b)
  let wo := fmtBytes (cFout b)
  let k := cCount b
  let srcs := ([0x00, 0x08, 0x10].take nt).map (fun o => (leAt b o 8, wi * k))
  let dst := (leAt b 0x18 8, wo * k)
  .go {
    dur := 160 + ceilDiv (k * (nt * wi + wo)) (cUbw b), unit := unitUu, ordered := false,
    rd := srcs.map (fun r => memRng own r.1 r.2), wr := [memRng own dst.1 dst.2],
    pend := (combFuel c.n own b nt k 0 c.s).flatten, ward := uuWard c.p own (srcs ++ [dst]) }

/-- UCOMB (R265). -/
def execUcomb (sid : StreamId) (w : InsnWord) (s : State) : Host.Outcome State Fault Refusal :=
  .next ((issue sid w (opc w == 0x53) ucombBody).run s)

/-! ### UBOR (R264) -/

/-- The stream of logical cell `j` of a UU stream's quarter. -/
def cellStreamOf (sid : StreamId) (j : Nat) : StreamId :=
  { sid with kind := if j = 0 then .cell0 else if j = 1 then .cell1 else if j = 2 then .cell2 else .cell3 }

/-- UBOR SUB 0 (R264): waits until what the CELL streams of newly borrowed cells have issued is visible. -/
def uborBody (c : Ctx) : Verdict :=
  let mask := BitVec.ofNat 4 (fld c.w 4 4)
  let new := (List.range 4).filter (fun j => bit mask j && !bit c.st.bmask j)
  if c.p.run.ops.any (fun o => new.any (fun j => o.sid == cellStreamOf c.sid j)) then .wait 6
  else .go { dur := 4, unit := unitUu, ordered := false,
             pend := [.borrow (c.st.bmask ||| mask) (BitVec.ofNat 2 (fld c.w 0 2))] }

/-- UBOR (R264): borrows cells or changes SEL. -/
def execUbor (sid : StreamId) (w : InsnWord) (s : State) : Host.Outcome State Fault Refusal :=
  .next ((issue sid w (opc w == 0x54 && sub w == 0) uborBody).run s)

/-- UBOR SUB 1 (R264): waits until every cell instruction that the UU issued is visible. -/
def uborReturnBody (c : Ctx) : Verdict :=
  if c.p.run.ops.any (fun o => o.sid == c.sid && decide (0x10 ≤ opc o.word) && decide (opc o.word < 0x30)) then .wait 6
  else .go { dur := 4, unit := unitUu, ordered := false, pend := [.unborrow] }

/-- UBOR RETURN (R264). -/
def execUborReturn (sid : StreamId) (w : InsnWord) (s : State) : Host.Outcome State Fault Refusal :=
  .next ((issue sid w (opc w == 0x54 && sub w == 1) uborReturnBody).run s)

end Sys2Proof.Machine
end

