-- ==== Sys2Proof/Machine/Philox.lean ====
section
/-!
DEFINITION. The generator of R143 to R145: Philox4x32-10 and the data keys.
-/
namespace Sys2Proof.Machine

/-- Four 32 bit words. -/
structure Quad where
  x0 : Nat
  x1 : Nat
  x2 : Nat
  x3 : Nat
  deriving DecidableEq, Repr

/-- One round of Philox4x32 (R143). -/
def philoxRound (c : Quad) (k0 k1 : Nat) : Quad :=
  let p0 := 0xD2511F53 * c.x0
  let p1 := 0xCD9E8D57 * c.x2
  { x0 := (p1 / 2 ^ 32) ^^^ c.x1 ^^^ k0, x1 := p1 % 2 ^ 32, x2 := (p0 / 2 ^ 32) ^^^ c.x3 ^^^ k1, x3 := p0 % 2 ^ 32 }

/-- Rounds with the key increments of R143. -/
def philoxRounds : Nat → Quad → Nat → Nat → Quad
  | 0, c, _, _ => c
  | n + 1, c, k0, k1 =>
    philoxRounds n (philoxRound c k0 k1) ((k0 + 0x9E3779B9) % 2 ^ 32) ((k1 + 0xBB67AE85) % 2 ^ 32)

/-- Philox4x32-10 (R143). -/
def philox (c : Quad) (k0 k1 : Nat) : Quad := philoxRounds 10 c k0 k1

/-- The data key of a stream seed under a job seed (R144). -/
def dataKey (job seed : BitVec 64) : Nat × Nat :=
  let r := philox { x0 := fld seed 0 32, x1 := fld seed 32 32, x2 := 0, x3 := 0 } (fld job 0 32) (fld job 32 32)
  (r.x0, r.x1)

/-- The words drawn for an element (R143, R145). -/
def draw (step : BitVec 32) (tensor elem : Nat) (key : Nat × Nat) : Quad :=
  philox { x0 := elem % 2 ^ 32, x1 := elem / 2 ^ 32 % 2 ^ 32, x2 := tensor, x3 := step.toNat } key.1 key.2

end Sys2Proof.Machine
end

