-- ==== Sys2Proof/Machine/Vx.lean ====
section
/-!
DEFINITION. The vector engine (R125 to R148).
-/
namespace Sys2Proof.Machine

/-! ### Fields and lanes (R125, R128) -/

def fVD (w : InsnWord) : Nat := fld w 59 5
def fVA (w : InsnWord) : Nat := fld w 54 5
def fVB (w : InsnWord) : Nat := fld w 49 5
def fVC (w : InsnWord) : Nat := fld w 44 5
def fFT (w : InsnWord) : Nat := fld w 40 4
def fFD (w : InsnWord) : Nat := fld w 36 4
def fRM (w : InsnWord) : Nat := fld w 33 3
def fSS (w : InsnWord) : Nat := fld w 96 4
def fImm (w : InsnWord) : Nat := fld w 64 32
/-- Lanes that an instruction acts on. -/
def lanes (w : InsnWord) : Nat := fld w 23 9 + 1

/-- The 64 bits of a lane of a slice's register. -/
def vlane (s : State) (q r i : Nat) : Nat := (Tab.get 0 s.store.vreg (vregIdx q r i)).toNat

/-- Width in bits in which a format sits in a lane (R125). -/
def laneWidth (ft : Nat) : Nat := match fmtOf ft with
  | some f => f.width
  | none => 64

/-- Physical quarter of a VX stream. -/
def Ctx.slice (c : Ctx) : Nat := (c.p.quarter c.sid.own c.sid.unit).getD 0

def regRng (r : Nat) : Rng := { space := .vreg, lo := r, hi := r + 1 }
def genRng : Rng := { space := .gen, lo := 0, hi := 1 }

/-- Counts the issue cycles of a slice (R352). -/
def vxIssue (q cycles : Nat) : Act := count (ctrCol (q / 4) (0x36 + q % 4)) cycles

/-- An instruction that writes VD lane by lane from the registers `srcs`. -/
def vxGo (interval dur : Nat) (srcs : List Nat) (gen : Bool) (f : Ctx → Nat → Nat) (c : Ctx) : Verdict := .go {
  dur := dur, interval := interval, rd := srcs.map regRng ++ (if gen then [genRng] else []), wr := [regRng (fVD c.w)],
  pend := [.vreg c.slice (fVD c.w) ((List.range (lanes c.w)).map (fun i => BitVec.ofNat 64 (f c i)))],
  act := fun _ => vxIssue c.slice interval }

/-- A lane of VA, VB or VC in the width of FT. -/
def laneOf (c : Ctx) (r i : Nat) : Nat := vlane c.s c.slice r i % 2 ^ laneWidth (fFT c.w)

/-! ### VLD, VST, VBCAST (R130, R133) -/

def vxMem (w : InsnWord) : Nat × Nat := (fld w 64 40 * 16, elemsSize (laneWidth (fFT w)) (lanes w))

/-- Planned duration of a transfer of `n` bytes (R148). -/
def vxDur (c : Ctx) (rs : List (Nat × Nat)) (n : Nat) : Nat :=
  let lr := plan c.p c.sid.own c.eng rs
  duration (lr.1, min lr.2 (256 * 512)) n

/-- What a VLD writes: elements zero-extended. -/
def vldWrites (s : State) (n own q : Nat) (w : InsnWord) : List Wr :=
  [.vreg q (fVD w) (((unpack (laneWidth (fFT w)) (readL s n own (vxMem w).1 (vxMem w).2)).take (lanes w)).map
    (BitVec.ofNat 64))]

def vldBody (c : Ctx) : Verdict :=
  let rs := [vxMem c.w]
  .go { dur := vxDur c rs (vxMem c.w).2, interval := 1, rd := [memRng c.sid.own (vxMem c.w).1 (vxMem c.w).2],
        wr := [regRng (fVD c.w)], pend := vldWrites c.s c.n c.sid.own c.slice c.w, fetch := fetchOf c rs,
        ward := wardOf c rs, act := fun _ => vxIssue c.slice 1 }

/-- VLD (R130). -/
def execVld (sid : StreamId) (w : InsnWord) (s : State) : Host.Outcome State Fault Refusal :=
  .next ((issueR sid w (opc w == 0x30) vldBody).run s)

/-- What a VST writes: the low bits of each lane. -/
def vstWrites (s : State) (own q : Nat) (w : InsnWord) : List Wr :=
  let k := laneWidth (fFT w)
  [.mem own (vxMem w).1 (packElems k ((List.range (lanes w)).map (fun i => vlane s q (fVD w) i % 2 ^ k)))]

def vstBody (c : Ctx) : Verdict :=
  let rs := [vxMem c.w]
  .go { dur := vxDur c rs (vxMem c.w).2, interval := 1, rd := [regRng (fVD c.w)],
        wr := [memRng c.sid.own (vxMem c.w).1 (vxMem c.w).2], pend := vstWrites c.s c.sid.own c.slice c.w,
        ward := wardOf c rs, act := fun _ => vxIssue c.slice 1 }

/-- VST (R130). -/
def execVst (sid : StreamId) (w : InsnWord) (s : State) : Host.Outcome State Fault Refusal :=
  .next ((issueR sid w (opc w == 0x31) vstBody).run s)

/-- The scalar of a VBCAST (R133). -/
def bcastValue (ft imm : Nat) : Nat :=
  if ft = 5 then fTA.rne (fT32.decode imm)
  else if ft = 13 then ofInt 64 (intOf 32 true imm)
  else imm

/-- VBCAST (R133). -/
def execVbcast (sid : StreamId) (w : InsnWord) (s : State) : Host.Outcome State Fault Refusal :=
  .next ((issueR sid w (opc w == 0x32) (vxGo 1 8 [] false (fun c _ => bcastValue (fFT c.w) (fImm c.w)))).run s)

/-! ### Arithmetic (R131 to R133) -/

/-- The floating-point format of an FT in which VX computes. -/
def vxFmt (ft : Nat) : FFmt := if ft = 5 then fTA else fT32
/-- Width and signedness of an integer FT (R132). -/
def vxIntW (ft : Nat) : Nat := if ft = 13 then 64 else 32
def vxSigned (ft : Nat) : Bool := ft != 12

/-- VAR on floats (R131). -/
def varFloat (sb : Nat) (f : FFmt) (a b c : FV) : FV :=
  match sb with
  | 0 => a.add b
  | 1 => a.sub b
  | 2 => a.mul b
  | 3 => (a.mul b).add c
  | 4 => if a.isNan || b.isNan then .nan else if b.below a then b else a
  | 5 => if a.isNan || b.isNan then .nan else if a.below b then b else a
  | 6 => a.abs
  | 7 => a.neg
  | 8 => a.div b
  | _ => let _ := f; a.sqrt

/-- VAR on integers (R132). -/
def varInt (sb w : Nat) (sg : Bool) (x y : Nat) : Nat :=
  let a := intOf w sg x
  let b := intOf w sg y
  ofInt w (match sb with
    | 0 => a + b
    | 1 => a - b
    | 2 => a * b
    | 4 => min a b
    | 5 => max a b
    | 6 => (a.natAbs : Int)
    | _ => -a)

/-- One lane of a VAR. -/
def varLane (ft sb x y z : Nat) : Nat :=
  if vxFloat ft then
    let f := vxFmt ft
    f.rne (varFloat sb f (f.decode x) (f.decode y) (f.decode z))
  else varInt sb (vxIntW ft) (vxSigned ft) x y

/-- Issue interval and planned duration of a VAR (R148). -/
def varTime (ft sb : Nat) : Nat × Nat :=
  if sb = 8 ∨ sb = 9 then (if ft = 5 then (16, 48) else (4, 24))
  else if ft = 5 then (4, 14) else (1, 8)

/-- The sources of a register form: one, two or three registers. -/
def srcs (k : Nat) (w : InsnWord) : List Nat := [fVA w, fVB w, fVC w].take k

def varBody (c : Ctx) : Verdict :=
  let sb := sub c.w
  let k := if sb = 3 then 3 else if sb = 6 ∨ sb = 7 ∨ sb = 9 then 1 else 2
  vxGo (varTime (fFT c.w) sb).1 (varTime (fFT c.w) sb).2 (srcs k c.w) false (fun c i =>
    varLane (fFT c.w) (sub c.w) (laneOf c (fVA c.w) i) (laneOf c (fVB c.w) i) (laneOf c (fVC c.w) i)) c

/-- VAR (R131, R132). -/
def execVar (sid : StreamId) (w : InsnWord) (s : State) : Host.Outcome State Fault Refusal :=
  .next ((issueR sid w (opc w == 0x34) varBody).run s)

/-- One lane of a VINT (R132). -/
def vintLane (w sb x y : Nat) : Nat :=
  let sh := y % w
  match sb with
  | 0 => x &&& y
  | 1 => x ||| y
  | 2 => x ^^^ y
  | 3 => 2 ^ w - 1 - x
  | 4 => x * 2 ^ sh % 2 ^ w
  | 5 => x / 2 ^ sh
  | _ => ofInt w (intOf w true x / 2 ^ sh)

def vintBody (c : Ctx) : Verdict :=
  vxGo 1 8 (srcs (if sub c.w = 3 then 1 else 2) c.w) false (fun c i =>
    vintLane (vxIntW (fFT c.w)) (sub c.w) (laneOf c (fVA c.w) i) (laneOf c (fVB c.w) i)) c

/-- VINT (R132). -/
def execVint (sid : StreamId) (w : InsnWord) (s : State) : Host.Outcome State Fault Refusal :=
  .next ((issueR sid w (opc w == 0x35) vintBody).run s)

/-- The relation of a VCMP (R133). -/
def vcmpHolds (ft sb x y : Nat) : Bool :=
  if vxFloat ft then
    let f := vxFmt ft
    let a := f.decode x
    let b := f.decode y
    match sb with
    | 0 => a.eq b
    | 1 => !a.eq b
    | 2 => a.lt b
    | _ => a.lt b || a.eq b
  else
    let a := intOf (vxIntW ft) (vxSigned ft) x
    let b := intOf (vxIntW ft) (vxSigned ft) y
    match sb with
    | 0 => a == b
    | 1 => a != b
    | 2 => decide (a < b)
    | _ => decide (a ≤ b)

/-- VCMP (R133): a mask in the width of FT. -/
def execVcmp (sid : StreamId) (w : InsnWord) (s : State) : Host.Outcome State Fault Refusal :=
  .next ((issueR sid w (opc w == 0x36) (fun c => vxGo 1 8 (srcs 2 c.w) false (fun c i =>
    if vcmpHolds (fFT c.w) (sub c.w) (laneOf c (fVA c.w) i) (laneOf c (fVB c.w) i)
    then 2 ^ laneWidth (fFT c.w) - 1 else 0) c)).run s)

/-- VSEL (R133): moves all 64 bits. -/
def execVsel (sid : StreamId) (w : InsnWord) (s : State) : Host.Outcome State Fault Refusal :=
  .next ((issueR sid w (opc w == 0x37) (fun c => vxGo 1 8 (srcs 3 c.w) false (fun c i =>
    if vlane c.s c.slice (fVC c.w) i ≠ 0 then vlane c.s c.slice (fVA c.w) i
    else vlane c.s c.slice (fVB c.w) i) c)).run s)

/-! ### VTR (R134, R135) -/

/-- EXP2 and LOG2 of T32 bits. -/
def vtrLane (sb x : Nat) : Nat :=
  let v := fT32.decode x
  fT32.rne (if sb = 0 then v.exp2 else v.log2)

/-- VTR EXP2 and LOG2 (R134). -/
def execVtr (sid : StreamId) (w : InsnWord) (s : State) : Host.Outcome State Fault Refusal :=
  .next ((issueR sid w (opc w == 0x38 && sub w != 2) (fun c => vxGo 1 12 (srcs 1 c.w) false (fun c i =>
    vtrLane (sub c.w) (laneOf c (fVA c.w) i)) c)).run s)

/-- EXPD of TA bits (R135). -/
def expdLane (x y : Nat) : Nat :=
  let a := fTA.decode x
  if a = .inf true then 0
  else
    let d := fTA.rne (a.sub (fTA.decode y))
    let t := fT32.rne (fTA.decode d)
    vtrLane 0 t

/-- VTR EXPD (R135). -/
def execVtrExpd (sid : StreamId) (w : InsnWord) (s : State) : Host.Outcome State Fault Refusal :=
  .next ((issueR sid w (opc w == 0x38 && sub w == 2) (fun c => vxGo 4 26 (srcs 2 c.w) false (fun c i =>
    expdLane (laneOf c (fVA c.w) i) (laneOf c (fVB c.w) i)) c)).run s)

/-! ### VRED (R136, R137) -/

/-- One level of the pairwise tree: an absent operand passes the other unchanged (R136), a NaN with its bits: no operation is
performed on it that R48 would make canonical (DEDUCED, log entry 109). -/
def pairUp (f : Nat → Nat → Nat) : List (Option Nat) → List (Option Nat)
  | [] => []
  | [a] => [a]
  | a :: b :: r => (match a, b with
      | some x, some y => some (f x y)
      | some x, none => some x
      | none, y => y) :: pairUp f r

/-- The tree over 2^n lanes (R136). -/
def treeRed (f : Nat → Nat → Nat) : Nat → List (Option Nat) → Option Nat
  | 0, xs => xs.head?.join
  | n + 1, xs => treeRed f n (pairUp f xs)

/-- The number of a lane as ARGMAX orders it; none is a NaN. -/
def lessIn (ft x y : Nat) : Bool := vcmpHolds ft 2 x y
def nanIn (ft x : Nat) : Bool := vxFloat ft && ((vxFmt ft).decode x).isNan

/-- ARGMAX over the lanes present (R137). -/
def argmax (ft : Nat) (xs : List Nat) : Nat :=
  match xs.findIdx? (nanIn ft) with
  | some i => i
  | none => (xs.zipIdx.foldl (fun (acc : Option (Nat × Nat)) e => match acc with
      | none => some e
      | some m => if lessIn ft m.1 e.1 then some e else some m) none).elim 0 (·.2)

/-- The result of the segment that holds lane `i`. -/
def vredLane (c : Ctx) (i : Nat) : Nat :=
  let k := fld c.w 19 4
  let base := i / 2 ^ k * 2 ^ k
  let xs := (List.range (2 ^ k)).map (fun j =>
    if base + j < lanes c.w then some (laneOf c (fVA c.w) (base + j)) else none)
  let ft := fFT c.w
  match sub c.w with
  | 0 => (treeRed (fun x y => varLane ft 0 x y 0) k xs).getD 0
  | 1 => (treeRed (fun x y => varLane ft 5 x y 0) k xs).getD 0
  | 2 => (treeRed (fun x y => varLane ft 4 x y 0) k xs).getD 0
  | _ => argmax ft (xs.filterMap id)

def vredBody (c : Ctx) : Verdict :=
  let k := fld c.w 19 4
  if fFT c.w = 5 then vxGo 4 (14 + 8 * k) (srcs 1 c.w) false vredLane c
  else vxGo 1 (8 + 4 * k) (srcs 1 c.w) false vredLane c

/-- VRED (R136, R137). -/
def execVred (sid : StreamId) (w : InsnWord) (s : State) : Host.Outcome State Fault Refusal :=
  .next ((issueR sid w (opc w == 0x3A) vredBody).run s)

/-! ### Draws (R140, R143 to R146) -/

/-- The words drawn for lane `i`: step counter, tensor ID, element index in VB, seed SS (R145). -/
def laneDraw (c : Ctx) (i : Nat) : Quad :=
  let g := c.s.gen c.slice
  draw g.step (fImm c.w) (vlane c.s c.slice (fVB c.w) i) (dataKey g.job ((g.seeds[fSS c.w]?).getD 0))

/-- The rounding mode of a CVT on lane `i` (R139, R140). -/
def cvtMode (c : Ctx) (i : Nat) : RMode :=
  match fRM c.w with
  | 0 => .rne
  | 1 => .rtz
  | 2 => .rdn
  | 3 => .rup
  | _ => .rsto (laneDraw c i).x0

/-- One lane of a CVT (R138). -/
def cvtLane (c : Ctx) (i : Nat) : Nat :=
  match fmtOf (fFT c.w), fmtOf (fFD c.w) with
  | some a, some b => b.encode (cvtMode c i) (bit c.w 104) (a.decode (laneOf c (fVA c.w) i))
  | _, _ => 0

def cvtBody (c : Ctx) : Verdict :=
  if fRM c.w = 4 then vxGo 1 24 (srcs 2 c.w) true cvtLane c else vxGo 1 8 (srcs 1 c.w) false cvtLane c

/-- CVT (R138 to R142). -/
def execCvt (sid : StreamId) (w : InsnWord) (s : State) : Host.Outcome State Fault Refusal :=
  .next ((issueR sid w (opc w == 0x3C) cvtBody).run s)

/-- One lane of a VRND (R145). -/
def vrndLane (c : Ctx) (i : Nat) : Nat :=
  let x := laneDraw c i
  match sub c.w with
  | 0 => match fld c.w 104 2 with
    | 0 => x.x0
    | 1 => x.x1
    | 2 => x.x2
    | _ => x.x3
  | 1 => fT32.rne (.fin false (x.x0 / 256) (-24))
  | _ => if x.x0 < vlane c.s c.slice (fVA c.w) i % 2 ^ 32 then 0xFFFFFFFF else 0

/-- VRND (R145). -/
def execVrnd (sid : StreamId) (w : InsnWord) (s : State) : Host.Outcome State Fault Refusal :=
  .next ((issueR sid w (opc w == 0x3D) (fun c =>
    vxGo 1 24 (if sub c.w = 2 then srcs 2 c.w else [fVB c.w]) true vrndLane c)).run s)

def seedBlock (w : InsnWord) : Nat × Nat := (fld w 64 40 * 16, 144)

/-- The generator that a seed block holds (R146). -/
def seedWrites (s : State) (n own q : Nat) (w : InsnWord) : List Wr :=
  let b := readL s n own (seedBlock w).1 144
  [.gen q { job := BitVec.ofNat 64 (leAt b 0 8), step := BitVec.ofNat 32 (leAt b 8 4),
            seeds := (List.range 16).map (fun i => BitVec.ofNat 64 (leAt b (16 + 8 * i) 8)) }]

/-- VSEED (R146); a block that breaks the ward leaves the state unchanged (R93). -/
def vseedBody (c : Ctx) : Verdict :=
  let rs := [seedBlock c.w]
  let out := wardOf c rs
  .go { dur := vxDur c rs 144 + 24, interval := 1, rd := [memRng c.sid.own (seedBlock c.w).1 144], wr := [genRng],
        pend := if out.isSome then [] else seedWrites c.s c.n c.sid.own c.slice c.w,
        fetch := if out.isSome then [] else fetchOf c rs, ward := out, act := fun _ => vxIssue c.slice 1 }

/-- VSEED (R146). -/
def execVseed (sid : StreamId) (w : InsnWord) (s : State) : Host.Outcome State Fault Refusal :=
  .next ((issueR sid w (opc w == 0x3E) vseedBody).run s)

/-- VSTEP (R146): adds 1 to the step counter. -/
def vstepBody (c : Ctx) : Verdict :=
  let g := c.s.gen c.slice
  .go { dur := 1, interval := 1, rd := [genRng], wr := [genRng], pend := [.gen c.slice { g with step := g.step + 1 }],
        act := fun _ => vxIssue c.slice 1 }

/-- VSTEP (R146). -/
def execVstep (sid : StreamId) (w : InsnWord) (s : State) : Host.Outcome State Fault Refusal :=
  .next ((issueR sid w (opc w == 0x3F) vstepBody).run s)

end Sys2Proof.Machine
end

