-- ==== Sys2Proof/Machine/Visible.lean ====
section
/-!
DEFINITION. The visibility points of operations (R25, R88), pass ends (R70), deadlines (R155) and STRIKE hasps (R166).
-/
namespace Sys2Proof.Machine

/-! ### Counting what an operation moved (R352, R354) -/

/-- MASTER bit of a stream kind (R356). -/
def masterOf : StreamKind → Nat
  | .vx => 1 | .uu => 2 | .mov => 3 | .clx => 4 | .lmov => 5 | .hdma => 10 | .ctl => 11
  | _ => 0

/-- Counts one piece at local address `x`. -/
def countPiece (n : Nat) (o : Occ) (cellStream write : Bool) (x len : Nat) : Act :=
  let k := units256 len
  let o' := { o with addr := some x }
  if x < sramBase then
    let c := x / dramSpan
    Act.all [countF c (ctrCol c (if write then 0x8F else 0x8E)) k o', count (ctrBank n (if write then 0x17 else 0x16)) k]
  else if x < hostBase then
    let c := (x - sramBase) / 0x10000000
    if (x - sramBase) % 0x10000000 < 0x2000000 then countF c (ctrCol c 0x91) k o'
    else if cellStream then Act.skip else countF c (ctrCol c 0x92) k o'
  else if x < regBase then count (ctrBank n (if write then 0x1A else 0x19)) k
  else Act.skip

/-- Die of a local address: a column, or the hub (20) in front of the host window. -/
def dieOf (x : Nat) : Nat := if x < sramBase then x / dramSpan else if x < hostBase then (x - sramBase) / 0x10000000 else 20

/-- Die on which the engine of a stream stands: its quarter's column, its link die, or the hub. -/
def Part.engineDie (p : Part) (sid : StreamId) : Nat := match sid.kind with
  | .clx | .lmov => 21 + sid.unit
  | .hdma | .ctl => 20
  | _ => (p.quarter sid.own sid.unit).getD 0 / 4

/-- Counts the memory ranges of an operation. What lies on another die than its engine crosses the mesh (R330; DESIGN CHOICE, log
entry 122). -/
def countRanges (n : Nat) (sid : StreamId) (write : Bool) (rs : List Rng) : Act := fun s =>
  let p := s.part n
  let o : Occ := { part := some n, master := masterOf sid.kind }
  Act.each (rs.flatMap (fun r => match r.space with
      | .mem own => (pageParts ((r.hi - r.lo) / pageSize + 2) r.lo (r.hi - r.lo)).map (fun x => (own, x.1, x.2))
      | _ => [])) (fun x => match p.reach x.1 x.2.1 with
    | .loc y => Act.all [countPiece n o (kindNum sid.kind < 4) write y x.2.2,
        Act.guard (dieOf y != p.engineDie sid) (noteUse n meshUnit x.2.2)]
    | _ => Act.skip) s

/-- The cell of an operation. -/
def Op.cellRef (o : Op) : CellRef := { own := o.sid.own, lq := o.sid.unit, j := unitCell o.unit }

/-- Opcodes that hold a cell's compute unit. -/
def isCompute (w : InsnWord) : Bool := decide (0x18 ≤ opc w) && decide (opc w < 0x30)

/-- Busy cycles of a compute unit. -/
def countBusy (n : Nat) (o : Op) : Act := fun s =>
  if isCompute o.word then
    match (s.part n).execCell o.sid.own o.sid.unit (unitCell o.unit) with
    | some c =>
      let k := (o.vis - o.issue).toNat / 10
      Act.all [count (ctrCol (c / 18) (c % 18)) k, count (ctrBank n 0x0E) k] s
    | none => []
  else []

/-! ### The effects of a visibility point -/

/-- Effects that are formed only when what the operation reads has arrived (R189, R281). -/
def lateWrites (s : State) (n : Nat) (o : Op) : List Wr :=
  let own := o.sid.own
  let q := ((s.part n).quarter own o.sid.unit).getD 0
  match opc o.word with
  | 0x10 => cldWrites s n o.cellRef o.word
  | 0x1C => tbiWrites s n o.cellRef o.word
  | 0x30 => vldWrites s n own q o.word
  | 0x3E => seedWrites s n own q o.word
  | 0x60 => mcpyWrites s n own o.word
  | 0x70 => cdescWrites s n o.word
  | 0x7C => hxOutWrites s n own o.word
  | 0x78 => match (s.part n).run.outbox.find? (fun x => x.op == o.id) with
    | some x => [.post (readL s n own x.near x.len)]
    | none => []
  | _ => o.pend

/-- The bytes that an LRD's replies brought (R197). -/
def lrdWrites (r : Run) (o : Op) : List Wr :=
  (r.remoteBuf.filter (fun e => e.1 == o.id)).map (fun e => .mem o.sid.own e.2.2.1 e.2.2.2)

/-- What an operation makes visible. -/
def Op.effects (s : State) (n : Nat) (o : Op) : List Wr :=
  if o.partly then o.pend
  else if opc o.word = 0x79 ∧ o.sid != hardware n then lrdWrites (s.part n).run o
  else if o.deferred then lateWrites s n o else o.pend

/-- A UU instruction has decided (R261, R263, R267, R354). -/
def uuDecided (n q : Nat) (d : UuDecided) : Act :=
  let skip := d.upd && decide (2 ≤ d.dec.toNat)
  let clip := d.upd && d.dec == 1
  Act.all [
    modUu q (fun u => { u with
      lastDec := d.dec, lastSq := d.sq.getD u.lastSq, skip := if skip then satAdd u.skip 1 else u.skip,
      clip := if clip then satAdd u.clip 1 else u.clip }),
    Act.guard skip (count (ctrBank n 0x13) 1), Act.guard clip (count (ctrBank n 0x14) 1)]

/-- A UUPD has reached its visibility point (R260, R267, R352, R354). -/
def uuDone (n q : Nat) (d : UuDone) : Act := Act.all [
  modUu q (fun u => { u with upd := satAdd u.upd 1, nonfin := satAdd u.nonfin d.nonfin }),
  count (ctrCol (q / 4) (0x3A + q % 4)) d.written, count (ctrBank n 0x12) d.written, count (ctrBank n 0x15) d.nonfin]

/-- An LBIND takes effect, unless the check of R156 fails. -/
def applyBind (n : Nat) (o : Op) (f d nbuf : Nat) : Act := fun s =>
  let pairs := bindPair (s.part n).run.pairs f d nbuf
  let get (l : Nat) : Nat := (s.latch l).toNat
  if pairsHold pairs get f && pairsHold pairs get d then modRun n (fun r => { r with pairs := pairs }) s
  else streamFault o.sid o.word o.qpos .latchBound 0 0 s

/-- One effect of an operation (R88). -/
def applyWr (n : Nat) (o : Op) (w : Wr) : Act :=
  match w with
  | .mem own a bs => storeBy (deliver n) n own (some o.sender) a bs
  | .tb k i vs => fun _ => [.tb (k * (tbRows * 256) + i) vs]
  | .vreg q r vs => fun _ => [.vreg (vregIdx q r 0) vs]
  | .latch l amt => fun s => Act.all [
      incLatch n l amt (if o.sid == hardware n then whereExt else whereOf s o.sid) o.qpos o.word, learn n l o.known] s
  | .bind f d k => applyBind n o f d k
  | .mask win mode q k => modStream o.sid (fun t => { t with -- of the issuing stream, a UU stream too (log entry 108)
      maskWindow := win, maskMode := mode, maskQ := q, maskK := k })
  | .gen q g => setGen q g
  | .lset tag cls len => modStream o.sid (fun t => { t with ltag := tag, lcls := cls, llen := len })
  | .desc own k b => fun s =>
      if o.deferred && descBad (((s.part n).obj.map (·.ranks)).getD 0) b then
        streamFault o.sid o.word o.qpos .illegal 3 0 s
      else modStream o.sid (fun t => { t with descs := Tab.set [] t.descs (descKey own k) b }) s
  | .rule k b => modStream o.sid (fun t => { t with rules := Tab.set [] t.rules k b })
  | .comb k b => modStream o.sid (fun t => { t with combs := Tab.set [] t.combs k b })
  | .borrow m k => modStream o.sid (fun t => { t with bmask := m, bsel := k })
  | .unborrow => modStream o.sid (fun t => { t with bmask := 0, bsel := 0 })
  | .uuDec q d => uuDecided n q d
  | .uuUpd q d => uuDone n q d
  | .nonfin c k => Act.all [modCell c (fun x => { x with nonfin := satAdd x.nonfin k }), count (ctrBank n 0x10) k]
  | .post bs => fillOut (deliver n) n o.id bs
  | .hcfg h kind rl k => modHasp h (fun x => { x with
      configured := true, kind := kind, rlatch := rl, nslot := k, gen := 0, mask0 := 0, mask1 := 0, fullAt := none,
      sentUp := false, known0 := [], known1 := [] })
  | .irq => irqPart n 5

/-- Each hosted rank's DONE latch of a collective grows by 1 (R231, R247). -/
def collLatch (n : Nat) (o : Op) (c : Coll) : Act := fun s =>
  Act.each c.ranks (fun r => fun s =>
    match (s.part n).latchOf r.own (dDone r.desc) with
    | some l => Act.all [incLatch n l 1 (whereOf s o.sid) o.qpos o.word,
        learn n l (o.known ++ announced (s.part n).run (annColl r.own c.tag))] s
    | none => streamFault o.sid o.word o.qpos .ward 0 0 s) s

/-- The areas of a hosted rank's part in which deliveries land, whose records end with the operation. -/
def collAreas (c : Coll) (x : CollRank) : List (Nat × Nat) :=
  let d := x.desc
  match c.opc, c.sub with
  | 0x71, _ => [(dDst d, dCount d * fmtBytes (dFout d)), (dAux d, 4 * scratchH (dCount d) + 8)]
  | 0x72, _ => [(dDst d, dCount d)]
  | 0x73, 0 => [(dDst d, dGsize d * dCount d * dRow d)]
  | 0x73, _ => [(dAux d, 8 * dGsize d + 8)]
  | 0x74, 0 => []
  | 0x74, _ => [(dAux d, dGsize d * (16 + 16 * dCap d)), (dDst d, 8 * dCount d)]
  | _, _ => [(dDst d, dCount d)]

/-- Forgets the deliveries of a finished operation; those of a COACC SEND stay until its APPLY (R245). -/
def collForget (n : Nat) (c : Coll) : Act := modRun n (fun r => { r with
  remoteBuf := r.remoteBuf.filter (fun e => !(e.1 == collKeep && c.ranks.any (fun k => e.2.1 == k.own &&
    (collAreas c k).any (fun x => x.1 ≤ e.2.2.1 && decide (e.2.2.1 < x.1 + x.2))))),
  clxIn := r.clxIn.filter (fun e => !(e.tag == c.tag && c.opc != 0x74 && ((e.tree == 2 && c.opc == 0x73 && c.sub == 1) ||
    (e.tree != 2 && c.ranks.any (fun k => e.own == k.own &&
      (collAreas c k).any (fun x => x.1 ≤ e.addr && decide (e.addr < x.1 + x.2))))))) })

/-! ### Waits (R154, R165) -/

/-- An LWAIT or a waiting HARR has what it waits for. -/
def waitMet (s : State) (o : Op) : Bool :=
  match o.wait with
  | .none => true
  | .latch l t _ => decide (t ≤ (s.latch l).toNat)
  | .hasp h g => let d := (g - (s.hasp h).gen).toNat; decide (d ≤ 1) || decide (2 ^ 31 ≤ d)

/-- Position of the slot field of a HARR (R164). -/
def harrSlot (w : InsnWord) : Nat := fld w 22 6

/-- A queue that a waiting instruction held at its head goes on (R169). -/
def leaveHead (n : Nat) (sid : StreamId) : Act := fun s =>
  match stream s sid with
  | none => []
  | some st => Act.all [
      modQueue st.queue (fun y => { y with
        head := y.head + 1, wait := if st.stopped then y.wait else if y.head + 1 == y.tail then 1 else 0,
        wpsc := if st.stopped then y.wpsc else (s.dom n).psc }),
      modStream sid (fun t => { t with reached := (s.dom n).psc, tried := false })] s

/-- What a wait does when it ends: an LWAIT orders what its latch carries (R96), a HARR arrives (R165), and the stream goes
on. -/
def waitEnd (n : Nat) (o : Op) : Act := fun s =>
  match o.wait with
  | .none => []
  | .latch l _ _ => Act.all [
      Act.guard s.hub.debugMode (modStream o.sid (fun t =>
        let new := Tab.get [] (s.part n).run.latchKnown l
        { t with known := t.known ++ new.filter (fun i => !t.known.contains i) })),
      leaveHead n o.sid] s
  | .hasp h g =>
    let x := s.hasp h
    let d := (g - x.gen).toNat
    Act.all [
      if 2 ^ 31 ≤ d then fltEvent dieHub 5 .haspDropped (some n) 0
      else if bit (if d = 0 then x.mask0 else x.mask1) (harrSlot o.word) then
        streamFault o.sid o.word o.qpos .latchBound 0 0
      else recordArrival n h (harrSlot o.word) g (match stream s o.sid with
        | some st => knownNow (s.part n).run st (s.dom n).psc
        | none => []),
      leaveHead n o.sid] s

/-! ### Completion -/

/-- All passes of a multiply have ended (R70). -/
def Op.passesDone (o : Op) : Bool := match o.passes with
  | none => true
  | some p => decide (p.repeats.length ≤ p.idx)

/-- An effect in pieces of one 2 MiB page. -/
def Wr.pieces (w : Wr) : List Wr := match w with
  | .mem own a bs => (pageParts (bs.length / pageSize + 2) a bs.length).map (fun x => .mem own x.1 (slice bs (x.1 - a) x.2))
  | _ => [w]

/-- Makes effects in order up to the first that must wait for the drain of a snapshot (R290, R292), and answers those that are left. -/
def applyRoom (n : Nat) (o : Op) : List Wr → State → List Eff × List Wr
  | [], _ => ([], [])
  | w :: ws, s =>
    if (match w with
        | .mem own a bs => cowFull s n own a bs.length
        | _ => false) then ([], w :: ws)
    else
      let e := applyWr n o w s
      let r := applyRoom n o ws (applyAll e s)
      (e ++ r.1, r.2)

/-- The effects of an operation in the pieces that a draining snapshot lets through one by one. -/
def roomFor (s : State) (n : Nat) (o : Op) : List Eff × List Wr := applyRoom n o ((o.effects s n).flatMap Wr.pieces) s

/-- A write of the operation must wait for the drain of a snapshot (R290). -/
def bufferFull (s : State) (n : Nat) (o : Op) : Bool :=
  (s.part n).snap.state == .draining && !(roomFor s n o).2.isEmpty

/-- Makes what can be made of the effects of an operation whose further writes must wait (R290). -/
def applyPartly (n : Nat) (o : Op) : Act := fun s =>
  let r := roomFor s n o
  r.1 ++ modRun n (fun x => { x with ops := x.ops.map (fun y =>
    if y.id == o.id then { y with pend := r.2, partly := true } else y) }) (applyAll r.1 s)

/-- The operation has all that its results are formed of at its visibility point; `complete` is whether the hardware has finished. -/
def Op.formed (s : State) (n : Nat) (o : Op) (complete : Bool) : Bool :=
  complete && o.want == 0 && !chunksOf s n o.id && waitMet s o &&
    (match o.coll with
      | some c => collDone s n o c
      | none => true)

/-- The operation can become visible: its results are formed and find room. -/
def Op.ready (s : State) (n : Nat) (o : Op) (complete : Bool) : Bool := o.formed s n complete && !bufferFull s n o

/-- The source of the stall that an unready operation begins (R25). -/
def Op.stallCause (s : State) (n : Nat) (o : Op) : StallCause :=
  if o.formed s n true && bufferFull s n o then .snapshot
  else if o.wait != .none then .latch
  else if o.coll.isSome then .remote
  else if chunksOf s n o.id then .prefetch
  else if o.want != 0 && o.cause == .dram then .remote
  else o.cause

/-- Causes of stalls that belong to one operation. -/
def ownStall : StallCause → Bool
  | .dram | .prefetch | .remote | .latch | .snapshot => true
  | _ => false

/-- Ends the stall of an operation. -/
def unstallOp (n id : Nat) : Act := modDom n (fun d => { d with
  stalls := d.stalls.filter (fun e => !(e.2 == id && ownStall e.1)) })

/-- An operation becomes visible (R88): its stall ends, its effects apply in order, what it brought from outside is ordered before
what follows in its stream (R96), and it leaves. -/
def finishOp (n : Nat) (o : Op) : Act := fun s => Act.all [
  unstallOp n o.id,
  Act.each (o.effects s n) (applyWr n o),
  waitEnd n o,
  match o.coll with
    | some c => Act.all [collLatch n o c, collForget n c]
    | none => Act.skip,
  Act.guard s.hub.debugMode (modStream o.sid (fun t => { t with
    known := t.known ++ (announced (s.part n).run (annOp o.id)).filter (fun i => !t.known.contains i) })),
  countBusy n o,
  countRanges n o.sid false o.rd,
  countRanges n o.sid true o.wr,
  modRun n (fun r => { r with
    ops := r.ops.filter (fun x => x.id != o.id), remoteBuf := r.remoteBuf.filter (fun e => e.1 != o.id) }),
  retryHeads n, replayDone n] s

/-- The column of an operation's engine; none for engines of the hub and the link dies. -/
def opColumn (s : State) (o : Op) : Option Nat :=
  if kindQuarter o.sid.kind then ((s.part o.sid.part).quarter o.sid.own o.sid.unit).map (· / 4) else none

/-- Counts a late operation: a missed window of memory (R352), a late collective (R231). -/
def countLate (n : Nat) (o : Op) (c : StallCause) : Act := fun s => Act.all [
  match o.coll with
    | some _ => Act.all [
        modClx (o.sid.unit * 32 + n) (fun x => { x with late := satAdd x.late 1 }),
        count (ctrDie o.sid.unit 0x01) 1, count (ctrBank n 0x23) 1]
    | none => Act.skip,
  Act.guard (c == .dram) (Act.all [
    count (ctrBank n 0x18) 1,
    match opColumn s o with
      | some col => countF col (ctrCol col 0x90) 1 { part := some n, master := masterOf o.sid.kind }
      | none => Act.skip])] s

/-- An operation that is not ready at its visibility point stalls the partition from there (R25, R88). -/
def lateOp (n : Nat) (o : Op) : Act := fun s =>
  let c := o.stallCause s n
  Act.all [
    if c = .snapshot then snapStall n o.id else stall n c o.id,
    modRun n (fun r => { r with ops := r.ops.map (fun x =>
      if x.id == o.id then { x with stallFrom := some ((s.dom n).hst s.tim.hall) } else x) }),
    countLate n o c,
    Act.guard (decide (c = .snapshot)) (applyPartly n o)] s

/-- The operation `id` of a running partition, if the PSC has reached its visibility point. -/
def dueOp (s : State) (n id : Nat) : Option Op :=
  (s.part n).run.ops.find? (fun o => o.id == id && decide (o.vis.toNat ≤ (s.dom n).psc.toNat))

/-- The visibility point of an operation (R88). -/
def visibility (n id : Nat) (complete : Bool) : Act := fun s =>
  match dueOp s n id with
  | none => []
  | some o =>
    if o.stallFrom.isSome || !o.passesDone then []
    else if o.ready s n complete then finishOp n o s
    else lateOp n o s

/-- OPERATION_VISIBILITY (R88). What the operation's reads of DRAM found comes first; an uncorrectable block freezes the device before
the operation becomes visible (R181, R315). -/
def execOperationVisibility (part op : Nat) (how : Finish) (s : State) : Host.Outcome State Fault Refusal :=
  .next ((Act.all [
    Act.when (fun t => (dueOp t part op).isSome) (readFound how.bad),
    Act.when (fun t => t.hub.deadboltPending == s.hub.deadboltPending) (visibility part op how.complete)]).run s)

/-- A late operation completes and its stall ends (R25). One whose writes must still wait for the drain makes those that need not. -/
def lateComplete (n id : Nat) : Act := fun s =>
  match dueOp s n id with
  | none => []
  | some o =>
    if o.stallFrom.isNone || !o.formed s n true then []
    else if bufferFull s n o then applyPartly n o s
    else finishOp n o s

/-- OPERATION_LATE_COMPLETE (R25). -/
def execOperationLateComplete (part op : Nat) (s : State) : Host.Outcome State Fault Refusal :=
  .next ((lateComplete part op).run s)

/-! ### Passes (R70, R122) -/

/-- PSC at which the pass in progress ends. -/
def passEnd (o : Op) (p : Passes) : Nat := o.issue.toNat + (p.idx + 1) * p.time * 10

def setPasses (n id : Nat) (p : Passes) : Act := modRun n (fun r => { r with
  ops := r.ops.map (fun o => if o.id == id then { o with passes := some p } else o) })

/-- One repeat of a pass is counted (R71, R352, R354). -/
def countRepeat (n cell k : Nat) : Act := Act.all [
  modCell cell (fun c => { c with
    retryPass := satAdd c.retryPass 1, maxRepeat := BitVec.ofNat 8 (max c.maxRepeat.toNat k) }),
  count (ctrCol (cell / 18) (0x12 + cell % 18)) 1, count (ctrBank n 0x0F) 1]

/-- A pass ends (R70, R122): if some chunk overflowed, the pass repeats and the partition stalls for the pass time of each
repeat, which passes on hall time while the PSC stands still (R25); the next pass follows the last repeat. -/
def passEvent (n id : Nat) : Act := fun s =>
  match (s.part n).run.ops.find? (fun o => o.id == id) with
  | none => []
  | some o =>
    match o.passes with
    | none => []
    | some p =>
      match p.repeats[p.idx]? with
      | none => []
      | some k =>
        let next (t : BitVec 64) : BitVec 64 := t + BitVec.ofNat 64 (p.time * 10)
        if (s.dom n).psc.toNat < passEnd o p then []
        else if p.owed = 0 then
          (if k = 0 then setPasses n id { p with idx := p.idx + 1 } s
           else Act.all [setPasses n id { p with owed := k, endAt := next s.tim.hall }, stall n .retry id] s)
        else if s.tim.hall.toNat < p.endAt.toNat then []
        else if p.owed = 1 then
          Act.all [setPasses n id { p with idx := p.idx + 1, owed := 0 }, countRepeat n p.cell k, unstall n .retry id] s
        else Act.all [setPasses n id { p with owed := p.owed - 1, endAt := next p.endAt }, countRepeat n p.cell k] s

/-- CELL_PASS_END (R70). -/
def execCellPassEnd (part op : Nat) (s : State) : Host.Outcome State Fault Refusal :=
  .next ((passEvent part op).run s)

/-! ### Deadlines (R155) and STRIKE hasps (R166) -/

/-- A deadline expires: a hold with no release, the capture of R173, FLT and interrupts; the state stays RUNNING. -/
def deadline (n id : Nat) : Act := fun s =>
  match (s.part n).run.ops.find? (fun o => o.id == id) with
  | none => []
  | some o =>
    match o.wait, o.stallFrom with
    | .latch l t dln, some from? =>
      if dln = 0 || o.expired ||
          ((s.dom n).hst s.tim.hall).toNat < from?.toNat + dln * 2 ^ 20 * 10 || waitMet s o then []
      else Act.all [
        modRun n (fun r => { r with ops := r.ops.map (fun x => if x.id == id then { x with expired := true } else x) }),
        raiseHold n,
        modPart n (fun p => if p.sync.dlValid then p else { p with sync := { p.sync with
          dlValid := true, dlLqtr := BitVec.ofNat 8 o.sid.unit, dlKind := BitVec.ofNat 4 (kindNum o.sid.kind),
          dlLatch := BitVec.ofNat 19 l, dlTarget := BitVec.ofNat 64 t } }),
        fltEvent dieHub 5 .deadline (some n) 0, irqPart n 1] s
    | _, _ => []

/-- LWAIT_DEADLINE_EXPIRY (R155). -/
def execLwaitDeadlineExpiry (part op : Nat) (s : State) : Host.Outcome State Fault Refusal :=
  .next ((deadline part op).run s)

/-- A STRIKE hasp whose mask is full completes one cycle later (R166). -/
def strikeComplete (h : Nat) : Act := fun s =>
  let x := s.hasp h
  match x.owner, x.fullAt with
  | some n, some t =>
    if x.kind == 2 && t.toNat + 10 ≤ (s.dom n).psc.toNat then Act.all [completeGen n h 0, haspStep n h] s else []
  | _, _ => []

/-- HASP_STRIKE_COMPLETE (R166). -/
def execHaspStrikeComplete (hasp : Nat) (s : State) : Host.Outcome State Fault Refusal :=
  .next ((strikeComplete hasp).run s)

end Sys2Proof.Machine
end

