-- ==== Sys2Proof/Machine/Load.lean ====
section
/-!
DEFINITION. The load interface `HUB_LOAD[n]` (R98 to R102): LOAD, START and UNLOAD, and what a partition's end releases and
erases (R332, R338, R346, R347).
-/
namespace Sys2Proof.Machine

/-- Functions with the rights of the physical function (R5, R211, R394). -/
def isPf : Fn → Bool
  | .vf _ => false
  | _ => true

/-- The physical function, or the virtual function of partition `n` (R335). -/
def mayPart (fn : Fn) (n : Nat) : Bool := isPf fn || fn == .vf n

/-- The device takes commands: powered, started and ready (R374). -/
def serving (s : State) : Bool := s.hub.ready && !s.hub.stopped

/-- VF n + 1 exists (R384). -/
def vfExists (p : Pcie) (n : Nat) : Bool := p.vfEnable && decide (n < p.numVfs) && decide (n < 32)

/-- A function that is there to make an access: the host interface is in reset while PERST_N is low (R364). -/
def fnThere (s : State) : Fn → Bool
  | .pf => !s.hub.perst
  | .vf k => !s.hub.perst && vfExists s.pcie k
  | _ => true

/-- A command to partition `n` from a function that may give it. -/
def partCmd (fn : Fn) (n : Nat) (a : Act) : Act :=
  Act.when (fun s => serving s && decide (n < 32) && mayPart fn n && fnThere s fn) a

/-- Sets RESULT of `HUB_LOAD[n]`. -/
def loadResult (n r : Nat) : Act := modPart n (fun p => { p with load := { p.load with result := BitVec.ofNat 8 r } })

/-- Sets STATE and RESULT of `HUB_LOAD[n]`. -/
def loadState (n : Nat) (st : LoadState) (r : Nat) : Act := modPart n (fun p => { p with
  load := { p.load with state := st, result := BitVec.ofNat 8 r, unloading := false } })

/-- A load or an unload is in progress. -/
def loadBusy (p : Part) : Bool := p.load.state == .loading || p.load.unloading

/-- An activation window is open (R348). -/
def inWindow (s : State) : Bool := s.sec.fwState == .window

/-! ### Release -/

/-- The cells of a column return to no binding; a fenced one stays fenced. -/
def freeCell (k : Nat) : Act := fun s => modCell k (fun x => { x with
  role := if fencedCell s (k / 18) (k % 18) then .fenced else .unbound, valid := false, part := 0, lqtr := 0, lcell := 0,
  resident := none }) s

/-- Zeros in a frame. -/
def zeroFrame (n frame : Nat) : Act := fun s => match place s (frame * pageSize) with
  | .dram a => Act.all [fun _ => [.clearMem a (a + pageSize)], frameDirty n frame] s
  | .host b => zeroHost b pageSize s
  | _ => []

/-- Zeros in the pages that the partition's sealed path wrote, and in the copies of them that keyway moves have made (R338). -/
def eraseSealed (n : Nat) : Act := fun s =>
  let p := s.part n
  Act.each (p.run.pages.filter (fun e => e.2.sealed)) (fun e =>
    Act.each (e.2.frame :: p.movedTo (e.1 / 0x80000) (e.1 % 0x80000)) (zeroFrame n)) s

/-- Tumbler and route entries of the partition leave every link (R98). -/
def freeTables (n : Nat) : Act := Act.each allLinks (fun l => modLink l (fun r => { r with
  tumbler := r.tumbler.filter (fun e => fld e.2 24 5 != n), route := r.route.filter (fun e => fld e.2 18 5 != n) }))

/-- The channels of a partition's quarters go on by hall time (R34). -/
def channelsToHall (n : Nat) : Act := fun s => Act.each (partChannels s n) (fun e => modCol e.1 (fun x => { x with
  refreshFrom := Tab.set 0 x.refreshFrom e.2 s.tim.hall, scrubFrom := Tab.set 0 x.scrubFrom e.2 s.tim.hall })) s

/-- Releases everything a load has bound, with the erasures of R338, R346 and R347. -/
def release (n : Nat) : Act := fun s =>
  let p := s.part n
  Act.all [
    snapAbort n,
    eraseSealed n, eraseKeys n, channelsToHall n,
    Act.each ((p.bind.quarters.flatMap ownCells ++ p.bind.cells.map (·.2)).eraseDups) freeCell,
    Act.each s.cells (fun e => match e.2.shadowOf with
      | some r => Act.guard (r.part == n) (modCell e.1 (fun x => { x with role := .unbound, shadowOf := none }))
      | none => Act.skip),
    Act.each p.bind.hasps (fun e => modHasp e.2 (fun _ => {})),
    Act.each p.bind.queues (fun e => modQueue e.2 (fun _ => {})),
    Act.each p.bind.hdma (fun e => modPcie (fun x => { x with hdma := Tab.set {} x.hdma e.2 {} })),
    freeTables n,
    Act.each (List.range 4) (fun d => modClx (d * 32 + n) (fun x => { x with en := false })),
    modPcie (fun x => { x with chunks := x.chunks.filter (fun c => c.requester != n) }), takeChunks,
    modDom n (fun d => { d with stalls := [] }),
    modPart n (fun p => { p with
      obj := none, bind := {}, run := {}, recd := { p.recd with waiting := [], outSeen := [], win := false, ending := false },
      kwy := { p.kwy with dramPages := 0, hostPages := 0 } }),
    fun s => modKwy (fun k => { k with busy := s.parts.any (fun e => !e.2.run.moves.isEmpty) }) s,
    retryLinks] s

/-- Operations already issued complete (R98): what each has all it needs for becomes visible. -/
def completeOps (n : Nat) : Act := fun s =>
  Act.each (s.part n).run.ops (fun o => fun s => if o.ready s n true then finishOp n o s else []) s

/-! ### LOAD -/

/-- The delayed bank events of the VF view clear with the bank (R354). -/
def PartCfg.clearViews (c : PartCfg) : PartCfg := { c with vfStall := 0, vfPower := 0, vfFrames := 0 }

/-- LOAD is accepted (R98, R326, R348). The generation of the ward grows, the partition's counter bank and its duty
clear (R333, R354, R360). What a failed restore left bound is released first (R300). -/
def loadAct (n : Nat) : Act := fun s =>
  let p := s.part n
  if loadBusy p || inWindow s || (s.hub.katBusy && s.hub.katSuite == 1) || !(p.load.state == .empty || p.load.state == .failed) then
    loadResult n rcState s
  else Act.all [
    Act.guard p.obj.isSome (release n),
    modPart n (fun p => { p with
      load := { p.load with state := .loading }, cfg := ({ p.cfg with gen := p.cfg.gen + 1, tagged := true, duty := 0 } : PartCfg).clearViews }),
    clearBank n] s

/-- LOAD (R98, R100). -/
def execLoad (fn : Fn) (part : Nat) (s : State) : Host.Outcome State Fault Refusal :=
  .next ((partCmd fn part (loadAct part)).run s)

/-- The rank map as it is kept. In replay every other rank lies behind a stand-in (R280, log entry 49). -/
def keptMap (s : State) (n : Nat) (own : List Nat) (map : List (Nat × Nat)) : List (Nat × Nat) :=
  if (s.part n).recd.replay then
    map.zipIdx.map (fun e => if own.contains e.2 then (s.hub.devno.toNat, n) else (e.2, (n + 1) % 32))
  else map

/-- What the loader keeps of the object. -/
def objOf (s : State) (n : Nat) (q : Params) (img : List Byte) : Obj :=
  let xs := imgSects img
  let own := q.ownRaw.take q.nown
  let plan := (planOf xs).getD { cols := [], segs := [], exps := [], rhops := 1 }
  { digest := BitVec.ofNat 256 (beNat (img.drop (img.length - 32))), core := BitVec.ofNat 256 (beNat (coreDigest img xs)),
    ranks := q.ranks, quarters := imgQuarters img, planLead := imgLead img, map := keptMap s n own (readMap s q), own := own,
    startTime := BitVec.ofNat 64 q.start, rhops := plan.rhops, cols := plan.cols, segs := plan.segs, exps := plan.exps,
    origins := if (s.part n).recd.replay then [] else ((routeRecs xs).filter (·.kind == 2)).map (fun r =>
      { rank := r.inn, die := r.outDie, link := r.outLink, route := r.outRoute, altDie := r.altDie, altLink := r.altLink,
        altRoute := r.altRoute }),
    dies := diesNamed xs }

/-- A link that the object names carries data again (R223, R375). -/
def nameLink (l : LinkId) : Act := modLink l (fun r => { r with dataOk := true, detour := false })

/-- A tumbler table entry (R215). -/
def tumblerWord (n : Nat) (e : TumEnt) : BitVec 32 :=
  pack 32 [(31, 1), (30, b2n e.standby), (29, b2n e.transit), (24, n), (12, e.route), (0, e.ts)]

/-- A route table entry (R226). -/
def routeWord (n : Nat) (r : RouteRec) : BitVec 64 :=
  let alt : Bool := r.altDie != 0xFF
  pack 64 ([(63, 1), (62, b2n r.term), (60, r.outDie % 4), (55, r.outLink % 32), (43, r.outRoute), (42, b2n alt), (18, n)] ++
    (if alt then [(40, r.altDie % 4), (35, r.altLink % 32), (23, r.altRoute)] else []))

/-- The links to the devices of ranks that no ORIGIN record covers: messages to them travel there with route ID 0 (R424). -/
def directLinks (s : State) (n : Nat) : List LinkId :=
  match (s.part n).obj with
  | none => []
  | some o => allLinks.filter (fun l => (s.link l).peerValid && o.map.zipIdx.any (fun e =>
      e.1.1 == (s.link l).pdev.toNat && !o.origins.any (fun r => r.rank == e.2)))

/-- Tumblers and routes are installed (R216, R219); in replay none are (R280). A link that the partition uses carries data again
from its load on (R223). -/
def installTables (n : Nat) (xs : List Sect) : Act := Act.when (fun s => !(s.part n).recd.replay) (Act.all [
  fun s => Act.each (directLinks s n) nameLink s,
  Act.each (tumSects xs) (fun t => Act.all [
    nameLink t.link,
    modLink t.link (fun r => { r with
      tumbler := t.ents.foldl (fun tab e => (landsOn t.period e.index).foldl (fun tab i =>
        Tab.set 0 tab i (tumblerWord n e)) tab) r.tumbler })]),
  Act.each (routeRecs xs) (fun r => Act.all [
    nameLink ⟨r.outDie, r.outLink⟩,
    Act.guard (r.altDie != 0xFF) (nameLink ⟨r.altDie, r.altLink⟩),
    Act.guard (r.kind == 1) (Act.all [
      nameLink ⟨r.inDie, r.inLink⟩,
      modLink ⟨r.inDie, r.inLink⟩ (fun x => { x with route := Tab.set 0 x.route r.inn (routeWord n r) })])])])

/-- Writes one stream's image into its resident queue and adds the stream (R167, R421). -/
def installStream (n base q : Nat) (x : Sect) (ws : List InsnWord) : Act := fun s =>
  let p := s.part n
  match p.obj, x.kind with
  | some o, some k =>
    let sid : StreamId := { part := n, own := ownIdx o x, kind := k, unit := x.unit }
    Act.all [
      poke base (ws.flatMap (fun w => leBytes 16 w.toNat)),
      modQueue q (fun _ => {
        base := BitVec.ofNat 64 base, en := true, res := true, part := BitVec.ofNat 5 n, kind := BitVec.ofNat 4 (kindNum k),
        lqtr := if kindQuarter k then BitVec.ofNat 8 x.unit else 0xFF, log2 := BitVec.ofNat 5 (ringLog ws.length),
        tail := BitVec.ofNat 32 ws.length, ward := BitVec.ofNat 16 (p.tag n) }),
      modRun n (fun r => { r with streams := r.streams ++ [{ sid := sid, rank := x.rank, queue := q, image := ws }] }),
      Act.guard (k == .clx) (modClx (x.unit * 32 + n) (fun _ => { en := true }))] s
  | _, _ => []

/-- All streams, their rings one after the other from `base`. -/
def installStreams (n : Nat) : Nat → List (Nat × Sect × List InsnWord) → Act
  | _, [] => Act.skip
  | base, (q, x, ws) :: r => Act.all [installStream n base q x ws, installStreams n (base + 2 ^ ringLog ws.length * 16) r]

/-- Step 13 (R100), the key pair of R344 and the counts of R204 and R250. -/
def install (n : Nat) (xs take : List Sect) (imgs : List (List InsnWord)) : Act := fun s =>
  let p := s.part n
  Act.all [
    installTables n xs,
    Act.each (List.range 4) (fun d => modClx (d * 32 + n) (fun _ => {})),
    installStreams n (p.run.swapReserved.headD 0 * pageSize) ((p.bind.queues.map (·.2)).zip (take.zip imgs)),
    clearRemote n,
    withFree (fun i => modPart n (fun p => { p with
      key := { p.key with slots := [], slotWard := [], ecdh := some (p384Scalar (Config.freeNat i)), msg := none, count := 0, weights := [] },
      snap := { p.snap with restored := [], tainted := false },
      kwy := { p.kwy with
        dramPages := BitVec.ofNat 32 ((p.run.pages.filter (fun e => e.2.home == .loc || e.2.home == .neigh)).length),
        hostPages := BitVec.ofNat 32 ((p.run.pages.filter (fun e => e.2.home == .host)).length) } })),
    loadState n .loaded rcOk] s

/-- Steps 10 to 13: the effects of a load whose object passed, or the RESULT of the step that failed (R100). -/
def bindObject (s : State) (n : Nat) (q : Params) (img : List Byte) : Except Nat (List Eff) :=
  let xs := imgSects img
  let take := ownSects (q.ownRaw.take q.nown) xs
  let e0 := modPart n (fun p => { p with obj := some (objOf s n q img), bind := {}, run := {} }) s
  match placeAll n xs take (applyAll e0 s) with
  | none => .error rcPlace
  | some e1 =>
    let t := applyAll e1 (applyAll e0 s)
    if !step11 s n xs then .error rcTumbler
    else match patchAll (t.part n) xs take with
      | none => .error rcReloc
      | some imgs => .ok (e0 ++ e1 ++ install n xs take imgs t)

/-- What LOAD has come to: every binding of the object, or a RESULT with nothing installed (R100). -/
def loadEnd (n : Nat) : Act := fun s =>
  let q := readParams s (s.part n).load.param.toNat
  let img := fetchAt s q.addr q.len
  let rc := checkObject s n q img
  let fail (r : Nat) : Act := loadState n .failed r
  Act.all [
    accessed [((s.part n).load.param.toNat, 80), (q.addr, q.len), (q.mapAddr, 8 * q.ranks)],
    fun s => if rc != rcOk then fail rc s else match bindObject s n q img with
      | .error r => fail r s
      | .ok e => e ++ checkRepl (applyAll e s),
    irqPart n 0] s

/-! ### START -/

/-- START (R98, R100): the streams run against START_TIME, and reach their first instructions now (R27); written record windows are in
force (R277). -/
def startAct (n : Nat) : Act := fun s =>
  let p := s.part n
  match p.obj with
  | none => loadResult n rcState s
  | some o =>
    if loadBusy p || inWindow s || p.load.state != .loaded || !(s.dom n).active then loadResult n rcState s else
    let r := { p.recd with winFirst := p.recd.winFirstNext, winLast := p.recd.winLastNext }
    let psc := (s.dom n).psc
    Act.all [
      modPart n (fun p => { p with
        recd := { r with win := r.fp && windowOpen r p.run.bindingEpoch, endd := false, ending := false, logFrom := r.logRd },
        run := { p.run with
          curOrigin := o.startTime, prevOrigin := o.startTime, firstOrigin := o.startTime,
          streams := p.run.streams.map (fun t => { t with reached := psc }) } }),
      loadState n .running rcOk,
      Act.each (partChannels s n) (fun e => modCol e.1 (fun x => { x with
        refreshFrom := Tab.set 0 x.refreshFrom e.2 psc, scrubFrom := Tab.set 0 x.scrubFrom e.2 psc })),
      Act.each p.run.streams (fun t => modQueue t.queue (fun q => { q with
        wait := if t.halted then 9 else if q.head == q.tail then 1 else 0, wpsc := psc }))] s

/-- START (R98, R100). -/
def execStart (fn : Fn) (part : Nat) (s : State) : Host.Outcome State Fault Refusal :=
  .next ((partCmd fn part (startAct part)).run s)

/-! ### UNLOAD -/

/-- States in which UNLOAD is accepted (R98). -/
def canUnload : LoadState → Bool
  | .loaded | .running | .done | .faulted | .failed => true
  | _ => false

/-- UNLOAD is accepted: a running partition stops as at step 2 of R93 (R98). -/
def unloadAct (n : Nat) : Act := fun s =>
  let p := s.part n
  if loadBusy p || inWindow s || !canUnload p.load.state || (s.dom n).active then loadResult n rcState s else Act.all [
    Act.guard (p.load.state == .running) (stopStreams n),
    modPart n (fun p => { p with load := { p.load with unloading := true }, cfg := { p.cfg with duty := 0 } })] s

/-- UNLOAD (R98). -/
def execUnload (fn : Fn) (part : Nat) (s : State) : Host.Outcome State Fault Refusal :=
  .next ((partCmd fn part (unloadAct part)).run s)

/-- UNLOAD is done: everything is released and STATE is EMPTY. -/
def unloadEnd (n : Nat) : Act := Act.all [completeOps n, release n, loadState n .empty rcOk, irqPart n 0]

/-- LOAD_DONE (R98, R100): the load or the unload in progress ends. -/
def execLoadDone (part : Nat) (s : State) : Host.Outcome State Fault Refusal :=
  .next ((Act.when (fun s => !s.hub.stopped && decide (part < 32)) (fun s =>
    if (s.part part).load.unloading then unloadEnd part s
    else if (s.part part).load.state == .loading then loadEnd part s else [])).run s)

end Sys2Proof.Machine
end

