-- ==== Sys2Proof/Machine/Power.lean ====
section
/-!
DEFINITION. Power and heat: duties (R360, R410, R411), power-hold frames, the delayed views of a virtual function (R336,
R354), and the summary of corrected errors (R323).
-/
namespace Sys2Proof.Machine

/-! ### Duties -/

/-- The duty a partition runs at: the largest of its own, the device's and the thermal one (R410, R411). -/
def effDuty (s : State) (n : Nat) : BitVec 11 :=
  BitVec.ofNat 11 (max (s.part n).cfg.duty.toNat (max s.pmc.dutyE.toNat s.pmc.dutyT.toNat))

/-- A duty one step up, at most 1,500 cycles per frame. -/
def dutyUp (d : BitVec 11) : BitVec 11 := BitVec.ofNat 11 (min (d.toNat + 100) 1500)

/-- A duty one step down. -/
def dutyDown (d : BitVec 11) : BitVec 11 := BitVec.ofNat 11 (d.toNat - 100)

/-- Adds thousandths of a joule to an energy counter (R353, R354). -/
def addEnergy (k mj : Nat) : Act := modPmc (fun p =>
  let all := Tab.get 0 p.milli k + mj
  { p.add k (all / 1000) with milli := Tab.set 0 p.milli k (all % 1000) })

/-- The duty of a partition after a millisecond at mean power `w` (R360). -/
def nextDuty (c : PartCfg) (w : Nat) : BitVec 11 :=
  if c.cap.toNat < w then dutyUp c.duty
  else if w * 100 < c.cap.toNat * 95 then dutyDown c.duty
  else c.duty

/-- Hall-time units of a 100 ms interval (R336). -/
def vpwrSpan : Nat := 1600000000

/-- A millisecond of interval `k` at mean power `w` enters the meter (R336). -/
def Meter.add (k w : Nat) (m : Meter) : Meter :=
  if m.int == k then { m with sum := m.sum + w, cnt := m.cnt + 1 }
  else { int := k, sum := w, cnt := 1, lastInt := m.int, lastMean := m.sum / m.cnt }

/-- Mean power over interval `k`; 0 for one that the meter has no millisecond of. -/
def Meter.mean (k : Nat) (m : Meter) : Nat :=
  if m.int == k then m.sum / m.cnt else if m.lastInt == k then m.lastMean else 0

/-- A partition's part of the power `w` of a shared unit in the millisecond that ends (R330), rounded down. -/
def useShare (p : Pmc) (n unit w : Nat) : Nat :=
  w * Tab.get 0 p.used (useKey n unit) / ((List.range 33).map (fun i => Tab.get 0 p.used (useKey i unit))).sum

/-- The metered power of a partition (R330): `own` at its regulators, and its share of each shared unit. -/
def metered (p : Pmc) (shared : List Nat) (n own : Nat) : Nat :=
  own + ((List.range 6).map (fun u => useShare p n u ((shared[u]?).getD 0))).sum

/-- A millisecond of one partition at mean power `w`: a duty at its end that does not suffice is recorded. -/
def partPower (n w : Nat) : Act := fun s =>
  let c := (s.part n).cfg
  Act.all [
    modPart n (fun p => { p with cfg := { p.cfg with
      pwr := BitVec.ofNat 16 w, duty := nextDuty p.cfg w, meter := p.cfg.meter.add ((s.tim.hall.toNat - 1) / vpwrSpan) w } }),
    Act.guard (c.duty == 1500 && decide (c.cap.toNat < w)) (fltEvent dieHub 0 .powerStuck (some n) 0),
    addEnergy (ctrBank n 0x2C) w] s

/-- POWER_MS_CHECK (R330, R360, R410): the means over the last millisecond at the regulators of each partition's quarters, of the
link dies, the mesh and the hub, and of the input. -/
def powerCheck (parts shared : List Nat) (total : Nat) : Act := Act.when (fun s => !s.hub.stopped) (fun s => Act.all [
  Act.each (parts.take 32).zipIdx (fun e => partPower e.2 (metered s.pmc shared e.2 e.1)),
  modPmc (fun p => { p with
    used := [],
    dutyE := if 3600 < total then dutyUp p.dutyE else if total < 3420 then dutyDown p.dutyE else p.dutyE }),
  addEnergy (ctrHub 0x1C) total] s)

/-- POWER_MS_CHECK (R360, R410). -/
def execPowerMsCheck (means : PowerMeans) (total : Nat) (s : State) : Host.Outcome State Fault Refusal :=
  .next ((powerCheck means.parts means.shared total).run s)

/-- Number of the 1 µs frame of hall time, counted from 1. -/
def frameNow (s : State) : Nat := s.tim.hall.toNat / 16000 + 1

/-- Hall time at which the power hold of a frame ends. -/
def holdEnd (s : State) (n : Nat) : Nat := s.tim.hall.toNat / 16000 * 16000 + (effDuty s n).toNat * 10

/-- The power hold of a frame ends: after D cycles of it, or with the frame. -/
def powerRelease (n : Nat) : Act := fun s =>
  if (s.dom n).lastPowerFrame.toNat != frameNow s || decide (holdEnd s n ≤ s.tim.hall.toNat) then unstall n .power 0 s else []

/-- A frame of hall time begins: a partition with duty stalls for its first D cycles (R360). -/
def powerFrame (n : Nat) : Act := fun s =>
  let f := frameNow s
  if s.hub.stopped || decide (32 ≤ n) || (s.dom n).lastPowerFrame.toNat == f then [] else Act.all [
    modDom n (fun d => { d with lastPowerFrame := BitVec.ofNat 64 f }),
    if effDuty s n == 0 then unstall n .power 0 else Act.all [stall n .power 0, count (ctrBank n 0x2B) 1],
    Act.guard (s.pmc.dutyE != 0 && s.pmc.frameSeen != f) (count (ctrHub 0x1D) 1),
    modPmc (fun p => { p with frameSeen := f }),
    powerRelease n] s

/-- POWER_HOLD_FRAME (R360). -/
def execPowerHoldFrame (part : Nat) (s : State) : Host.Outcome State Fault Refusal := .next ((powerFrame part).run s)

/-! ### Stops -/

/-- The device stops at once (R363): READY falls and every link stops. -/
def stopDevice : Act := Act.all [
  modHub (fun h => { h with ready := false, stopped := true }),
  modPcie (fun p => { p with up0 := false, up1 := false }),
  Act.each allLinks (fun l => modLink l (fun _ => {}))]

/-- Temperatures of R411 in tenths of a degree Celsius, offset by 1000. -/
def degC (t : Nat) : Nat := 1000 + 10 * t

/-- The millisecond check of temperatures (R411): alert, thermal duty, trip. The monitors' wear indicators are read with them (R319;
DESIGN CHOICE, log entry 89). -/
def thermalCheck (tcase tj : Nat) (wear : Bool) : Act := Act.when (fun s => !s.hub.stopped) (Act.all [
  Act.when (fun s => wear && !bit s.hub.repl 0) (Act.all [replReason 0, healthWrite]),
  Act.guard (decide (degC 70 < tcase)) (alert 5),
  modPmc (fun p => { p with
    dutyT := if degC 105 < tj then dutyUp p.dutyT else if tj < degC 100 then dutyDown p.dutyT else p.dutyT }),
  Act.guard (decide (degC 110 < tj)) (Act.all [fltEvent dieHub 0 .thermalTrip none 3, alert 5, stopDevice])])

/-- THERMAL_MS_CHECK (R411). -/
def execThermalMsCheck (tcase : Nat) (dies : Monitors) (s : State) : Host.Outcome State Fault Refusal :=
  .next ((thermalCheck tcase dies.junction dies.wear).run s)

/-! ### Delayed views -/

/-- The boundary of number `k` is the last that hall time has passed, and VPWR has not been updated at it (R336). -/
def vpwrDue (k : Nat) (s : State) : Bool := !s.hub.stopped && s.tim.hall.toNat / vpwrSpan == k && k != s.pmc.vpwrInt

/-- A 100 ms boundary (R336, R354): VPWR, the mean over the interval that has ended in steps of 50 W, and the bank events that a VF
sees late. -/
def vpwr (k : Nat) : Act := Act.when (vpwrDue k) (fun s => Act.all [
  modPmc (fun p => { p with vpwrInt := k }),
  Act.each allParts (fun n => modPart n (fun p => { p with cfg := { p.cfg with
    vpwr := BitVec.ofNat 16 (p.cfg.meter.mean (k - 1) / 50 * 50),
    vfStall := Tab.get 0 s.pmc.ctr (ctrBank n 0x01), vfPower := Tab.get 0 s.pmc.ctr (ctrBank n 0x08),
    vfFrames := Tab.get 0 s.pmc.ctr (ctrBank n 0x2B) } }))] s)

/-- VPWR_INTERVAL (R336). -/
def execVpwrInterval (k : Nat) (s : State) : Host.Outcome State Fault Refusal := .next ((vpwr k).run s)

/-- The summary of a column whose corrected count has risen (R323): an FLT event of severity 1 and its record. -/
def eccSummary (c : Nat) : Act := fun s =>
  let x := s.col c
  if x.eccCe == x.eccReported then [] else Act.all [
    modCol c (fun x => { x with eccReported := x.eccCe }),
    Act.guard s.flt.cperEn (Act.all [fltEvent c 0 .eccCorrected none 1, cper []])] s

/-- CPER_ECC_SUMMARY (R323). -/
def execCperEccSummary (s : State) : Host.Outcome State Fault Refusal :=
  .next ((Act.when (fun s => !s.hub.stopped) (Act.each (List.range 20) eccSummary)).run s)

end Sys2Proof.Machine
end

