-- ==== Sys2Proof/Machine/Aes.lean ====
section
/-!
DEFINITION. AES-256 in Galois/counter mode (R337 to R339, R345): the public standards that the specification names
(FIPS 197, SP 800-38D).
-/
namespace Sys2Proof.Machine

/-- Doubling in the field of AES. -/
def xtime (b : Byte) : Byte := (b <<< 1) ^^^ (if b.getLsbD 7 then 0x1B else 0)

/-- Product in the field of AES, over the bits of the second factor. -/
def gmulBits : Nat → Byte → Byte → Byte
  | 0, _, _ => 0
  | n + 1, a, b => (if b.getLsbD 0 then a else 0) ^^^ gmulBits n (xtime a) (b >>> 1)

def gmul (a b : Byte) : Byte := gmulBits 8 a b

/-- `a` to the power 254, its inverse; 0 for 0. -/
def ginv (a : Byte) : Byte :=
  let a2 := gmul a a
  let a4 := gmul a2 a2
  let a8 := gmul a4 a4
  let a16 := gmul a8 a8
  let a32 := gmul a16 a16
  let a64 := gmul a32 a32
  let a128 := gmul a64 a64
  gmul a128 (gmul a64 (gmul a32 (gmul a16 (gmul a8 (gmul a4 a2)))))

/-- The S-box of AES. -/
def subByte (a : Byte) : Byte :=
  let x := ginv a
  x ^^^ x.rotateLeft 1 ^^^ x.rotateLeft 2 ^^^ x.rotateLeft 3 ^^^ x.rotateLeft 4 ^^^ 0x63

/-- The key schedule in words of four bytes, newest first. -/
def aesKeys : Nat → Nat → Byte → List (List Byte) → List (List Byte)
  | 0, _, _, ws => ws
  | n + 1, i, rc, ws =>
    let t := (ws[0]?).getD []
    let t' := if i % 8 = 0 then List.zipWith (· ^^^ ·) ((t.drop 1 ++ t.take 1).map subByte) [rc, 0, 0, 0]
      else if i % 8 = 4 then t.map subByte else t
    aesKeys n (i + 1) (if i % 8 = 0 then xtime rc else rc) (List.zipWith (· ^^^ ·) ((ws[7]?).getD []) t' :: ws)

/-- The fifteen round keys of AES-256. -/
def aesRoundKeys (key : List Byte) : List (List Byte) :=
  (chunks 4 ((aesKeys 52 8 1 (chunks 4 (slice key 0 32)).reverse).reverse)).map List.flatten

/-- Row shift: byte order of the state is by columns. -/
def shiftRows (s : List Byte) : List Byte := (List.range 16).map (fun i => (s[(i + 4 * (i % 4)) % 16]?).getD 0)

/-- Mixes one column. -/
def mixCol (c : List Byte) : List Byte := match c with
  | [a, b, c, d] => [xtime a ^^^ (xtime b ^^^ b) ^^^ c ^^^ d, a ^^^ xtime b ^^^ (xtime c ^^^ c) ^^^ d,
      a ^^^ b ^^^ xtime c ^^^ (xtime d ^^^ d), (xtime a ^^^ a) ^^^ b ^^^ c ^^^ xtime d]
  | _ => c

/-- The rounds after the first key. -/
def aesRounds : List (List Byte) → List Byte → List Byte
  | [], s => s
  | [k], s => List.zipWith (· ^^^ ·) (shiftRows (s.map subByte)) k
  | k :: ks, s => aesRounds ks (List.zipWith (· ^^^ ·) ((chunks 4 (shiftRows (s.map subByte))).flatMap mixCol) k)

/-- AES-256 of one block. -/
def aesBlock (keys : List (List Byte)) (b : List Byte) : List Byte := match keys with
  | [] => b
  | k :: ks => aesRounds ks (List.zipWith (· ^^^ ·) b k)

/-- Product in GF(2^128) of GCM, over the bits of the first factor from its highest. -/
def ghashMul : Nat → Nat → Nat → Nat → Nat
  | 0, _, _, z => z
  | n + 1, x, v, z =>
    ghashMul n x (if v % 2 = 1 then (v >>> 1) ^^^ (0xE1 <<< 120) else v >>> 1) (if x.testBit n then z ^^^ v else z)

/-- GHASH over bytes, each block padded with zeros. -/
def ghash (h : Nat) (bs : List Byte) (y : Nat) : Nat :=
  (chunks 16 bs).foldl (fun y b => ghashMul 128 (y ^^^ beNat (slice b 0 16)) h 0) y

/-- The key stream applied to bytes, from counter `c`. -/
def gcmCtr (keys : List (List Byte)) (iv : List Byte) (c : Nat) (bs : List Byte) : List Byte :=
  (chunks 16 bs).zipIdx.flatMap (fun e => List.zipWith (· ^^^ ·) e.1 (aesBlock keys (iv ++ beBytes 4 (c + e.2))))

/-- The tag of AES-256-GCM over a ciphertext with 12 bytes of initialisation vector. -/
def gcmTag (key iv aad cipher : List Byte) : List Byte :=
  let keys := aesRoundKeys key
  let h := beNat (aesBlock keys (List.replicate 16 0))
  let y := ghash h (beBytes 8 (8 * aad.length) ++ beBytes 8 (8 * cipher.length)) (ghash h cipher (ghash h aad 0))
  gcmCtr keys iv 1 (beBytes 16 y)

/-- Encryption and decryption of AES-256-GCM from byte `pos`, a multiple of 16. -/
def gcmCrypt (key iv : List Byte) (pos : Nat) (bs : List Byte) : List Byte :=
  gcmCtr (aesRoundKeys key) iv (2 + pos / 16) bs

end Sys2Proof.Machine
end

