-- ==== Sys2Proof/Machine/Drain.lean ====
section
/-!
DEFINITION. The drain of a snapshot and its manifest (R292 to R296, R310), the end of a shadow comparison (R309), the
keyway's page copies (R190, R306), record copies (R277) and the injection of replay (R281).
-/
namespace Sys2Proof.Machine

/-! ### The manifest (R296) -/

/-- Digest of a CKPT segment: the hash of its page digests in order (R294). -/
def shardDigest (r : SnapRank) (o : Obj) (i : Nat) (g : Seg) : List Byte :=
  sha256 ((List.range (g.size / pageSize)).flatMap (fun j =>
    beBytes 32 (Tab.get 0 r.digests (segBase o.segs i / pageSize + j)).toNat))

/-- The signed part of a manifest. -/
def manifestBody (s : State) (n : Nat) (o : Obj) (r : SnapRank) : List Byte :=
  let x := (s.part n).snap
  [0x4D, 0x4E, 0x46, 0x54] ++ leBytes 2 1 ++ [1] ++ leBytes 1 n ++ leBytes 4 x.strikeFlags.toNat ++
    leBytes 4 ((o.own[r.own]?).getD 0) ++ leBytes 4 o.ranks ++ leBytes 4 (ckptSegs o).length ++
    leBytes 4 r.step.toNat ++ leBytes 4 x.strikeEpoch.toNat ++ leBytes 8 x.strikeHall.toNat ++
    leBytes 8 r.jobSeed.toNat ++ beBytes 32 o.digest.toNat ++ beBytes 32 o.core.toNat ++
    leBytes 16 s.fuses.identity.toNat ++ leBytes 8 (contextOff o) ++ leBytes 8 r.context.length ++
    sha256 r.context ++ r.seeds.flatMap (fun v => leBytes 8 v.toNat) ++ List.replicate 16 0 ++
    (ckptSegs o).flatMap (fun e => leBytes 2 e.1 ++ [0, 0] ++ leBytes 4 e.2.symbol ++ leBytes 8 (segOff o e.1) ++
      leBytes 8 e.2.size ++ shardDigest r o e.1 e.2)

/-- Signs bytes with the attestation key; the nonce is a free value (log entry 20). -/
def signed (i : Nat) (bs : List Byte) : List Byte :=
  bs ++ p384Sign (p384Scalar Config.attestationKey) (p384Scalar (Config.freeNat i)) bs

/-- Bytes that SEC's hash engine takes, in the units of R352. -/
def hashed (n : Nat) : Act := count (ctrHub 0x17) (units256 n)

/-- An instruction issued before the strike is still being compared (R310). -/
def comparing (s : State) (n : Nat) : Bool := s.cells.any (fun e => match e.2.shadowOf with
  | some r => r.part == n && decide (r.psc.toNat < (s.part n).snap.strikePsc.toNat)
  | none => false)

/-- The contexts of the hosted ranks leave for their images (R293). -/
def writeContexts (n : Nat) (o : Obj) : Act := fun s =>
  Act.each (s.part n).snap.ranks (fun r => Act.all [imageWrite n r.own (contextOff o) r.context, hashed r.context.length]) s

/-- The manifests are written, last of all, and the snapshot is DONE (R293, R296). -/
def writeManifests (n : Nat) (o : Obj) : Act := fun s => Act.all [
  Act.each (s.part n).snap.ranks (fun r => withFree (fun i => fun s => imageWrite n r.own 0 (signed i (manifestBody s n o r)) s)),
  modPart n (fun p => { p with snap := { p.snap with state := .done, ranks := [], ctxSent := false } }),
  unstall n .snapshot 0, irqPart n 2] s

/-- Once every page has landed and no comparison is outstanding (R293, R310), the contexts are written and then the manifests: at
once into the host window; to a peer when the contexts have landed there. -/
def snapFinish (n : Nat) : Act := fun s =>
  let p := s.part n
  let x := p.snap
  match p.obj with
  | none => []
  | some o =>
    if x.state != .draining || x.ctxSent || !x.pages.isEmpty || !x.marked.isEmpty || !x.reading.isEmpty || comparing s n then []
    else if x.ranks.any (fun r => imageLost s n r.own 0 (imageSize o)) then snapAbort n s
    else Act.all [writeContexts n o,
      if x.dest then modPart n (fun p => { p with snap := { p.snap with ctxSent := true } }) else writeManifests n o] s

/-! ### Draining a page (R292) -/

/-- The drain of a column has sent what it reads (R292): the page's digest is taken, its buffer page is freed, and the column takes
its next page. With nothing left to read it is the contexts that have landed at the peer (R293). -/
def drainPage (n col : Nat) (how : DrainEnd) : Act := fun s =>
  let p := s.part n
  match p.obj with
  | none => []
  | some o =>
    if p.snap.state != .draining then [] else
    match p.snap.reading.find? (fun r => r.1 == col) with
    | none =>
      if !p.snap.ctxSent then snapFinish n s
      else if how != .landed then snapAbort n s else writeManifests n o s
    | some (c, own, page, buffered) =>
      let bs := drainBytes s n own page buffered
      if how != .landed || imageLost s n own (pageOff o page) pageSize then snapAbort n s
      else Act.all [
        Act.guard (!p.snap.dest) (imageWrite n own (pageOff o page) bs),
        hashed pageSize, count (ctrCol col 0x97) 1,
        modPart n (fun p => { p with snap := { p.snap with
          reading := p.snap.reading.erase (c, own, page, buffered),
          pages := if buffered then p.snap.pages.filter (fun b => !(b.own == own && b.page == page)) else p.snap.pages,
          ranks := p.snap.ranks.map (fun r => if r.own == own then
            { r with digests := Tab.set 0 r.digests page (BitVec.ofNat 256 (beNat (sha256 bs))) } else r) } }),
        startReads n, snapFinish n, retryLinks] s

/-- SNAPSHOT_DRAIN_PAGE (R292 to R295). -/
def execSnapshotDrainPage (part col : Nat) (how : DrainEnd) (s : State) : Host.Outcome State Fault Refusal :=
  .next ((drainPage part col how).run s)

/-! ### Shadow comparisons (R309, R310) -/

/-- A mismatch (R309): the architected cell is fenced, the spare is the witness, the domain is held with no release, the
first mismatch of the column is captured. A snapshot whose strike followed the issue ends, and so does one whose strike is
still to come (R310). -/
def shadowMismatch (c spare : Nat) (r : ShadowRec) : Act := withSpares c (fun s => Act.all [
  modCell r.cell (fun x => { x with role := .fenced, fences := x.fences + 1 }),
  modCell (c * 18 + spare) (fun x => { x with witness := true }),
  modCol c (fun x =>
    let y := { x with fenced := x.fenced ||| BitVec.ofNat 18 (2 ^ (r.cell % 18)), shadowMm := satAdd x.shadowMm 1 }
    if x.mmValid then y else { y with
      mmValid := true, mmPart := BitVec.ofNat 5 r.part, mmLqtr := BitVec.ofNat 8 r.lqtr,
      mmCell := BitVec.ofNat 5 (r.cell % 18), mmSpare := BitVec.ofNat 5 spare, mmPsc := r.psc, mmQpos := r.qpos }),
  raiseHold r.part,
  fltEventC c (r.cell % 18) .shadowMismatch (some r.part) 2 (leBytes 8 r.psc.toNat ++ leBytes 4 r.qpos.toNat),
  irq 0 (32 + r.part),
  modPart r.part (fun p => { p with snap := { p.snap with tainted := true } }),
  Act.guard (decide (r.psc.toNat < (s.part r.part).snap.strikePsc.toNat)) (snapAbort r.part),
  healthChange] s)

/-- A spare's comparison ends (R309). The spare has repeated the passes that the cell repeated, and counts them in its own
registers (R70, R71). -/
def shadowEnd (c spare : Nat) (bad : Bool) : Act := fun s =>
  let k := c * 18 + spare
  match (s.cell k).shadowOf with
  | none => []
  | some r => Act.all [
      modCell k (fun x => { x with
        role := .unbound, shadowOf := none, shadowDone := satAdd x.shadowDone 1,
        retryPass := satAdd x.retryPass r.repeats.sum,
        maxRepeat := BitVec.ofNat 8 (max x.maxRepeat.toNat (r.repeats.foldl max 0)) }),
      count (ctrCol c (0x12 + spare)) r.repeats.sum,
      modCell r.cell (fun x => { x with shadowDone := satAdd x.shadowDone 1 }),
      count (ctrCol c (0x24 + r.cell % 18)) 1, count (ctrCol c (0x24 + spare)) 1, count (ctrBank r.part 0x11) 1,
      Act.guard bad (shadowMismatch c spare r),
      snapFinish r.part] s

/-- SHADOW_COMPARE_END (R309). -/
def execShadowCompareEnd (col spare : Nat) (mismatch : Bool) (s : State) : Host.Outcome State Fault Refusal :=
  .next ((shadowEnd col spare mismatch).run s)

/-! ### Keyway copies (R190, R306) -/

/-- Segment numbers from here on name a channel copy: column × 68 + channel (log entry 48). -/
def channelCopyBase : Nat := 4096

/-- The keyway copies one page of a segment that moves, or of a channel that is being spared. -/
def copyPage (n i j : Nat) : Act := fun s =>
  if i < channelCopyBase then
    match (s.part n).run.moves.find? (fun m => m.seg == i && decide (j < m.frames.length) &&
        !(match (s.part n).obj with
          | some o => m.clean.contains (segBase o.segs i / pageSize + j)
          | none => true)) with
    | some m => copyMovePage n m.own i j s
    | none => []
  else
    let c := (i - channelCopyBase) / 68
    let ch := (i - channelCopyBase) % 68
    match (s.col c).chCopy.find? (fun e => e.ch == ch), (s.col c).position ch with
    | some _, some pos => if chanPages s ≤ j then [] else Act.all [
        modCol c (fun x => { x with chCopy := x.chCopy.map (fun y => if y.ch == ch then { y with clean := j :: y.clean.erase j } else y) }),
        Act.each (s.parts.filter (fun p => p.2.run.chDirty.contains (c, pos, j))) (fun p => modRun p.1 (fun r => { r with
          chDirty := r.chDirty.filter (· != (c, pos, j)) }))] s
    | _, _ => []

/-- KEYWAY_MOVE_COPY_PAGE (R190, R306). -/
def execKeywayMoveCopyPage (part seg page : Nat) (s : State) : Host.Outcome State Fault Refusal :=
  .next ((copyPage part seg page).run s)

/-! ### Record copies (R277) -/

/-- The transfer that a waiting record describes. -/
def copyXfer (c : RecCopy) : Xfer :=
  { own := c.own, peer := leAt c.desc 0 4, kind := leAt c.desc 4 1, outb := leAt c.desc 5 1 == 1, epoch := leAt c.desc 8 4,
    tag := leAt c.desc 12 2, addr := leAt c.desc 16 8, bytes := leAt c.desc 24 4, arg := leAt c.desc 28 4,
    payload := c.payload }

/-- A transfer that has waited for its record lands (R277). -/
def copyLanded (n : Nat) (c : RecCopy) : Act := Act.all [
  match c.op with
    | some (id, k) => Act.all [gotBytes n id k, atomicReady (deliver n) n id, progress (deliver n) n]
    | none => Act.skip,
  match c.msg with
    | some (cls, m) => Act.all [landMsg (deliver n) n cls m, retryLinks]
    | none => Act.skip]

/-- Transfers that only waited behind an older one land when they are first. -/
def releaseCopies (n : Nat) : Nat → Act
  | 0, _ => []
  | f + 1, s =>
    match (s.part n).recd.waiting with
    | [] => []
    | c :: rest =>
      if c.copy then [] else
      let e := Act.all [
        modPart n (fun p => { p with recd := { p.recd with waiting := rest } }), recXfer n (copyXfer c), copyLanded n c] s
      e ++ releaseCopies n f (applyAll e s)

/-- The record of a transfer in units of 256 bytes: its descriptor, then its payload (R277). -/
def recordUnits (c : RecCopy) : List (List Byte) := slice c.desc 0 256 :: chunks 256 c.payload

/-- HDMA accepts as much of the record of the first transfer that waits as the data ring has room for. With the last of it the
transfer is logged with its data, and its bytes land; the last of one whose bytes find no room in the snapshot buffer waits
(R290). -/
def copyAccepted (n : Nat) : Act := fun s =>
  let r := (s.part n).recd
  match r.waiting with
  | [] => []
  | c :: rest =>
    let left := (recordUnits c).drop c.units
    let put := left.take (r.dataUnits - (r.dataWr - r.dataRd).toNat)
    let pos := if c.units = 0 then r.dataWr else c.pos
    let ended : Bool := decide (left.length ≤ put.length)
    let held : Bool := ended && (match c.msg with
      | some (_, m) => cowFull s n (msgOwn s n m) (msgWrites m).1 (msgWrites m).2
      | none => false)
    if held then [] else if put.isEmpty && !left.isEmpty then [] else Act.all [
      modPart n (fun p => { p with recd := { p.recd with
        waiting := if ended then rest else { c with units := c.units + put.length, pos := pos } :: rest,
        dataWr := p.recd.dataWr + BitVec.ofNat 32 put.length } }),
      pokeUnits r r.dataWr.toNat put.flatten,
      Act.guard ended (Act.all [
        recAppend n ((copyXfer c).entry (c.psc.getD (s.dom n).psc) (some pos)), copyLanded n c,
        fun s => releaseCopies n ((s.part n).recd.waiting.length + 1) s])] s

/-- RECORD_COPY_ACCEPTED (R277). -/
def execRecordCopyAccepted (part : Nat) (s : State) : Host.Outcome State Fault Refusal :=
  .next ((copyAccepted part).run s)

/-! ### Injection (R281) -/

/-- A replay stops for the want of good data: the domain is held with no release. -/
def replayStop (n : Nat) (f : RecReg → RecReg) : Act := Act.all [
  modPart n (fun p => { p with recd := f p.recd }), raiseHold n, irqPart n 4]

/-- The message that a record describes, from its peer's stand-in device (log entry 49). -/
def recordMsg (s : State) (n : Nat) (d payload : List Byte) (k : MsgKind) : Msg :=
  { dstDev := s.hub.devno, srcDev := BitVec.ofNat 16 (leAt d 0 4), dstPart := BitVec.ofNat 5 n,
    srcPart := BitVec.ofNat 5 (n + 1), dstOwn := 0, srcOwn := 0, kind := k,
    epoch := BitVec.ofNat 32 (leAt d 8 4) - (s.part n).run.epochBase, tag := BitVec.ofNat 16 (leAt d 12 2), seq := 0,
    addr := BitVec.ofNat 64 (leAt d 16 8), bytes := BitVec.ofNat 32 (leAt d 24 4), arg := BitVec.ofNat 32 (leAt d 28 4),
    payload := payload }

/-- The operation that a host input of the replayed rank belongs to. -/
def hostInputOp (s : State) (n kind addr : Nat) : Option Op :=
  (s.part n).run.ops.find? (fun o => o.want != 0 &&
    (if kind = 0x11 then opc o.word == 0x7C && sub o.word == 0 && hxDev o.word == addr
     else opc o.word != 0x7C && ((hostSpans s n 0 o).head?.map (·.1)) == some addr))

/-- Spreads bytes over spans. -/
def scatter : List (Nat × Nat) → List Byte → List (Nat × List Byte)
  | [], _ => []
  | x :: xs, bs => (x.1, bs.take (x.2 - x.1)) :: scatter xs (bs.drop (x.2 - x.1))

/-- The bytes of a host input reach the operation that awaits them. -/
def injectHost (n : Nat) (o : Op) (bs : List Byte) : Act := fun s =>
  let p := s.part n
  if landsChunks o then Act.all [
    Act.each (if opc o.word = 0x61 then pfhParts p 0 (chunkDst o) bs else [(chunkDst o, bs)]) (fun x => store n 0 x.1 x.2),
    gotBytes n o.id bs.length] s
  else Act.all [
    modRun n (fun r => { r with
      remoteBuf := (scatter (hostSpans s n 0 o) bs).map (fun e => (o.id, 0, e.1, e.2)) ++ r.remoteBuf }),
    gotBytes n o.id (fetchBytes (opHostParts s n o)), atomicReady (deliver n) n o.id, progress (deliver n) n] s

/-- Payload bytes of a recorded transfer. -/
def recordedLen (kind bytes : Nat) : Nat := match kindOfCode kind with
  | some k => payloadLen k bytes
  | none => bytes

/-- The next inbound entry of the log is verified and injected; one whose message would still be held back, or whose
operation has not issued, waits. Entries of other kinds and of other hosted ranks are passed over. -/
def inject (n : Nat) : Act := fun s =>
  let p := s.part n
  let r := p.recd
  if !r.replay || p.load.state != .running || r.logRd == r.logWr then [] else
  let e := fetchAt s (r.logAddr r.logRd) 32
  let kind := leAt e 20 1
  let flags := leAt e 21 1
  let next (dataEnd : Option Nat) : Act := modPart n (fun p => { p with recd := { p.recd with
    logRd := p.recd.logRd + 1,
    dataRd := match dataEnd with
      | some x => BitVec.ofNat 32 x
      | none => p.recd.dataRd } })
  if flags % 2 = 1 || kind == 0x10 || kind == 0x20 || !ownEntry e then next none s
  else if flags / 2 % 2 = 0 then Act.all [next none, replayStop n (fun r => { r with nodata := true })] s
  else
    let pos := leAt e 28 4
    let d := fetchAt s (r.dataAddr pos) 32
    let k := recordedLen kind (leAt d 24 4)
    let bs := ((List.range (ceilDiv k 256)).flatMap (fun i => fetchAt s (r.dataAddr (pos + 1 + i)) 256)).take k
    let done := next (some (pos + 1 + ceilDiv k 256))
    if (crc64 (d ++ bs)).toNat != leAt e 8 8 then
      Act.all [done, replayStop n (fun r => { r with corrupt := true })] s
    else match kindOfCode kind with
      | some mk =>
        let m := recordMsg s n d bs mk
        (match judge s n m with
        | .deliver | .early => Act.all [done, accept n 2 m] s
        | .stale => Act.all [done, staleMsg ⟨0, 0⟩ n m] s
        | _ => [])
      | none =>
        match hostInputOp s n kind (leAt d 16 8) with
        | some o => Act.all [done, injectHost n o bs] s
        | none => []

/-- REPLAY_INJECT (R281). -/
def execReplayInject (part : Nat) (s : State) : Host.Outcome State Fault Refusal := .next ((inject part).run s)

end Sys2Proof.Machine
end

