-- ==== Sys2Proof/Machine/Save.lean ====
section
/-!
DEFINITION. Context save and restore (R170), rewind (R312 to R314), arming and restoring snapshots (R286, R299, R300,
R302), and the post-mortem dump (R171, R172).
-/
namespace Sys2Proof.Machine

/-! ### SAVE and RESTORE (R170) -/

def ctxResult (n r : Nat) : Act := modPart n (fun p => { p with ctx := { p.ctx with result := BitVec.ofNat 8 r } })

/-- A SAVE is accepted in DONE and FAULTED, or while the domain is held and the running partition is idle. -/
def canSave (s : State) (n : Nat) : Bool :=
  let p := s.part n
  p.load.state == .done || p.load.state == .faulted ||
    (p.load.state == .running && (s.dom n).active && (s.dom n).held && idlePart s n)

/-- A context command begins, or is refused. -/
def ctxStart (n : Nat) (restoring ok : Bool) : Act := fun s =>
  let p := s.part n
  if ok && !p.ctx.busy && !loadBusy p && !inWindow s then
    modPart n (fun p => { p with ctx := { p.ctx with busy := true, restoring := restoring } }) s
  else Act.all [ctxResult n rcState, irqPart n 2] s

/-- SAVE (R170). -/
def execSave (fn : Fn) (part : Nat) (s : State) : Host.Outcome State Fault Refusal :=
  .next ((partCmd fn part (fun s => ctxStart part false (canSave s part) s)).run s)

/-- RESTORE (R170): in LOADED, before START. -/
def execRestore (fn : Fn) (part : Nat) (s : State) : Host.Outcome State Fault Refusal :=
  .next ((partCmd fn part (fun s => ctxStart part true ((s.part part).load.state == .loaded) s)).run s)

def ctxEnd (n r len : Nat) : Act := Act.all [
  modPart n (fun p => { p with ctx := { p.ctx with
    busy := false, result := BitVec.ofNat 8 r, len := BitVec.ofNat 32 len } }), irqPart n 2]

/-- A context command ends: the image is written, or read and applied. One whose partition has meanwhile left the states
in which it is accepted ends with STATE_ERR. -/
def ctxDone (n : Nat) : Act := fun s =>
  let p := s.part n
  let a := p.ctx.addr.toNat
  let len := p.ctx.len.toNat
  if !p.ctx.busy then []
  else if p.ctx.restoring then
    (if p.load.state != .loaded then ctxEnd n rcState len s else
     let bs := fetchAt s a (contextLen (fetchAt s a 64) p.bind.quarters.length)
     match applyContext s n bs with
     | none => Act.all [accessed [(a, bs.length)], ctxEnd n rcFormat bs.length] s
     | some act => Act.all [accessed [(a, bs.length)], act, ctxEnd n rcOk bs.length] s)
  else if !canSave s n then ctxEnd n rcState len s
  else
    let img := contextImage s n none
    Act.all [storeAt a img, ctxEnd n rcOk img.length] s

/-- CTX_DONE (R170). -/
def execCtxDone (part : Nat) (s : State) : Host.Outcome State Fault Refusal :=
  .next ((Act.when (fun s => !s.hub.stopped && decide (part < 32)) (ctxDone part)).run s)

/-! ### REWIND (R312) -/

def rwdResult (n r : Nat) : Act := modPart n (fun p => { p with ctx := { p.ctx with rwdResult := BitVec.ofNat 8 r } })

/-- States in which REWIND is accepted. -/
def canRewind (s : State) (n : Nat) : Bool :=
  let p := s.part n
  !(s.dom n).active && (p.load.state == .loaded || p.load.state == .running || p.load.state == .done)

/-- REWIND is accepted: the streams stop, and the device has up to 50 ms. -/
def rewindStart (n : Nat) : Act := fun s =>
  let p := s.part n
  if p.ctx.rwdBusy || loadBusy p || inWindow s || !canRewind s n then rwdResult n rcState s
  else Act.all [stopStreams n, modPart n (fun p => { p with ctx := { p.ctx with rwdBusy := true } })] s

/-- REWIND (R312). -/
def execRewind (fn : Fn) (part : Nat) (s : State) : Host.Outcome State Fault Refusal :=
  .next ((partCmd fn part (rewindStart part)).run s)

/-- Logical cell of a binding key. -/
def keyCell (key : Nat) : Nat := key % 4
def keyQuarter (o : Obj) (key : Nat) : Nat := key / 4 % o.quarters

/-- Puts a spare in the place of the fenced cell of one logical cell (R313), or lets its pair serve it (R314). -/
def substitute (n key : Nat) : Try := fun s =>
  let p := s.part n
  match p.obj, p.bind.cells.find? (fun e => e.1 == key) with
  | some o, some (_, k) =>
    if !fencedCell s (k / 18) (k % 18) then some [] else
    let c := k / 18
    match pickSpare s c ([16, 17].filter (spareFree s c)) with
    | some sp =>
      some ((Act.all [
        modPart n (fun p => { p with
          bind := { p.bind with cells := p.bind.cells.map (fun e => if e.1 == key then (key, c * 18 + sp) else e) },
          ctx := { p.ctx with substCells := p.ctx.substCells + 1 } }),
        freeCell k, bindCell n (keyQuarter o key) (keyCell key) (c * 18 + sp)]) s)
    | none =>
      let q := (p.bind.quarters[key / 4]?).getD 0
      match p.bind.cells.find? (fun e => e.1 == key - key % 4 + (key % 4 ^^^ 1)) with
      | none => none
      | some (_, k2) =>
        if fencedCell s (k2 / 18) (k2 % 18) then none else
        let fs := takeFree (usedFrames s ++ bufferFrames s c) 10 [(quarterFrame0 s q, quarterFrames s)]
        if fs.length != 10 then none else
        some ((Act.all [
          modPart n (fun p => { p with
            bind := { p.bind with muxed := p.bind.muxed ++ [key] },
            run := { p.run with swapReserved := p.run.swapReserved ++ fs },
            ctx := { p.ctx with substMux := p.ctx.substMux + 1 } })]) s)
  | _, _ => some []

/-- Substitutes for every fenced cell of the partition; cells that shared one are judged again. -/
def substituteAll (n : Nat) : Try := fun s =>
  let p := s.part n
  Try.all [
    Try.of (modPart n (fun p => { p with
      bind := { p.bind with muxed := [] }, run := { p.run with swapReserved := p.run.swapReserved.take (ringFrames s p) },
      ctx := { p.ctx with substMux := 0, substCells := 0 } })),
    Try.each (p.bind.cells.map (·.1)) (substitute n)] s

/-- Every queue holds its stream's patched image again (R312). -/
def refill (n : Nat) : Act := fun s => Act.each (s.part n).run.streams (fun t => fun s => Act.all [
  poke (s.queue t.queue).base.toNat (t.image.flatMap (fun w => leBytes 16 w.toNat)),
  modQueue t.queue (fun q => { q with
    head := 0, tail := BitVec.ofNat 32 t.image.length, res := true, dberr := false, wait := 0, wpsc := 0 })] s) s

/-- Pages that a draining snapshot still marks are copied before they are cleared: the clearing is a first write
(R290). -/
def saveMarked (n : Nat) : Act := fun s => Act.each (s.part n).snap.marked (fun m => cowCopy n m.1 m.2) s

/-- Segments hold zeros again; sealed pages keep their contents (R312, R338). -/
def clearPages (n : Nat) : Act := fun s =>
  Act.each ((s.part n).run.pages.filter (fun e => !e.2.sealed && (e.2.home == .loc || e.2.home == .neigh))) (fun e =>
    zeroFrame n e.2.frame) s

/-- Everything but the object, the tables, the bindings and the sealed path returns to what LOAD leaves. Stores and
registers are cleared with it, since the bits of a rerun are those of the run (R268; DEDUCED, log entry 58). -/
def reload (n : Nat) : Act := fun s =>
  let p := s.part n
  Act.all [
    completeOps n, saveMarked n, channelsToHall n, clearPages n, clearUnits n, clearHosted n,
    Act.each p.bind.latches (fun e => setLatch e.2 0),
    Act.each p.bind.hasps (fun e => modHasp e.2 (fun x => { owner := some n, ward := x.ward })),
    modDom n (fun d => { d with stalls := [] }),
    modPcie (fun x => { x with chunks := x.chunks.filter (fun c => c.requester != n) }), takeChunks,
    Act.each s.cells (fun e => match e.2.shadowOf with
      | some r => Act.guard (r.part == n) (modCell e.1 (fun x => { x with role := .unbound, shadowOf := none }))
      | none => Act.skip),
    modPart n (fun p => { p with
      recd := { p.recd with waiting := [], outSeen := [], win := false, ending := false }, snap := { p.snap with restored := [], tainted := false },
      run := {
        streams := p.run.streams.map (fun t => { sid := t.sid, rank := t.rank, queue := t.queue, image := t.image }),
        pages := p.run.pages,
        swapReserved := p.run.swapReserved } }),
    refill n, clearRemote n, retryLinks] s

/-- REWIND ends (R312). -/
def rewindEnd (n : Nat) : Act := fun s =>
  let p := s.part n
  let done (r : Nat) : Act := Act.all [
    modPart n (fun p => { p with ctx := { p.ctx with rwdBusy := false, rwdResult := BitVec.ofNat 8 r } }), irqPart n 2]
  if !p.ctx.rwdBusy then []
  else if !canRewind s n then done rcState s
  else match substituteAll n s with
    | none => done rcPlace s
    | some e => e ++ Act.all [reload n, checkRepl, loadState n .loaded p.load.result.toNat, done rcOk] (applyAll e s)

/-- REWIND_DONE (R312). -/
def execRewindDone (part : Nat) (s : State) : Host.Outcome State Fault Refusal :=
  .next ((Act.when (fun s => !s.hub.stopped && decide (part < 32)) (rewindEnd part)).run s)

/-! ### Snapshots (R286, R302) -/

/-- Setting ARM (R302): in IDLE, DONE and ABORTED the state becomes ARMED. -/
def snapArm (n : Nat) : Act := modPart n (fun p =>
  let x := { p.snap with arm := true }
  { p with snap := if x.state == .idle || x.state == .done || x.state == .aborted then
      { x with state := .armed, bufmax := 0 } else x })

/-- SNAPSHOT_ARM (R302). -/
def execSnapshotArm (fn : Fn) (part : Nat) (s : State) : Host.Outcome State Fault Refusal :=
  .next ((partCmd fn part (snapArm part)).run s)

/-! ### Restoring a rank (R299, R300) -/

/-- The identifier that a restore's read requests carry in place of an operation. -/
def restoreOp : Nat := 2 ^ 40 + 1

/-- The manifest comes from another device (R302). -/
def SnapReg.fromPeer (x : SnapReg) : Bool := bit x.rsrc 31
def SnapReg.srcDev (x : SnapReg) : Nat := fld x.rsrc 0 16

/-- The image lies on another device. -/
def imageFar (s : State) (n : Nat) : Bool := (s.part n).snap.fromPeer && (s.part n).snap.srcDev != s.hub.devno.toNat

/-- Bytes of the image that the restore reads. Those of another device are the ones its replies have brought. -/
def imageRead (s : State) (n off k : Nat) : List Byte :=
  let p := s.part n
  if imageFar s n then
    (List.range k).map (fun i => match p.run.remoteBuf.find? (fun e => e.1 == restoreOp && decide (e.2.2.1 ≤ off + i) &&
        decide (off + i < e.2.2.1 + e.2.2.2.length)) with
      | some e => (e.2.2.2[off + i - e.2.2.1]?).getD 0
      | none => 0)
  else fetchAt s (p.snap.raddr.toNat + off) k

/-- The way to a device: that of the lowest rank placed there, else a direct link (R424). -/
def wayToDevice (s : State) (obj : Option Obj) (dev : Nat) : Option Way :=
  match obj.bind (fun o => (o.map.findIdx? (fun e => e.1 == dev)).map (fun r => (o, r))) with
  | some (o, r) => wayTo s o r
  | none => (directLink s dev).map (fun l => { link := l, route := 0 })

/-- Requests a range of the image from another device, in class 3 reads of its local addresses (R302). -/
def requestImage (n off len : Nat) : Act := fun s =>
  let p := s.part n
  match wayToDevice s p.obj p.snap.srcDev with
  | none => []
  | some way => Act.each (msgParts 3 len) (fun k => fun s =>
      let r := (s.part n).run
      Act.all [
        modRun n (fun r => { r with
          reqs := r.reqs ++ [{ ident := r.nextReq, sid := hardware n, op := restoreOp, own := 255, addr := off + k.1 }],
          nextReq := r.nextReq + 1 }),
        postLink n none way 3 0 {
          dstDev := BitVec.ofNat 16 p.snap.srcDev, srcDev := s.hub.devno, dstPart := BitVec.ofNat 5 n,
          srcPart := BitVec.ofNat 5 n, dstOwn := 0, srcOwn := 0, kind := .readReq, epoch := r.bindingEpoch, tag := 0,
          seq := 0, addr := p.snap.raddr + BitVec.ofNat 64 (off + k.1), bytes := 0,
          arg := BitVec.ofNat 32 (r.nextReq.toNat * 65536 + k.2), payload := [] }] s) s

/-- Bytes of a manifest of `k` shards, signature included (R296). -/
def manifestLen (k : Nat) : Nat := 0x140 + 56 * k + 96

/-- The shards that a restore expects: the CKPT segments of the loaded object, none without one. -/
def shardsOf (p : Part) : List (Nat × Seg) := (p.obj.map ckptSegs).getD []

/-- RCMD RESTORE is taken: a restore begins, and the manifest of another device is requested. The state of the partition is the last
of the checks (R300). While a restore runs, another is refused (DESIGN CHOICE, log entry 116). -/
def restoreStart (n : Nat) : Act := fun s =>
  let p := s.part n
  if p.snap.rbusy then modPart n (fun p => { p with snap := { p.snap with rresult := 0x0F } }) s
  else Act.all [
    modPart n (fun p => { p with snap := { p.snap with rbusy := true } }),
    Act.guard (imageFar s n) (requestImage n 0 (manifestLen (shardsOf p).length))] s

/-- SNAPSHOT_RESTORE (R299, R302). -/
def execSnapshotRestore (fn : Fn) (part : Nat) (s : State) : Host.Outcome State Fault Refusal :=
  .next ((partCmd fn part (restoreStart part)).run s)

/-- Entry `i` of a manifest. -/
def shardEnt (m : List Byte) (i : Nat) : List Byte := slice m (0x140 + 56 * i) 56

/-- RESULT of the checks of R300 that need the manifest alone. Without a loaded object no core digest is equal. -/
def manifestCheck (obj : Option Obj) (own : Nat) (m : List Byte) : Nat :=
  if m.take 4 != [0x4D, 0x4E, 0x46, 0x54] || leAt m 4 2 != 1 || !zeroAt m 0x130 16 then 1
  else if leAt m 6 1 != numLevel then 2
  else match obj with
  | none => 3
  | some o =>
  let segs := ckptSegs o
  if slice m 0x50 32 != beBytes 32 o.core.toNat then 3
  else if leAt m 0x10 4 != o.ranks || o.own[own]? != some (leAt m 0xC 4) then 4
  else if leAt m 0x14 4 != segs.length || !segs.zipIdx.all (fun e =>
      let x := shardEnt m e.2
      leAt x 0 2 == e.1.1 && leAt x 4 4 == e.1.2.symbol && leAt x 16 8 == e.1.2.size) then 5
  else 0

/-- SHA-256 of the page digests of a shard (R294). -/
def shardHash (bs : List Byte) : List Byte := sha256 ((chunks pageSize bs).flatMap sha256)

/-- Copies the shards and applies the context, whatever the digests say of them (R299, R300). -/
def copyImage (n own : Nat) (o : Obj) (m : List Byte) : Act := fun s =>
  Act.each (ckptSegs o).zipIdx (fun e =>
    store n own (segBase o.segs e.1.1) (imageRead s n (leAt (shardEnt m e.2) 8 8) e.1.2.size)) s

/-- Every shard and the context have their digests. -/
def digestsOk (s : State) (n : Nat) (o : Obj) (m : List Byte) : Bool :=
  ((ckptSegs o).zipIdx.all (fun e =>
    shardHash (imageRead s n (leAt (shardEnt m e.2) 8 8) e.1.2.size) == slice (shardEnt m e.2) 24 32)) &&
  sha256 (imageRead s n (leAt m 0x80 8) (leAt m 0x88 8)) == slice m 0x90 32

def restoreResult (n r : Nat) : Act := Act.all [
  modPart n (fun p => { p with
    snap := { p.snap with rbusy := false, rresult := BitVec.ofNat 8 r },
    load := if r = 0 then p.load else { p.load with state := .failed },
    run := { p.run with remoteBuf := p.run.remoteBuf.filter (fun e => e.1 != restoreOp),
                        reqs := p.run.reqs.filter (fun e => e.op != restoreOp) } }), irqPart n 2]

/-- The shards are copied and their digests checked, and the context is applied (R299); in a partition that is not LOADED, or for a
rank that is restored already, nothing is (R300). -/
def restoreImage (n own : Nat) (o : Obj) (m : List Byte) : Act := fun s =>
  let p := s.part n
  let ctx := imageRead s n (leAt m 0x80 8) (leAt m 0x88 8)
  let good := digestsOk s n o m
  let fit := p.load.state == .loaded && !p.snap.restored.contains own
  Act.all [
    Act.guard fit (copyImage n own o m),
    hashed ((ckptSegs o).map (·.2.size)).sum, hashed ctx.length,
    Act.guard (good && fit) (Act.all [
      fun s => applySnapContext s n own ctx s,
      modPart n (fun p => { p with
        run := { p.run with bindingEpoch := 0, epochBase := BitVec.ofNat 32 (leAt m 0x1C 4) },
        snap := { p.snap with restored := p.snap.restored ++ [own] } })]),
    restoreResult n (if !good then 6 else if fit then 0 else 0x0F)] s

/-- A restore goes on or ends (R299, R300): an image of another device is fetched in two parts, the manifest first; one
whose requests are still unanswered waits. -/
def restoreEnd (n : Nat) : Act := fun s =>
  let p := s.part n
  let own := p.snap.rown.toNat
  if !p.snap.rbusy || p.run.reqs.any (fun e => e.op == restoreOp) then [] else
  let m := imageRead s n 0 (manifestLen (shardsOf p).length)
  let rc := manifestCheck p.obj own m
  let half := imageFar s n && !p.run.remoteBuf.any (fun e => e.1 == restoreOp && decide (0x40000 ≤ e.2.2.1))
  let reads (o : Obj) : List (Nat × Nat) := if imageFar s n then [] else [(p.snap.raddr.toNat, imageSize o)]
  if rc != 0 then restoreResult n rc s
  else if half then Act.all [
    Act.each (shardsOf p).zipIdx (fun e => requestImage n (leAt (shardEnt m e.2) 8 8) e.1.2.size),
    requestImage n (leAt m 0x80 8) (leAt m 0x88 8)] s
  else match p.obj with
    | some o => Act.all [accessed (reads o), restoreImage n own o m] s
    | none => []

/-- SNAPSHOT_RESTORE_DONE (R299, R300). -/
def execSnapshotRestoreDone (part : Nat) (s : State) : Host.Outcome State Fault Refusal :=
  .next ((Act.when (fun s => !s.hub.stopped && decide (part < 32)) (restoreEnd part)).run s)

/-! ### The dump (R171, R172) -/

/-- GO of `SEC_DUMP`: ignored while BUSY. -/
def dumpStart : Act := modSec (fun x => { x with dumpBusy := true })

/-- DUMP (R171). -/
def execDump (fn : Fn) (s : State) : Host.Outcome State Fault Refusal :=
  .next ((Act.when (fun s => serving s && isPf fn && fnThere s fn) dumpStart).run s)

/-- The image of a dump: the synchronisation objects of every partition that holds an object. Of the record types only
those of R172 appear. -/
def dumpImage (s : State) : List Byte :=
  let ns := allParts.filter (fun n => (s.part n).obj.isSome)
  recImage s ((ns.map (2 ^ ·)).sum) ((ns.flatMap (dumpRecs s)).filter (fun r => decide (leAt r 0 1 < 0x80)))

/-- The dump has been written (R171). -/
def dumpDone : Act := fun s =>
  if !s.sec.dumpBusy || s.hub.stopped then [] else
  let img := dumpImage s
  Act.all [storeAt s.sec.dumpAddr.toNat img,
    modSec (fun x => { x with dumpBusy := false, dumpLen := BitVec.ofNat 32 img.length }), irq 0 3] s

/-- DUMP_DONE (R171). -/
def execDumpDone (s : State) : Host.Outcome State Fault Refusal := .next (dumpDone.run s)

end Sys2Proof.Machine
end

