-- ==== Sys2Proof/Machine/Sealed.lean ====
section
/-!
DEFINITION. SEC: receipts (R284, R285), the sealed path (R337 to R340), the escutcheon (R341 to R343), weight keys (R344 to
R347), firmware updates (R348) and unit resets (R349).
-/
namespace Sys2Proof.Machine

/-- Function index of an access: 0 the physical function, k + 1 the virtual function of partition k. -/
def fnIdx : Fn → Nat
  | .vf k => k + 1
  | _ => 0

/-! ### Receipts (R284, R285) -/

/-- ISSUE is accepted in DONE, or while the domain is held and the partition is idle. -/
def canReceipt (s : State) (n : Nat) : Bool := (s.part n).load.state != .faulted && canSave s n

/-- The ranges of a request block. -/
def rcptRanges (b : List Byte) (k : Nat) : List (Nat × Nat) :=
  (List.range k).map (fun i => (leAt b (0x40 + 16 * i) 8, leAt b (0x48 + 16 * i) 8))

/-- RESULT of a request from function `fn`, the activation window aside. -/
def rcptCheck (s : State) (fn : Nat) (b : List Byte) : Nat :=
  let n := leAt b 0 1
  let own := leAt b 1 1
  let k := leAt b 2 1
  let p := s.part n
  if 32 ≤ n || k == 0 || decide (16 < k) || decide (7 < own) || !zeroAt b 3 29 ||
      !(rcptRanges b k).all (fun r => r.2 != 0 && r.2 % 16 == 0) then 1
  else if fn != 0 && fn != n + 1 then 3
  else if !canReceipt s n then 0x0F
  else if ((p.obj.map (·.own.length)).getD 0) ≤ own then 1
  else if (firstOut p own plainEngine (rcptRanges b k)).isSome ||
      homeUnreached s n ((rcptRanges b k).map (fun r => memRng own r.1 r.2)) then 3
  else 0

/-- A byte of a receipt's ranges: SEC reads memory itself, and a REMOTE home by the reads that the receipt has sent (R189, R285). -/
def rcptByte (s : State) (n own a : Nat) : Byte := match (s.part n).reach own a with
  | .loc x => peek s x
  | .remote _ _ => ((s.part n).run.fetchedAt (own + receiptMark) a).getD 0
  | .out => 0

/-- Bytes 0x00 to 0x8F of a receipt. -/
def rcptBody (s : State) (b : List Byte) : List Byte :=
  let n := leAt b 0 1
  let own := leAt b 1 1
  let p := s.part n
  let step := match p.quarter own 0 with
    | some q => (s.gen q).step.toNat
    | none => 0
  [0x52, 0x43, 0x50, 0x54] ++ leBytes 2 1 ++ leBytes 1 numLevel ++ leBytes 1 n ++
    leBytes 4 (b2n s.hub.debugMode + 2 * b2n p.recd.replay + 4 * b2n p.recd.win) ++ leBytes 4 step ++
    leBytes 4 ((p.obj.bind (fun o => o.own[own]?)).getD 0) ++ leBytes 4 0 ++ leBytes 8 s.tim.hall.toNat ++ slice b 0x20 32 ++
    beBytes 32 ((p.obj.map (·.digest.toNat)).getD 0) ++
    sha256 ((rcptRanges b (leAt b 2 1)).flatMap (fun r => (List.range r.2).map (fun i => rcptByte s n own (r.1 + i)))) ++ leBytes 16 s.fuses.identity.toNat

/-- Reads of the REMOTE homes in a request's ranges (R189). In replay none leave the device (R282). -/
def rcptReads (b : List Byte) : Act := fun s =>
  let n := leAt b 0 1
  let own := leAt b 1 1
  Act.each (remoteParts (s.part n) own plainEngine (rcptRanges b (leAt b 2 1))) (fun f =>
    Act.each (msgParts 2 f.len) (request (deliver n) n {
      op := receiptOp, sid := hardware n, qpos := 1, word := 0, own := own, rank := f.peer, kind := .readReq, cls := 2, tag := 0,
      far := f.far, near := f.addr, len := f.len, arg := 0, bytes := [], ready := true })) s

/-- ISSUE is taken: one receipt at a time. Whether it is accepted is decided now, by the request block and the state in which the
partition is (R284); in an activation window it is not (R348). -/
def issueReceipt (fn : Fn) : Act := fun s =>
  if !serving s || !fnThere s fn || s.sec.rcptBusy then [] else
  let a := s.sec.rcptReq.toNat
  let b := fetchAt s a (0x40 + 256)
  let rc := if inWindow s then 0x0F else rcptCheck s (fnIdx fn) b
  Act.all [
    accessed [(a, 0x40 + 16 * min 16 (leAt b 2 1))],
    modSec (fun x => { x with
      rcptBusy := true, rcptFn := if fnIdx fn = 0 then none else some (fnIdx fn), rcptBlock := b, rcptCode := BitVec.ofNat 8 rc }),
    Act.guard (rc == 0 && !(s.part (leAt b 0 1)).recd.replay) (rcptReads b)] s

/-- ISSUE (R284). -/
def execIssue (fn : Fn) (s : State) : Host.Outcome State Fault Refusal := .next ((issueReceipt fn).run s)

/-- The interrupt of a SEC command of function index `fn` (R388). -/
def secIrq (fn : Option Nat) : Act := match fn with
  | none => irq 0 3
  | some k => irqPart (k - 1) 3

/-- Bytes that SEC's hash engine takes for the ranges of a request. -/
def rcptBytes (b : List Byte) : Nat := ((rcptRanges b (leAt b 2 1)).map (·.2)).sum

/-- A receipt ends, once the bytes it asked other devices for have arrived. One whose partition has meanwhile left the state in
which it is accepted ends with what the checks then say (DESIGN CHOICE, log entry 123). -/
def receiptDone : Act := fun s =>
  let b := s.sec.rcptBlock
  let n := leAt b 0 1
  if !s.sec.rcptBusy || (s.part n).run.reqs.any (fun q => q.op == receiptOp) then [] else
  let rc := if s.sec.rcptCode != 0 then s.sec.rcptCode.toNat else rcptCheck s (s.sec.rcptFn.getD 0) b
  Act.all [
    Act.guard (rc == 0) (Act.all [
      withFree (fun i => storeAt s.sec.rcptOut.toNat (signed i (rcptBody s b))), hashed (rcptBytes b)]),
    Act.guard (decide (n < 32)) (modRun n (fun r => { r with remoteBuf := r.remoteBuf.filter (fun e => e.1 != receiptOp) })),
    modSec (fun x => { x with rcptBusy := false, rcptResult := BitVec.ofNat 8 rc }), secIrq s.sec.rcptFn] s

/-! ### The escutcheon (R342) -/

/-- `HUB_CONFIG` (R3). -/
def hubConfigWord (f : Fuses) : BitVec 32 :=
  pack 32 [(24, f.linkPresent.toNat), (20, f.stackH.toNat), (0, 0xFFFFF)]

/-- STATE of `HUB_LOAD[n].STATUS` (R98). -/
def loadCode : LoadState → Nat
  | .empty => 0 | .loading => 1 | .loaded => 2 | .running => 3 | .done => 4 | .faulted => 5 | .failed => 6

/-- Link dies that are unmeasured (R349). -/
def badDies (s : State) : Nat := ((List.range 4).map (fun d => if (s.die d).unmeasured then 2 ^ d else 0)).sum

/-- Bytes of a weight entry. -/
def WeightEntry.bytes (w : WeightEntry) : List Byte :=
  [w.slot, w.result] ++ List.replicate 6 0 ++ leBytes 8 w.len.toNat ++ beBytes 32 w.cipher.toNat ++ beBytes 32 w.plain.toNat

/-- The partition's section of a report, bytes 0x100 on. -/
def reportPart (s : State) (n : Nat) : List Byte :=
  let p := s.part n
  leBytes 16 p.cfg.qmask.toNat ++ leBytes 16 (p.cfg.qmask &&& s.sec.unmeasured).toNat ++
    beBytes 32 ((p.obj.map (·.digest.toNat)).getD 0) ++
    (match p.key.ecdh with
      | some d => p384Public d
      | none => List.replicate 97 0) ++ List.replicate 7 0 ++ leBytes 1 (loadCode p.load.state) ++
    leBytes 1 (((List.range 4).map (fun i => if Tab.get [] p.key.slots i = [] then 0 else 2 ^ i)).sum) ++
    leBytes 1 p.key.weights.length ++ List.replicate 5 0 ++ p.key.weights.flatMap WeightEntry.bytes

/-- The signed part of a report. -/
def reportBody (s : State) (b : List Byte) : List Byte :=
  let n := leAt b 0x20 1
  let bad : Bool := s.sec.unmeasured != 0 || badDies s != 0
  [0x45, 0x53, 0x43, 0x54] ++ leBytes 2 1 ++ leBytes 1 numLevel ++ leBytes 1 n ++
    leBytes 4 (b2n s.sec.transition + 2 * b2n (s.sec.fwState == .staged || s.sec.fwState == .window) + 4 * b2n bad +
      8 * b2n s.hub.debugMode + 16 * b2n s.fuses.debugOff + 32 * b2n (replaceBit s)) ++
    leBytes 4 s.sec.mepoch.toNat ++ leBytes 8 s.tim.hall.toNat ++ leBytes 16 s.fuses.identity.toNat ++
    leBytes 4 (hubIdWord s.fuses).toNat ++ leBytes 4 (hubConfigWord s.fuses).toNat ++
    beBytes 32 Config.bootRomDigest.toNat ++ beBytes 32 s.sec.hubDigest.toNat ++ beBytes 32 s.sec.linkDigest.toNat ++
    beBytes 32 s.sec.pendHub.toNat ++ beBytes 32 s.sec.pendLink.toNat ++
    leBytes 8 (b2n s.fuses.debugOff + 256 * s.fuses.svn.toNat) ++ leBytes 4 (badDies s) ++ leBytes 4 0 ++ slice b 0 32 ++
    (if n = 0xFF then List.replicate 0xB0 0 else reportPart s n)

/-- RESULT of a report request. -/
def reportCheck (fn : Nat) (b : List Byte) : Nat :=
  let n := leAt b 0x20 1
  if !zeroAt b 0x21 31 || (decide (32 ≤ n) && n != 0xFF) then 1
  else if fn != 0 && fn != n + 1 then 3
  else 0

/-- REPORT is taken. -/
def startReport (fn : Fn) : Act := fun s =>
  if !serving s || !fnThere s fn || s.sec.attBusy then [] else
  modSec (fun x => { x with attBusy := true, attFn := if fnIdx fn = 0 then none else some (fnIdx fn) }) s

/-- REPORT (R342). -/
def execReport (fn : Fn) (s : State) : Host.Outcome State Fault Refusal := .next ((startReport fn).run s)

/-- A report ends. -/
def reportDone : Act := fun s =>
  if !s.sec.attBusy then [] else
  let b := fetchAt s s.sec.attReq.toNat 64
  let rc := reportCheck (s.sec.attFn.getD 0) b
  Act.all [
    accessed [(s.sec.attReq.toNat, 64)],
    Act.guard (rc == 0) (withFree (fun i => storeAt s.sec.attOut.toNat (signed i (reportBody s b)))),
    modSec (fun x => { x with attBusy := false, attResult := BitVec.ofNat 8 rc }), secIrq s.sec.attFn] s

/-! ### Weight keys (R344 to R347) -/

/-- Erases the key slots of a partition; a message that runs ends with NOKEY (R347). -/
def eraseSlots (n : Nat) : Act := modPart n (fun p => { p with
  key := { p.key with slots := [], msg := p.key.msg.map (fun m => { m with result := 2 }) } })

/-- The key that a blob wraps, if its tag is right (R345). -/
def unwrap (d : Nat) (b : List Byte) : Option (List Byte) :=
  match p384Ecdh d (slice b 0x50 97) with
  | none => none
  | some x =>
    let k := hkdf384 x (slice b 0x30 32) (b.take 0x50) 44
    let key := k.take 32
    let iv := k.drop 32
    let ct := slice b 0xB8 32
    if gcmTag key iv (b.take 0xB8) ct == slice b 0xD8 16 then some (gcmCrypt key iv 0 ct) else none

/-- RESULT of the checks of R346, and the key when all pass. -/
def keyCheck (s : State) (n : Nat) (b : List Byte) : Nat × Option (List Byte) :=
  let p := s.part n
  match p.obj with
  | none => (0x0F, none)
  | some o =>
    if !(p.load.state == .loaded || p.load.state == .running) then (0x0F, none)
    else if b.take 4 != [0x4B, 0x57, 0x52, 0x50] || leAt b 5 1 != n || decide (3 < leAt b 4 1) || !zeroAt b 6 2 ||
        !zeroAt b 0xC 4 || !zeroAt b 0xB1 7 then (1, none)
    else if s.hub.debugMode then (6, none)
    else if inWindow s || p.key.keyWindow then (7, none)
    else if p.cfg.qmask &&& s.sec.unmeasured != 0 || o.dies.any (fun d => (s.die d).unmeasured) then (8, none)
    else if leAt b 8 4 != s.sec.mepoch.toNat then (9, none)
    else if slice b 0x10 32 != beBytes 32 o.digest.toNat then (0xA, none)
    else match p.key.ecdh.bind (fun d => unwrap d b) with
      | none => (4, none)
      | some k => (0, some k)

/-- INSTALL is taken. One that comes in an activation window is refused when its turn comes among the checks (R346, R348). -/
def startInstall (n : Nat) : Act := fun s =>
  if (s.part n).key.keyBusy then [] else
  modPart n (fun p => { p with key := { p.key with keyBusy := true, keyWindow := inWindow s } }) s

/-- INSTALL (R346). -/
def execInstall (fn : Fn) (part : Nat) (s : State) : Host.Outcome State Fault Refusal :=
  .next ((partCmd fn part (startInstall part)).run s)

/-- An INSTALL ends: the key enters its slot only if every check passes. -/
def installDone (n : Nat) : Act := fun s =>
  let p := s.part n
  if !p.key.keyBusy then [] else
  let b := fetchAt s p.key.keyAddr.toNat 232
  let r := keyCheck s n b
  Act.all [
    accessed [(p.key.keyAddr.toNat, 232)],
    modPart n (fun p => { p with key := { p.key with keyBusy := false, keyResult := BitVec.ofNat 8 r.1 } }),
    (match r.2 with
      | some k => modPart n (fun p => { p with key := { p.key with
          slots := Tab.set [] p.key.slots (leAt b 4 1) k,
          slotWard := Tab.set 0 p.key.slotWard (leAt b 4 1) (BitVec.ofNat 16 (p.tag n)) } })
      | none => Act.skip),
    Act.guard r.2.isSome (count (ctrHub 0x16) (units256 32)), irqPart n 3] s

/-- SEC_COMMAND_DONE (R284, R342, R346). -/
def execSecCommandDone (unit : SecUnit) (s : State) : Host.Outcome State Fault Refusal :=
  .next ((Act.when (fun s => !s.hub.stopped) (match unit with
    | .receipt => receiptDone
    | .report => reportDone
    | .key n => Act.guard (decide (n < 32)) (installDone n))).run s)

/-! ### Decryption messages (R337 to R340) -/

/-- A message of a partition that still has segments for the engine. -/
def decReady (s : State) (n : Nat) : Bool := match (s.part n).key.msg with
  | some m => decide (m.pos < m.len) && m.result == 0
  | none => false

/-- The next ready lane after the one served last (R340). -/
def nextLane (s : State) (last : Nat) : Option Nat :=
  ((List.range 32).map (fun i => (last + 1 + i) % 32)).find? (decReady s)

/-- The engine takes a lane if it is idle. -/
def takeLane : Act := fun s =>
  if s.sec.decCur.isSome then [] else modSec (fun x => { x with decCur := nextLane s s.sec.decLast }) s

/-- The segment entry of a destination, when the whole range lies in it. -/
def decSeg (o : Obj) (dst len : Nat) : Option (Nat × Seg) := match findSeg o.segs 0 dst with
  | some (i, g, off) => if off + len ≤ g.size then some (i, g) else none
  | none => none

/-- RESULT of a descriptor (R337). A slot that carries another ward tag holds no key of this load (R333, R334). The destination is the first hosted rank's (DESIGN CHOICE, log entry 59). -/
def decCheck (s : State) (n : Nat) (b : List Byte) : Nat :=
  let p := s.part n
  let src := leAt b 0 8
  let dst := leAt b 8 8
  let len := leAt b 0x10 8
  let slot := leAt b 0x18 1
  let far := if src < hostBase ∨ hostBase + 0x10000000000 < src + len then true else false
  if src % 16 != 0 || far || dst % 65536 != 0 || len % 16 != 0 || len == 0 || decide (32 * gib < len) || decide (3 < slot) ||
      !zeroAt b 0x19 7 || !zeroAt b 0x2C 4 then 1
  else if Tab.get [] p.key.slots slot = [] || Tab.get 0 p.key.slotWard slot != BitVec.ofNat 16 (p.tag n) then 2
  else if 16 ≤ p.key.count then 5
  else match p.obj.bind (fun o => (decSeg o dst len).map (fun x => (o, x))) with
    | none => 3
    | some (o, i, g) =>
      if !bit g.flags 3 || bit g.flags 0 || bit g.homes 2 || bit g.homes 3 || o.exps.any (fun e => e.seg == i) then 3 else 0

/-- Pages that a range touches. -/
def pagesOf (dst len : Nat) : List Nat := if len = 0 then [] else
  (List.range ((dst + len - 1) / pageSize - dst / pageSize + 1)).map (dst / pageSize + ·)

/-- Updates the pages of a range of a hosted rank. -/
def modPages (n own dst len : Nat) (f : Page → Page) : Act := modRun n (fun r => { r with pages := r.pages.map (fun e =>
  if (pagesOf dst len).any (fun g => pageKey own g == e.1) then (e.1, f e.2) else e) })

/-- Seals pages of a hosted rank, and closes them to its engines until a message ends with OK (R338). -/
def sealPages (n own dst len : Nat) : Act := modPages n own dst len (fun pg => { pg with sealed := true, closed := true })

/-- Opens the pages of a message that has ended with OK to the engines of the partition (R338). -/
def openPages (n own dst len : Nat) : Act := modPages n own dst len (fun pg => { pg with closed := false })

def decResult (n r : Nat) : Act := Act.all [
  modPart n (fun p => { p with key := { p.key with decResult := BitVec.ofNat 8 r } }), irqPart n 3]

/-- START of a message (R337): its pages are sealed from now (R338). -/
def decStart (n : Nat) : Act := fun s =>
  let p := s.part n
  if p.load.state != .loaded || p.key.decBusy || inWindow s then decResult n 0x0F s else
  let a := p.key.decAddr.toNat
  let b := fetchAt s a 64
  let rc := decCheck s n b
  if rc != 0 then Act.all [accessed [(a, 64)], decResult n rc] s else
  let dst := leAt b 8 8
  let len := leAt b 0x10 8
  Act.all [
    accessed [(a, 64)],
    modPart n (fun p => { p with key := { p.key with
      decBusy := true, count := p.key.count + 1, msg := some {
        src := BitVec.ofNat 64 (leAt b 0 8), own := 0, dst := dst, len := len, slot := leAt b 0x18 1, iv := slice b 0x20 12,
        tag := slice b 0x30 16, pos := 0, result := 0, cipher := [] } } }),
    sealPages n 0 dst len, takeLane] s

/-- DEC_START (R337). -/
def execDecStart (fn : Fn) (part : Nat) (s : State) : Host.Outcome State Fault Refusal :=
  .next ((partCmd fn part (decStart part)).run s)

/-- A segment of the decryption engine ends (R340): its ciphertext has been read; the next ready lane is served. -/
def decSegment : Act := fun s =>
  match s.sec.decCur with
  | none => []
  | some n =>
    let step : Act := match (s.part n).key.msg with
      | none => Act.skip
      | some m =>
        let k := min 65536 (m.len - m.pos)
        Act.guard (m.result == 0) (Act.all [
          accessed [(m.src.toNat + m.pos, k)],
          modPart n (fun p => { p with key := { p.key with
            msg := some { m with pos := m.pos + k, cipher := m.cipher ++ fetchAt s (m.src.toNat + m.pos) k } } }),
          count (ctrHub 0x16) (units256 k), hashed (2 * k)])
    Act.all [step, modSec (fun x => { x with decLast := n, decCur := none }), takeLane] s

/-- DEC_SEGMENT_END (R340). -/
def execDecSegmentEnd (s : State) : Host.Outcome State Fault Refusal :=
  .next ((Act.when (fun s => !s.hub.stopped) decSegment).run s)

/-- Zeros in every page that a message wrote, and in the copies of it that a keyway move has made (R338). -/
def zeroMessage (n : Nat) (m : DecMsg) : Act := fun s =>
  let p := s.part n
  Act.each (pagesOf m.dst m.pos) (fun g => match p.page m.own g with
    | some pg => Act.each (pg.frame :: p.movedTo m.own g) (zeroFrame n)
    | none => Act.skip) s

/-- A message ends (R338, R339): with OK its plaintext is reachable; short of OK its pages hold zeros. -/
def decEnd (n : Nat) : Act := fun s =>
  let p := s.part n
  match p.key.msg with
  | none => []
  | some m =>
    if m.result == 0 && decide (m.pos < m.len) then [] else
    let key := Tab.get [] p.key.slots m.slot
    let rc := if m.result != 0 then m.result.toNat else if gcmTag key m.iv [] m.cipher == m.tag then 0 else 4
    let plain := if key = [] then [] else gcmCrypt key m.iv 0 m.cipher
    Act.all [
      if rc == 0 then Act.all [openPages n m.own m.dst m.len, writeL n m.own m.dst plain] else zeroMessage n m,
      modPart n (fun p => { p with key := { p.key with
        decBusy := false, decResult := BitVec.ofNat 8 rc, msg := none,
        weights := p.key.weights ++ [{
          slot := BitVec.ofNat 8 m.slot, result := BitVec.ofNat 8 rc, len := BitVec.ofNat 64 m.len,
          cipher := BitVec.ofNat 256 (beNat (sha256 m.cipher)), plain := BitVec.ofNat 256 (beNat (sha256 plain)) }] } }),
      irqPart n 3] s

/-- DEC_MESSAGE_END (R339). -/
def execDecMessageEnd (part : Nat) (s : State) : Host.Outcome State Fault Refusal :=
  .next ((Act.when (fun s => !s.hub.stopped && decide (part < 32)) (decEnd part)).run s)

/-! ### Firmware (R348, R367) -/

/-- A directory copy of the boot flash is valid. -/
def dirValid (b : List Byte) : Bool :=
  b.take 4 == [0x44, 0x49, 0x52, 0x31] && leAt b 24 8 == (crc64 (b.take 24)).toNat

/-- The directory that counts and the address of the copy to write next: the valid copy with the higher SEQ counts; with
none, slot 0 for both targets. -/
def bootDir (s : State) : List Byte × Nat :=
  let a := flashRead s.store.flash 0 32
  let b := flashRead s.store.flash 0x8000 32
  let none? : List Byte := [0x44, 0x49, 0x52, 0x31] ++ List.replicate 28 0
  match dirValid a, dirValid b with
  | true, true => if leAt a 4 4 < leAt b 4 4 then (b, 0) else (a, 0x8000)
  | true, false => (a, 0x8000)
  | false, true => (b, 0)
  | false, false => (none?, 0)

/-- Flash address of an image slot. -/
def slotBase (target slot : Nat) : Nat :=
  if target = 1 then (if slot = 0 then 0x10000 else 0x3E0000) else (if slot = 0 then 0x7B0000 else 0xB80000)

/-- Active slot of a target. -/
def activeSlot (s : State) (target : Nat) : Nat := leAt (bootDir s).1 (if target = 1 then 8 else 9) 1 % 2

/-- RESULT of the checks that the boot ROM makes of an image (R367): FORMAT, or SIGNATURE for a bad signature or a security
version below the fused one (DEDUCED, log entry 60). -/
def imageCheck (s : State) (target : Nat) (head body : List Byte) : Nat :=
  if head.take 4 != [0x4B, 0x46, 0x57, 0x31] || leAt head 4 1 != target || decide (3997440 < leAt head 8 4) then 1
  else if decide (leAt head 5 1 < s.fuses.svn.toNat) ||
      !p384Verify (Config.firmwareKeyX, Config.firmwareKeyY) (head.take 160 ++ body) (slice head 160 96) then 2
  else 0

/-- Digest of an image: over header and body (DEDUCED, log entry 60). -/
def imageDigest (head body : List Byte) : BitVec 256 := BitVec.ofNat 256 (beNat (sha256 (head ++ body)))

def fwPart (fn : Fn) (a : Act) : Act := Act.when (fun s => serving s && isPf fn && fnThere s fn) a
def fwResult (r : Nat) : Act := modSec (fun x => { x with fwResult := BitVec.ofNat 8 r })

/-- STAGE is taken in NONE and in STAGED without an activation ahead; what was staged before is given up. -/
def stageAct (target : BitVec 2) : Act := fun s =>
  let x := s.sec
  if x.fwState == .staging || x.fwState == .window || x.actAt.isSome then fwResult 0x0F s
  else modSec (fun x => { x with fwState := .staging, fwTarget := target, pendHub := 0, pendLink := 0 }) s

/-- STAGE (R348). -/
def execStage (fn : Fn) (target : BitVec 2) (s : State) : Host.Outcome State Fault Refusal :=
  .next ((fwPart fn (stageAct target)).run s)

/-- Staging ends: the image lies in the inactive slot and its digest is pending, or RESULT says why not. -/
def stageEnd : Act := fun s =>
  let x := s.sec
  if x.fwState != .staging then [] else
  let t := x.fwTarget.toNat
  let head := fetchAt s x.fwAddr.toNat 256
  let bad : Bool := !(t == 1 || t == 2) || decide (3997440 < leAt head 8 4)
  let body := if bad then [] else fetchAt s (x.fwAddr.toNat + 256) (leAt head 8 4)
  let rc := if bad then 1 else imageCheck s t head body
  Act.all [
    accessed [(x.fwAddr.toNat, 256 + body.length)],
    if rc == 0 then Act.all [
      fun _ => [.flash (slotBase t (1 - activeSlot s t)) (head ++ body)],
      modSec (fun x => { x with
        fwState := .staged, fwResult := 0,
        pendHub := if t = 1 then imageDigest head body else 0, pendLink := if t = 1 then 0 else imageDigest head body })]
    else modSec (fun x => { x with fwState := .none, fwResult := BitVec.ofNat 8 rc }),
    irq 0 3] s

/-- STAGE_DONE (R348). -/
def execStageDone (s : State) : Host.Outcome State Fault Refusal :=
  .next ((Act.when (fun s => !s.hub.stopped) stageEnd).run s)

/-- ACTIVATE is accepted in STAGED, for the staged target, with ACT_TIME at least 10 ms ahead; one accepted before it gives way. -/
def activateAct (target : BitVec 2) : Act := fun s =>
  let x := s.sec
  if x.fwState == .staged && x.fwTarget == target &&
      decide (s.tim.hall.toNat + 160000000 ≤ x.actTime.toNat) then
    modSec (fun x => { x with actAt := some x.actTime, fwResult := 0 }) s
  else fwResult 0x0F s

/-- ACTIVATE (R348). -/
def execActivate (fn : Fn) (target : BitVec 2) (s : State) : Host.Outcome State Fault Refusal :=
  .next ((fwPart fn (activateAct target)).run s)

/-- CANCEL abandons what is staged, also after ACTIVATE and before the window. -/
def cancelAct (target : BitVec 2) : Act := fun s =>
  let x := s.sec
  if x.fwState == .staged && x.fwTarget == target then
    modSec (fun x => { x with fwState := .none, fwResult := 0, actAt := none, pendHub := 0, pendLink := 0 }) s
  else fwResult 0x0F s

/-- CANCEL (R348). -/
def execCancel (fn : Fn) (target : BitVec 2) (s : State) : Host.Outcome State Fault Refusal :=
  .next ((fwPart fn (cancelAct target)).run s)

/-- At ACT_TIME the window opens: TRANSITION, and every key slot of every partition is erased (R347, R348). -/
def windowOpens : Act := fun s =>
  match s.sec.actAt with
  | none => []
  | some t =>
    if s.hub.stopped || s.sec.fwState != .staged || decide (s.tim.hall < t) then [] else Act.all [
      modSec (fun x => { x with fwState := .window, transition := true, actAt := none }),
      Act.each allParts eraseSlots] s

/-- ACTIVATION_WINDOW_OPEN (R347, R348). -/
def execActivationWindowOpen (s : State) : Host.Outcome State Fault Refusal := .next (windowOpens.run s)

/-- The directory with a target's slot changed, sealed with the next SEQ. -/
def newDir (dir : List Byte) (target slot : Nat) : List Byte :=
  let b := dir.take 4 ++ leBytes 4 (leAt dir 4 4 + 1) ++ leBytes 1 (if target = 1 then slot else leAt dir 8 1) ++
    leBytes 1 (if target = 1 then leAt dir 9 1 else slot) ++ List.replicate 14 0
  b ++ leBytes 8 (crc64 b).toNat

/-- Every controller of the target runs the new image: the window closes (R348). -/
def windowCloses : Act := fun s =>
  if s.hub.stopped || s.sec.fwState != .window then [] else
  let t := s.sec.fwTarget.toNat
  let d := bootDir s
  Act.all [
    fun _ => [.flash d.2 (newDir d.1 t (1 - activeSlot s t))],
    modSec (fun x => { x with
      hubDigest := if t = 1 then x.pendHub else x.hubDigest, linkDigest := if t = 1 then x.linkDigest else x.pendLink,
      pendHub := 0, pendLink := 0, fwState := .none, transition := false, mepoch := x.mepoch + 1 }),
    irq 0 3] s

/-- ACTIVATION_WINDOW_CLOSE (R343, R348). -/
def execActivationWindowClose (s : State) : Host.Outcome State Fault Refusal := .next (windowCloses.run s)

/-! ### Unit resets (R349) -/

/-- A write to `HUB_URST` that no unit takes. -/
def resetIgnored : Act := fltEvent dieHub 0 .resetIgnored none 0

/-- Erases the slots of partitions that an unmeasured unit counts against (R347). -/
def eraseFor (hit : Part → Bool) : Act := fun s => Act.each (allParts.filter (fun n => hit (s.part n))) eraseSlots s

/-- A quarter is reset, if no partition has bound it; its engines' registers return to their reset values. -/
def quarterResetAct (q : Nat) : Act := fun s =>
  if 80 ≤ q || allParts.any (fun n => (s.part n).bind.quarters.contains q) then resetIgnored s else Act.all [
    eraseFor (fun p => bit p.cfg.qmask q),
    modSec (fun x => { x with unmeasured := x.unmeasured ||| BitVec.ofNat 80 (2 ^ q) }),
    modUu q (fun _ => {}), setGen q {}, fun _ => [.clearVreg (vregIdx q 0 0) (vregIdx (q + 1) 0 0)]] s

/-- QUARTER_RESET (R349). -/
def execQuarterReset (fn : Fn) (q : Nat) (s : State) : Host.Outcome State Fault Refusal :=
  .next ((fwPart fn (quarterResetAct q)).run s)

/-- A loaded partition uses a link die: CLX or LMOV streams, tumblers or routes (R349). -/
def dieUsed (s : State) (d : Nat) : Bool := allParts.any (fun n => match (s.part n).obj with
  | some o => o.dies.contains d
  | none => false)

/-- A link die is reset, if no loaded partition uses it. What its links do meanwhile is not given (log entry 61). -/
def dieResetAct (d : Nat) : Act := fun s =>
  if !diePresent s d || dieUsed s d then resetIgnored s else Act.all [
    eraseFor (fun p => match p.obj with
      | some o => o.dies.contains d
      | none => false),
    modDie d (fun x => { x with unmeasured := true })] s

/-- LINK_DIE_RESET (R349). -/
def execLinkDieReset (fn : Fn) (die : Nat) (s : State) : Host.Outcome State Fault Refusal :=
  .next ((fwPart fn (dieResetAct die)).run s)

/-- The hub has re-verified a unit (R343, R349). -/
def unitResetEnd (u : ResetUnit) : Act := fun s =>
  let grow : Act := modSec (fun x => { x with mepoch := x.mepoch + 1 })
  match u with
  | .quarter q => if !s.hub.stopped && bit s.sec.unmeasured q then Act.all [
      modSec (fun x => { x with unmeasured := x.unmeasured &&& ~~~BitVec.ofNat 80 (2 ^ q) }), grow] s else []
  | .linkDie d => if !s.hub.stopped && (s.die d).unmeasured then Act.all [
      modDie d (fun x => { x with unmeasured := false }), grow] s else []

/-- UNIT_RESET_DONE (R349). -/
def execUnitResetDone (unit : ResetUnit) (s : State) : Host.Outcome State Fault Refusal :=
  .next ((unitResetEnd unit).run s)

end Sys2Proof.Machine
end

