-- ==== Sys2Proof/Machine/Kat.lean ====
section
/-!
DEFINITION. Units that fail (R313, R326, R366, R370), the known-answer suites (R324 to R326), the flush of the flight recorder
(R322) and the boot flash commands (R398).
-/
namespace Sys2Proof.Machine

/-! ### Failed units -/

/-- A quarter is bound by some partition. -/
def quarterBound (s : State) (q : Nat) : Bool := allParts.any (fun n => (s.part n).bind.quarters.contains q)

/-- Fences a cell (R326, R327). -/
def fenceCell (c p : Nat) : Act := withSpares c (Act.all [
  modCell (c * 18 + p) (fun x => { x with role := if x.role == .bound then .bound else .fenced, fences := x.fences + 1 }),
  modCol c (fun x => { x with fenced := x.fenced ||| BitVec.ofNat 18 (2 ^ p) })])

/-- Marks a quarter failed (R326, R327). -/
def failQuarter (q : Nat) : Act :=
  modCol (q / 4) (fun x => { x with qfail := x.qfail ||| BitVec.ofNat 4 (2 ^ (q % 4)) })

/-- Marks a column failed (R366, R370). -/
def failColumn (c : Nat) : Act := Act.all [
  modCol c (fun x => { x with failed := true }), fltEvent c 0 .columnFailed none 1]

/-- A channel that fails is replaced by a free spare channel of its stack (R306, R370): at once where nothing has bound its
quarter, by a copy where something has. With no spare left, the stack's column is marked failed in memory initialisation
(`boot`); otherwise the CHAN reason is set. -/
def failChannel (boot : Bool) (c ch : Nat) : Act := fun s =>
  let x := s.col c
  match x.position ch, (freeChannels x).head? with
    | none, _ => if ch < 64 then [] else modCol c (fun x => { x with
        failedCh := if x.failedCh.contains ch then x.failedCh else x.failedCh ++ [ch] }) s
    | some pos, some k =>
      if quarterBound s (4 * c + pos / 16) then spareChannel c ch s else Act.all [
        modCol c (Col.retire ch k), fltEvent c (0x40 + ch) .channelRetired none 1] s
    | some _, none => if boot then failColumn c s else replReason 4 s

/-- A row that fails is retired to a spare row (R305, R370); a channel that has none left degrades, and one that had none fails as a
whole (R306). -/
def failRow (boot : Bool) (c ch : Nat) : Act := fun s =>
  let used := Tab.get 0 (s.col c).rowsUsed ch
  if used < 64 then Act.all [
    modCol c (fun x => { x with rowsUsed := Tab.set 0 x.rowsUsed ch (used + 1) }),
    fltEvent c (0x40 + ch) .rowRetired none 1,
    Act.guard (used == 63) (failChannel false c ch)] s
  else failChannel boot c ch s

/-- A link die whose adaptation does not end: its links are FAILED (R366). -/
def failDie (d : Nat) : Act := Act.each (List.range 24) (fun i => linkFail ⟨d, i⟩)

/-- What a failed unit comes to. -/
def failUnit (boot : Bool) : FailedUnit → Act
  | .cell c p => Act.guard (decide (c < 20) && decide (p < 18)) (fenceCell c p)
  | .channel c ch => Act.guard (decide (c < 20) && decide (ch < 68)) (failChannel boot c ch)
  | .row c ch _ => Act.guard (decide (c < 20) && decide (ch < 68)) (failRow boot c ch)
  | .quarter q => Act.guard (decide (q < 80)) (failQuarter q)
  | .column c => Act.guard (decide (c < 20)) (failColumn c)
  | .linkDie d => Act.guard (decide (d < 4)) (failDie d)
  | .other _ _ => Act.skip

/-- DIE and UNIT of a unit (R320). -/
def FailedUnit.source : FailedUnit → Nat × Nat
  | .cell c p => (c, p)
  | .channel c ch => (c, 0x40 + ch)
  | .row c ch _ => (c, 0x40 + ch)
  | .quarter q => (q / 4, 0x20 + q % 4)
  | .column c => (c, 0)
  | .linkDie d => (dieLink d, 0)
  | .other d u => (d.toNat, u.toNat)

/-- Physical quarter of a unit in `HUB_KAT_FAIL`; 0xFF for the hub or a link die, and for a unit of no quarter. -/
def FailedUnit.quarter? : FailedUnit → Nat
  | .cell c p => if p < 16 then 4 * c + p / 4 else 0xFF
  | .channel c ch => if ch < 64 then 4 * c + ch / 16 else 0xFF
  | .row c ch _ => if ch < 64 then 4 * c + ch / 16 else 0xFF
  | .quarter q => q
  | _ => 0xFF

/-- A unit fails a suite (R323, R326): FLT and a CPER record, and what R326 lays down. -/
def failTest (u : FailedUnit) : Act := fun s =>
  let d := FailedUnit.source u
  Act.all [failUnit false u, fltEvent d.1 d.2 .fieldTestFailed none 1, cper []] s

/-- Units fail a suite; the health record follows. -/
def failTests (us : List FailedUnit) : Act :=
  Act.guard (!us.isEmpty) (Act.all [Act.each us failTest, healthChange])

/-! ### Suites -/

/-- Notes the first failure of a suite (R326). The kernel's number is not given. -/
def noteKat (us : List FailedUnit) : Act := match us.head? with
  | none => Act.skip
  | some u => Act.when (fun s => s.hub.katResult != 1) (withFree (fun i => modHub (fun h => { h with
      katResult := 1,
      katFail := pack 32 [(24, (Config.katKernel i).toNat), (16, FailedUnit.quarter? u), (8, (FailedUnit.source u).1),
        (0, (FailedUnit.source u).2)] })))

/-- Field `i` of `COL_KAT` (R327). -/
def setKat (c i v : Nat) : Act := modCol c (fun x => { x with kat := putFld x.kat (2 * i) 2 v })

/-- The turn of quarter `4 - k` of a column in a deep suite: a bound quarter is skipped (R325). -/
def takeTurn (c : Nat) : Nat → Act
  | 0 => modCol c (fun x => { x with katTurn := none })
  | k + 1 => fun s =>
    if quarterBound s (4 * c + (3 - k)) then Act.all [setKat c (3 - k) 3, takeTurn c k] s
    else modCol c (fun x => { x with katTurn := some (3 - k) }) s

/-- STATE_ERR of a suite command. -/
def katRefused : Act := modHub (fun h => { h with katResult := 0x0F })

/-- A suite begins (R326). -/
def katBegin (suite : Nat) : Act := modHub (fun h => { h with
  katBusy := true, katSuite := BitVec.ofNat 4 suite, katResult := 0, katFail := 0 })

/-- The short suite is accepted only while every partition is EMPTY (R324), and in no activation window (R348). -/
def katShort : Act := fun s =>
  if s.hub.katBusy || inWindow s || allParts.any (fun n => (s.part n).load.state != .empty) then katRefused s else katBegin 1 s

/-- KAT_SHORT (R324). -/
def execKatShort (fn : Fn) (s : State) : Host.Outcome State Fault Refusal := .next ((fwPart fn katShort).run s)

/-- The deep suite begins on the columns of a mask (R325). -/
def katDeep (mask : BitVec 20) : Act := fun s =>
  if s.hub.katBusy || inWindow s then katRefused s else Act.all [
    katBegin 2,
    Act.each ((List.range 20).filter (fun c => mask.getLsbD c)) (fun c => Act.all [
      modCol c (fun x => { x with kat := 0 }), takeTurn c 4])] s

/-- KAT_DEEP (R325). -/
def execKatDeep (fn : Fn) (colMask : BitVec 20) (s : State) : Host.Outcome State Fault Refusal :=
  .next ((fwPart fn (katDeep colMask)).run s)

/-- A fenced cell that passes a deep suite is unfenced, unless it has been fenced twice (R326). -/
def unfence (c p : Nat) : Act := fun s =>
  if fencedCell s c p && decide ((s.cell (c * 18 + p)).fences < 2) then Act.all [
    modCell (c * 18 + p) (fun x => { x with role := if x.role == .fenced then .unbound else x.role }),
    modCol c (fun x => { x with fenced := x.fenced &&& ~~~BitVec.ofNat 18 (2 ^ p) }), healthWrite] s
  else []

/-- Result of a spare cell: one that was not free is skipped, a failure stays. -/
def spareResult (s : State) (c k : Nat) (us : List FailedUnit) : Nat :=
  let old := fld (s.col c).kat (8 + 2 * k) 2
  if us.contains (.cell c (16 + k)) || old == 2 then 2 else if spareFree s c (16 + k) then 1 else if old == 1 then 1 else 3

/-- One quarter's run of a deep suite ends (R325, R327). -/
def quarterRun (c q : Nat) (us : List FailedUnit) : Act := fun s =>
  if !s.hub.katBusy || s.hub.stopped || decide (20 ≤ c) || (s.col c).katTurn != some q then [] else
  let cells := (List.range 4).map (4 * q + ·)
  Act.all [
    setKat c 4 (spareResult s c 0 us), setKat c 5 (spareResult s c 1 us),
    setKat c q (if us.isEmpty then 1 else 2),
    noteKat us, failTests us,
    Act.each (cells.filter (fun p => !us.contains (.cell c p))) (unfence c),
    takeTurn c (3 - q)] s

/-- QUARTER_RUN_END (R325). -/
def execQuarterRunEnd (col q : Nat) (failed : List FailedUnit) (s : State) : Host.Outcome State Fault Refusal :=
  .next ((quarterRun col q failed).run s)

/-- A suite ends (R326, R388): the deep suite only after the last turn. -/
def katEnd (us : List FailedUnit) : Act := fun s =>
  if !s.hub.katBusy || s.hub.stopped || (List.range 20).any (fun c => (s.col c).katTurn.isSome) then [] else Act.all [
    noteKat us, failTests us, modHub (fun h => { h with katBusy := false }), irq 0 1] s

/-- KAT_DONE (R326). -/
def execKatDone (failed : List FailedUnit) (s : State) : Host.Outcome State Fault Refusal := .next ((katEnd failed).run s)

/-! ### The flush (R322) -/

/-- Flash address of an FLT slot. -/
def fltSlot (k : Nat) : Nat := if k = 0 then 0xF80000 else 0xFC0000

/-- Bytes that a flush writes after its header. -/
def fltSlotEntries : Nat := 4096 * 32

/-- Sequence of a slot, if its CRC passes. -/
def slotSeq (s : State) (k : Nat) : Option Nat :=
  let h := flashRead s.store.flash (fltSlot k) 64
  let es := flashRead s.store.flash (fltSlot k + 64) fltSlotEntries
  if h.take 4 == [0x46, 0x4C, 0x54, 0x46] && leAt h 56 8 == (crc64 (h.take 56 ++ es)).toNat then some (leAt h 4 4) else none

/-- The slot that a flush writes, and its sequence: an invalid slot, else the one with the lower sequence. -/
def flushTarget (s : State) : Nat × Nat :=
  match slotSeq s 0, slotSeq s 1 with
  | none, b => (0, b.getD 0 + 1)
  | some a, none => (1, a + 1)
  | some a, some b => if a < b then (0, b + 1) else (1, a + 1)

/-- Sequence of the last valid slot, for `FLT_FLASH` (R321). -/
def lastSeq (s : State) : Nat := max ((slotSeq s 0).getD 0) ((slotSeq s 1).getD 0)

/-- Header and entries of the flush in progress, oldest entry first (DEDUCED, log entry 63). -/
def flushBytes (s : State) (seq : Nat) : List Byte :=
  let f := s.flt
  let es := (List.range 4096).flatMap (fun i => fltBytes f ((f.flushWr.toNat + 65536 - 4096 + i) % 65536))
  let h := [0x46, 0x4C, 0x54, 0x46] ++ leBytes 4 seq ++ leBytes 8 f.flushHall.toNat ++ leBytes 4 f.flushWr.toNat ++
    List.replicate 36 0
  h ++ leBytes 8 (crc64 (h ++ es)).toNat ++ es

/-- A slot that a flush has spoilt: its header is any bytes. -/
def spoil (k : Nat) : Act := withFree (fun i => fun _ => [.flash (fltSlot k) (leBytes 64 (Config.freeNat i))])

/-- A flush ends, and one that a fatal event asked for begins. -/
def flushEnd (ok : Bool) : Act := fun s =>
  if !s.flt.busy then [] else
  let t := flushTarget s
  Act.all [
    if ok then fun _ => [.flash (fltSlot t.1) (flushBytes s t.2)] else spoil t.1,
    modFlt (fun f => { f with busy := false, again := false, err := !ok }),
    Act.guard s.flt.again fltFlush] s

/-- FLT_FLUSH_DONE (R322). -/
def execFltFlushDone (ok : Bool) (s : State) : Host.Outcome State Fault Refusal := .next ((flushEnd ok).run s)

/-- FLT_FLUSH (R321, R322): ignored while a flush runs. -/
def execFltFlush (fn : Fn) (s : State) : Host.Outcome State Fault Refusal :=
  .next ((fwPart fn (Act.when (fun s => !s.flt.busy) fltFlush)).run s)

/-! ### Boot flash commands (R398) -/

/-- The management block can be reached: after phase 2 over SPI, and by the physical function once READY (R374). -/
def mgmtUp (s : State) (fn : Fn) : Bool :=
  !s.hub.stopped && (s.hub.ready && isPf fn && fnThere s fn || fn == .mgmt && decide (3 ≤ s.hub.stage.toNat))

def flashResult (r : Nat) : Act := modMgmt (fun m => { m with flashResult := BitVec.ofNat 8 r })

/-- `MGMT_FLASH_CMD`: 1 READ, 2 ERASE, 3 PROGRAM of a sector. -/
def flashCmd (op : Nat) (sector : BitVec 12) : Act := fun s =>
  if s.mgmt.flashBusy then flashResult 0x0F s
  else if op != 1 && sector != 0xF50 then flashResult 3 s
  else if op != 1 && inWindow s then flashResult 0x0F s
  else modMgmt (fun m => { m with flashBusy := true, flashOp := BitVec.ofNat 2 op, flashSector := sector }) s

/-- FLASH_READ (R398). -/
def execFlashRead (fn : Fn) (sector : BitVec 12) (s : State) : Host.Outcome State Fault Refusal :=
  .next ((Act.when (fun s => mgmtUp s fn) (flashCmd 1 sector)).run s)

/-- FLASH_ERASE (R398). -/
def execFlashErase (fn : Fn) (sector : BitVec 12) (s : State) : Host.Outcome State Fault Refusal :=
  .next ((Act.when (fun s => mgmtUp s fn) (flashCmd 2 sector)).run s)

/-- FLASH_PROGRAM (R398). -/
def execFlashProgram (fn : Fn) (sector : BitVec 12) (s : State) : Host.Outcome State Fault Refusal :=
  .next ((Act.when (fun s => mgmtUp s fn) (flashCmd 3 sector)).run s)

/-- Sectors whose bytes the specification does not lay out: the calibration cache and the health record (R367 to R369; log
entry 46). -/
def openSector (sector : Nat) : Bool :=
  (0xF51 ≤ sector && decide (sector ≤ 0xF5F)) || (0xF60 ≤ sector && decide (sector ≤ 0xF7F))

/-- A buffer that holds these bytes. -/
def bufOf (bs : List Byte) : Mem := Mem.write [] 0 bs

/-- The flash command in progress ends, after the device's own writes (R398). -/
def flashEnd : Act := fun s =>
  let m := s.mgmt
  if !m.flashBusy || s.flt.busy || s.sec.fwState == .staging then [] else
  let a := m.flashSector.toNat * 4096
  Act.all [
    if m.flashOp == 1 then
      (if openSector m.flashSector.toNat then
        withFree (fun i => modMgmt (fun m => { m with flashBuf := bufOf (leBytes 4096 (Config.freeNat i)) }))
      else modMgmt (fun m => { m with flashBuf := bufOf (flashRead s.store.flash a 4096) }))
    else if m.flashOp == 2 then fun _ => [.flash a (List.replicate 4096 flashDefault)]
    else fun _ => [.flash a (m.flashBuf.readN 0 4096)],
    modMgmt (fun m => { m with flashBusy := false, flashResult := 0 })] s

/-- FLASH_CMD_DONE (R398). -/
def execFlashCmdDone (s : State) : Host.Outcome State Fault Refusal :=
  .next ((Act.when (fun s => !s.hub.stopped) flashEnd).run s)

end Sys2Proof.Machine
end

