-- ==== Sys2Proof/Machine/Boot.lean ====
section
/-!
DEFINITION. Resets and start-up: function-level resets (R332, R384), PERST_N (R364), the rails and PWR_OK (R362, R363, R407,
R408), the deadbolt reset (R315 to R317, R420), the start-up phases (R365 to R375).
-/
namespace Sys2Proof.Machine

/-! ### Domains and functions -/

/-- Raises of this device that no release of it matches (R29). -/
def openRaises (s : State) (d : Dom) : Nat :=
  let mine := d.holds.filter (fun h => h.source == s.hub.devno)
  (mine.filter (fun h => !h.release)).length - (mine.filter (fun h => h.release)).length

/-- ACTIVE is cleared (R37): the schedule ends, this device's raises are released, BROKEN clears. -/
def deactivate (n : Nat) : Act := fun s =>
  let d := s.dom n
  if !d.active then [] else Act.all [
    Act.each (List.replicate (openRaises s d) ()) (fun _ => sendHold n true),
    modDom n (fun d => { d with
      active := false, heldTotal := d.heldNow s.tim.hall, held := false, broken := false, holds := [], holdMaxSent := false,
      lostRaises := 0, jump := none })] s

/-- A function-level reset's effect on partition `n` (R332): its commands in progress end with it. -/
def flr (n : Nat) : Act := Act.all [
  deactivate n, stopStreams n, completeOps n, release n, clearBank n,
  modPart n (fun p => { p with
    load := { p.load with state := .empty, result := 0, unloading := false },
    cfg := ({ p.cfg with duty := 0 } : PartCfg).clearViews,
    ctx := { p.ctx with busy := false, restoring := false, rwdBusy := false },
    snap := { p.snap with rbusy := false, restored := [] } })]

/-- VF_FLR (R332): of the VF that serves partition `vf`, while it owns the ward. -/
def execVfFlr (vf : Nat) (s : State) : Host.Outcome State Fault Refusal :=
  .next ((Act.when (fun s => serving s && vfExists s.pcie vf && (s.part vf).cfg.vfown) (flr vf)).run s)

/-- PF_RESET (R332): every partition. -/
def execPfReset (s : State) : Host.Outcome State Fault Refusal :=
  .next ((Act.when serving (Act.each allParts flr)).run s)

/-- VF Enable and NumVFs are written (R384): a VF that owned its ward and is gone counts as reset. -/
def vfWrite (enable : Bool) (num : Nat) : Act := fun s =>
  let p := { s.pcie with vfEnable := enable, numVfs := num }
  let gone := allParts.filter (fun n => vfExists s.pcie n && !vfExists p n && (s.part n).cfg.vfown)
  Act.all [modPcie (fun x => { x with vfEnable := enable, numVfs := num }), Act.guard (serving s) (Act.each gone flr)] s

/-- VF_ENABLE_CLEAR (R384). -/
def execVfEnableClear (enable : Bool) (numVfs : Nat) (s : State) : Host.Outcome State Fault Refusal :=
  .next ((Act.when (fun s => !s.hub.stopped && !s.hub.perst) (vfWrite enable numVfs)).run s)

/-! ### PERST_N (R364, R420) -/

/-- Number of the management port among the reading functions (R394): after the PF and the VFs. -/
def mgmtFn : Nat := 33

/-- The host interface returns to reset: ports, SR-IOV, `HUB_APER`, MSI-X. -/
def resetHostSide : Act := Act.all [
  portDown 0, portDown 1,
  modHub (fun h => { h with aper := 0 }),
  modPcie (fun p => { p with
    vfEnable := false, numVfs := 0, unmasked := [], msixTable := [], pendingBits := [], latches := p.latches.filter (fun e => decide (mgmtFn * 2 ^ 28 ≤ e.1)) })]

/-- The PMC counters clear (R350). -/
def clearCounters : Act := Act.all [
  modPmc (fun p => { p with ctr := [], slackMin := [], milli := [] }),
  Act.each allParts (fun n => modPart n (fun p => { p with cfg := p.cfg.clearViews }))]

/-- PERST_N goes low. -/
def perstLow : Act := fun s =>
  if s.hub.perst then [] else Act.all [
    modHub (fun h => { h with perst := true }), resetHostSide,
    Act.guard (serving s) (Act.all [Act.each allParts deactivate, Act.each allParts flr, clearCounters])] s

/-- PERST_N_ASSERT (R364). -/
def execPerstNAssert (s : State) : Host.Outcome State Fault Refusal := .next (perstLow.run s)

/-- PERST_N goes high. -/
def perstHigh : Act := fun s =>
  if s.hub.perst then modHub (fun h => { h with perst := false, perstSince := s.tim.hall }) s else []

/-- PERST_N_DEASSERT (R364, R374). -/
def execPerstNDeassert (s : State) : Host.Outcome State Fault Refusal := .next (perstHigh.run s)

/-- A configuration request is answered once 1 s has passed since PERST_N rose or power came, and before that with Request
Retry Status (R374); for a function that does not exist with Unsupported Request (R382). -/
def configReq (port : Nat) (fn : Fn) : Act := fun s =>
  if s.hub.stopped || s.hub.perst then [] else
  let there : Bool := match fn with
    | .vf k => port == 0 && vfExists s.pcie k
    | _ => true
  modOut (fun o => { o with
    retry := decide ((s.tim.hall - s.hub.perstSince).toNat < 16000000000), unsupported := !there, data := 0 }) s

/-- CONFIG_REQUEST (R374). -/
def execConfigRequest (port : Nat) (fn : Fn) (s : State) : Host.Outcome State Fault Refusal :=
  .next ((configReq port fn).run s)

/-! ### The reset of the device (R316, R420) -/

/-- A column after a reset: its health stays, after a deadbolt its counters too. -/
def Col.afterReset (warm : Bool) (x : Col) : Col :=
  let y : Col := { failed := x.failed, qfail := x.qfail, fenced := x.fenced, retired := x.retired, failedCh := x.failedCh,
                   rowsUsed := x.rowsUsed, pendingRows := x.pendingRows }
  if warm then { y with shadowMm := x.shadowMm, shadowStop := x.shadowStop, eccCe := x.eccCe, eccUe := x.eccUe } else y

/-- The hub after a reset, in phase 1. -/
def Hub.afterReset (warm : Bool) (h : Hub) : Hub :=
  let y : Hub := { pwrOk := true, stopped := false, stage := 1, perst := h.perst, repl := h.repl, healthSeq := h.healthSeq,
                   warm := warm }
  if warm then { y with dbCount := h.dbCount, dbCause := h.dbCause, dbDie := h.dbDie, dbUnit := h.dbUnit } else y

/-- The flight recorder after a reset: after a deadbolt the ring, its count and the flush in progress stay. -/
def Flt.afterReset (warm : Bool) (f : Flt) : Flt :=
  if warm then { ring := f.ring, wr := f.wr, busy := f.busy, again := f.again, flushWr := f.flushWr, flushHall := f.flushHall }
  else {}

/-- Every register returns to its reset value but those that R420 keeps; DRAM and SRAM contents are lost. -/
def resetAll (warm : Bool) : Act := fun s => Act.all [
  modHub (Hub.afterReset warm), modTim (fun _ => {}), modKwy (fun _ => {}), modSec (fun _ => {}),
  modFlt (Flt.afterReset warm), modPmc (fun _ => {}), modMgmt (fun _ => {}), modPcie (fun _ => {}),
  Act.each s.doms (fun e => modDom e.1 (fun _ => {})),
  Act.each s.parts (fun e => modPart e.1 (fun _ => {})),
  Act.each s.hasps (fun e => modHasp e.1 (fun _ => {})),
  Act.each s.queues (fun e => modQueue e.1 (fun _ => {})),
  Act.each s.cells (fun e => modCell e.1 (fun x => {
    role := if fencedCell s (e.1 / 18) (e.1 % 18) then .fenced else .unbound, fences := x.fences })),
  Act.each s.uus (fun e => modUu e.1 (fun _ => {})),
  Act.each s.cols (fun e => modCol e.1 (Col.afterReset warm)),
  Act.each s.links (fun e => fun _ => [.link e.1 {}]),
  Act.each s.dies (fun e => modDie e.1 (fun _ => {})),
  Act.each s.clxs (fun e => modClx e.1 (fun _ => {})),
  fun _ => [.clearMem 0 (2 ^ 64), .clearTb 0 (2 ^ 64), .clearVreg 0 (2 ^ 64)],
  Act.each s.store.latch (fun e => setLatch e.1 0),
  Act.each s.store.gen (fun e => setGen e.1 {})] s

/-- The unit that an uncorrectable SRAM word or a parity error names is fenced or marked failed before anything is bound
again (R307, R317). -/
def markCause : Act := fun s =>
  let h := s.hub
  let c := h.dbDie.toNat
  let u := h.dbUnit.toNat
  if !(h.dbCause == 2 || h.dbCause == 4) || decide (20 ≤ c) then []
  else if u < 18 then Act.all [fenceCell c u, healthChange] s
  else if 0x20 ≤ u ∧ u < 0x24 then Act.all [failQuarter (4 * c + (u - 0x20)), healthChange] s
  else []

/-- The deadbolt reset, 2 µs after the fatal error (R315). -/
def deadboltResetAct : Act := fun s =>
  if !s.hub.deadboltPending || s.hub.stopped then [] else Act.all [markCause, resetAll true] s

/-- DEADBOLT_RESET (R315, R316). -/
def execDeadboltReset (s : State) : Host.Outcome State Fault Refusal := .next (deadboltResetAct.run s)

/-- A rising edge of PWR_OK (R362, R407): a flush that was cut off has spoilt its slot (R322). -/
def powerOn (inRange : Bool) : Act := fun s =>
  if s.hub.pwrOk then [] else Act.all [
    Act.guard s.flt.busy (spoil (flushTarget s).1),
    resetAll false,
    modHub (fun h => { h with railsWait := !inRange })] s

/-- PWR_OK_RISE (R362, R365). -/
def execPwrOkRise (railsInRange : Bool) (s : State) : Host.Outcome State Fault Refusal :=
  .next ((powerOn railsInRange).run s)

/-- PWR_OK_FALL (R363). -/
def execPwrOkFall (s : State) : Host.Outcome State Fault Refusal :=
  .next ((Act.when (fun s => s.hub.pwrOk) (Act.all [stopDevice, modHub (fun h => { h with pwrOk := false })])).run s)

/-! ### Rails (R408) -/

/-- A stop with its FLT record. -/
def railStopAct : Act := Act.all [fltWrite dieHub 0 .railStop none 0, stopDevice]

/-- What a rail out of range causes while PWR_OK is high. -/
def railAct (rail : Rail) (mv : Nat) : Act := Act.when (fun s => s.hub.pwrOk && !s.hub.stopped) (match rail with
  | .main =>
    if mv < 44000 ∨ 56000 < mv then railStopAct
    else if mv < 46000 then fltEvent dieHub 0 .railLow none 0
    else Act.skip
  | .auxiliary => if mv < 10800 then railStopAct else Act.skip
  | .standby => if 3135 ≤ mv ∧ mv ≤ 3465 then Act.skip else stopDevice
  | .io => if 1710 ≤ mv ∧ mv ≤ 1890 then Act.skip else railStopAct
  | .regulator => deadboltAct 0x05 (BitVec.ofNat 8 dieHub) 0)

/-- RAIL_FAULT (R408). An auxiliary rail beyond its absolute maximum is outside what the specification covers (R412). -/
def execRailFault (rail : Rail) (mv : Nat) (s : State) : Host.Outcome State Fault Refusal :=
  if rail = .auxiliary ∧ 14000 < mv then .fault .beyondRatings else .next ((railAct rail mv).run s)

/-- MAIN_RAIL_LOW_NOTICE (R408): once per second between 44.0 V and 46.0 V. -/
def execMainRailLowNotice (mv : Nat) (s : State) : Host.Outcome State Fault Refusal :=
  .next ((Act.when (fun s => s.hub.pwrOk && !s.hub.stopped && decide (44000 ≤ mv) && decide (mv < 46000))
    (fltEvent dieHub 0 .railLow none 0)).run s)

/-! ### Start-up (R365 to R370) -/

/-- FAILCODE of `HUB_STATUS` (R371). -/
def BootFail.code : BootFail → BitVec 8
  | .hubImage => 0x01 | .linkImage => 0x02 | .regulator => 0x03 | .pll => 0x04 | .mesh => 0x05 | .allColumns => 0x06
  | .phaseTime => 0x09

/-- Start-up stops (R366): BOOT_FAIL with its alert, and an FLT event that is flushed. -/
def bootStop (c : BootFail) : Act := Act.all [
  modHub (fun h => { h with bootFail := true, failcode := BootFail.code c }),
  fltEvent dieHub 0 .bootFail none 3, irq 0 1]

/-- Bytes of an image slot (R367). -/
def slotSize : Nat := 0x3D0000

/-- Nothing has written a slot since the device was delivered. -/
def slotFresh (s : State) (target slot : Nat) : Bool :=
  let a := slotBase target slot
  !s.store.flash.any (fun c => a ≤ c.1 && decide (c.1 < a + slotSize))

/-- The image in a slot passes the boot ROM's checks (R367), and its digest. What slot 0 holds as delivered passes (DESIGN
CHOICE, log entry 62: the specification gives no flash contents). -/
def slotImage (s : State) (target slot : Nat) : Option (BitVec 256) :=
  if slotFresh s target slot then (if slot = 0 then some (Config.deliveredDigest target) else none) else
  let a := slotBase target slot
  let head := flashRead s.store.flash a 256
  let body := if 3997440 < leAt head 8 4 then [] else flashRead s.store.flash (a + 256) (leAt head 8 4)
  if imageCheck s target head body = 0 then some (imageDigest head body) else none

/-- The image that the boot ROM loads for a target: its digest, and whether it is the inactive slot's. -/
def bootImage (s : State) (target : Nat) : Option (BitVec 256 × Bool) :=
  let k := activeSlot s target
  match slotImage s target k with
  | some d => some (d, false)
  | none => (slotImage s target (1 - k)).map (fun d => (d, true))

/-- Phase 1: the boot ROM's work (R367). -/
def bootPhase1 (next : Act) : Act := fun s =>
  match bootImage s 1, bootImage s 2 with
  | none, _ => bootStop .hubImage s
  | some _, none => bootStop .linkImage s
  | some h, some l => Act.all [
      modSec (fun x => { x with hubDigest := h.1, linkDigest := l.1 }),
      Act.guard (h.2 || l.2) (Act.all [
        modHub (fun x => { x with slotFallback := true }), fltEvent dieHub 0 .slotFallback none 0]),
      modHub (fun x => { x with railsWait := false }), next] s

/-- Address of the configuration record (R367). -/
def configRecord : Nat := 0xF50000

/-- The configuration record is valid (R368). -/
def recordValid (b : List Byte) : Bool :=
  b.take 4 == [0x43, 0x46, 0x47, 0x52] && leAt b 4 2 == 1 && leAt b 56 8 == (crc64 (b.take 56)).toNat

/-- Phase 2: the configuration record and the health record (R368). -/
def bootPhase2 : Act := fun s =>
  let b := flashRead s.store.flash configRecord 64
  Act.all [
    Act.guard (recordValid b) (Act.all [
      modHub (fun h => { h with devnoValid := true, devno := BitVec.ofNat 16 (leAt b 6 2) }),
      modTim (fun t => { t with pri := BitVec.ofNat 8 (leAt b 8 1), src := bit (BitVec.ofNat 8 (leAt b 9 1)) 0 })]),
    Act.guard (s.hub.healthSeq == 0) (fltEvent dieHub 0 .noHealth none 0)] s

/-- Phase 5: what failed; every other link die has ended its adaptation (R365, R366, R369). -/
def bootPhase5 (failed : List FailedUnit) : Act := Act.all [
  Act.each failed (failUnit true),
  Act.each ((List.range 4).filter (fun d => !failed.contains (.linkDie d))) serdesEnd,
  Act.guard (!failed.isEmpty) healthChange]

/-- Phase 6: what failed is retired, and every block of DRAM is zero with POISON clear (R370). -/
def bootPhase6 (failed : List FailedUnit) : Act := fun s => Act.all [
  Act.each failed (failUnit true),
  Act.each (List.range 20) (fun c => Act.all [
    Act.each (s.col c).pendingRows (fun e => failRow true c e.1), modCol c (fun x => { x with pendingRows := [], poison := [] })]),
  fun _ => [.clearMem 0 (20 * dramSpan)],
  Act.guard (!failed.isEmpty || s.cols.any (fun e => !e.2.pendingRows.isEmpty)) healthChange] s

/-- Every column is marked failed. -/
def allFailed (s : State) : Bool := (List.range 20).all (fun c => (s.col c).failed)

/-- The next phase begins. -/
def nextPhase : Act := fun s =>
  if allFailed s then bootStop .allColumns s else modHub (fun h => { h with stage := h.stage + 1 }) s

/-- Phase 8 ends: the device is ready. -/
def bootReady : Act := fun s => Act.all [modHub (fun h => { h with ready := true }), Act.guard s.hub.warm (irq 0 1)] s

/-- Start-up is under way. -/
def starting (s : State) : Bool :=
  s.hub.pwrOk && !s.hub.stopped && !s.hub.bootFail && !s.hub.ready && s.hub.stage != 0

/-- A phase ends (R365). -/
def phaseEnd (ms : BitVec 32) (failed : List FailedUnit) : Act := fun s =>
  if !starting s then [] else
  let k := s.hub.stage.toNat
  let log : Act := modHub (fun h => { h with bootlog := Tab.set 0xFFFFFFFF h.bootlog k ms })
  match k with
  | 1 => bootPhase1 (Act.all [log, nextPhase]) s
  | 2 => Act.all [bootPhase2, log, nextPhase] s
  | 5 => Act.all [bootPhase5 failed, log, nextPhase] s
  | 6 => Act.all [bootPhase6 failed, log, nextPhase] s
  | 7 => Act.all [failTests failed, log, nextPhase] s
  | 8 => Act.all [log, bootReady] s
  | _ => Act.all [log, nextPhase] s

/-- STARTUP_PHASE_END (R365, R373). -/
def execStartupPhaseEnd (ms : BitVec 32) (failed : List FailedUnit) (s : State) : Host.Outcome State Fault Refusal :=
  .next ((phaseEnd ms failed).run s)

/-- A unit is still running at its phase's maximum, or a phase passes it for any other cause (R366, R407). -/
def watchdog (unit : Option FailedUnit) (cause : BootFail) : Act := fun s =>
  if !starting s then [] else
  let k := s.hub.stage.toNat
  match unit with
  | some (.column c) =>
    if k == 5 || k == 6 then Act.all [failUnit true (.column c), healthChange, Act.when allFailed (bootStop .allColumns)] s
    else bootStop cause s
  | some (.linkDie d) => if k == 5 then Act.all [failUnit true (.linkDie d), healthChange] s else bootStop cause s
  | _ => bootStop (if k == 1 && s.hub.railsWait then .regulator else cause) s

/-- PHASE_WATCHDOG_EXPIRY (R366). -/
def execPhaseWatchdogExpiry (unit : Option FailedUnit) (cause : BootFail) (s : State) :
    Host.Outcome State Fault Refusal := .next ((watchdog unit cause).run s)

end Sys2Proof.Machine
end

