-- ==== Sys2Proof/Machine/Control.lean ====
section
/-!
DEFINITION. Control instructions (R84 to R87).
-/
namespace Sys2Proof.Machine

/-- A control instruction that takes no time of its own: it becomes no operation in flight. -/
def goControl (act : Act) : Verdict := .go { dur := 0, inFlight := false, act := fun _ => act }

/-- NOP (R84): does nothing; it may be timed. -/
def execNop (sid : StreamId) (w : InsnWord) (s : State) : Host.Outcome State Fault Refusal :=
  .next ((issue sid w (opc w == 0x00) (fun _ => goControl Act.skip)).run s)

/-- STRIKE (R84): does nothing at its strike. -/
def execStrike (sid : StreamId) (w : InsnWord) (s : State) : Host.Outcome State Fault Refusal :=
  .next ((issue sid w (opc w == 0x01) (fun _ => goControl Act.skip)).run s)

/-- CHK of an EPOCH and its number (R85). -/
def chkFails (w : InsnWord) (e : BitVec 32) : Bool := bit w 104 && fld w 0 32 != e.toNat

/-- A marker (R85): waits until the binding epoch passes the stream epoch, then advances the stream epoch. -/
def markerBody (c : Ctx) : Verdict :=
  let e := c.st.epoch + 1
  if 2 ^ 31 ≤ (c.p.run.bindingEpoch - e).toNat then .wait 5
  else if chkFails c.w e then .fault .epoch 0 0
  else goControl (modStream c.sid (fun t => { t with epoch := e }))

/-- The leader at its strike (R85, R286, R287). Until a snapshot epoch's partition is quiescent, the partition stalls as at a latch
wait; its engines and its PSC go on (DEDUCED, log entry 42: a frozen PSC could never become quiescent). -/
def leaderBody (c : Ctx) : Verdict :=
  let r := c.p.run
  let e := r.bindingEpoch + 1
  let snap := c.p.snap
  let armed := snap.arm && snap.epoch == e
  if armed && snap.state == .draining then
    .stall 3 (snapStall c.n 0)
  else if armed && !quiescent c.s c.n c.sid then .stall 3 (stall c.n leaderStall.1 leaderStall.2)
  else if r.streams.any (fun t => t.sid != c.sid && !t.halted && decide (2 ^ 31 ≤ (t.epoch - r.bindingEpoch).toNat)) ||
      chkFails c.w e then .fault .epoch 0 0
  else goControl (Act.all [
    unstall c.n leaderStall.1 leaderStall.2, modStream c.sid (fun t => { t with epoch := e }),
    epochStrike c.n (strikeOf r c.st c.w), retryHeads c.n])

/-- EPOCH with SUB 0 (R85): the partition's leader, or another hosted rank's, which acts as a marker. -/
def execEpochLeader (sid : StreamId) (w : InsnWord) (s : State) : Host.Outcome State Fault Refusal :=
  .next ((issue sid w (opc w == 0x02 && sub w == 0) (if isLeader sid then leaderBody else markerBody)).run s)

/-- EPOCH with SUB 1 (R85). -/
def execEpochMarker (sid : StreamId) (w : InsnWord) (s : State) : Host.Outcome State Fault Refusal :=
  .next ((issue sid w (opc w == 0x02 && sub w == 1) markerBody).run s)

/-- Sets loop counter `i`. -/
def Stream.setCtr (t : Stream) (i : Nat) (v : BitVec 32) : Stream :=
  if i == 0 then { t with ctr0 := v } else if i == 1 then { t with ctr1 := v }
  else if i == 2 then { t with ctr2 := v } else { t with ctr3 := v }

/-- LOOP (R86). Its target lies BACK instructions before it. -/
def loopBody (c : Ctx) : Verdict :=
  let i := fld c.w 56 2
  let v := c.st.ctr i
  let cnt := fld c.w 0 32
  if !c.q.res then .fault .loop 0 0
  else if cnt = 0 ∨ v.toNat + 1 < cnt then
    .go { dur := 0, inFlight := false, next := some (c.q.head - BitVec.ofNat 32 (fld c.w 32 24)),
          act := fun _ => modStream c.sid (fun t => t.setCtr i (v + 1)) }
  else goControl (modStream c.sid (fun t => t.setCtr i 0))

/-- LOOP (R86). -/
def execLoop (sid : StreamId) (w : InsnWord) (s : State) : Host.Outcome State Fault Refusal :=
  .next ((issue sid w (opc w == 0x03) loopBody).run s)

/-- The end of the partition when every stream has issued HALT (R87). -/
def allHalted (n : Nat) : Act := fun s =>
  if (s.part n).run.streams.all (·.halted) then
    Act.all [modPart n (fun p => { p with load := { p.load with state := .done } }), irqPart n 0] s
  else []

/-- HALT (R87), with the trace entry of R272. -/
def haltBody (c : Ctx) : Verdict :=
  .go { dur := 0, inFlight := false, act := fun _ => Act.all [
    modStream c.sid (fun t => { t with halted := true }),
    fun s => Act.guard (s.part c.n).recd.trace (match stream s c.sid with
      | some t => traceEntry c.n t
      | none => Act.skip) s,
    setWait c.st.queue 9 c.psc, allHalted c.n] }

/-- HALT (R87). -/
def execHalt (sid : StreamId) (w : InsnWord) (s : State) : Host.Outcome State Fault Refusal :=
  .next ((issue sid w (opc w == 0x04) haltBody).run s)

/-- TRAP (R87): a program fault that records CODE [7:0]. -/
def execTrap (sid : StreamId) (w : InsnWord) (s : State) : Host.Outcome State Fault Refusal :=
  .next ((issue sid w (opc w == 0x05) (fun c => .fault .trap (fld c.w 0 8) 0)).run s)

end Sys2Proof.Machine
end

