-- ==== Sys2Proof/Machine/Regs.lean ====
section
/-!
DEFINITION. The register map (R417 to R419 and the home rules of its registers): the value that a 32 bit read of a BAR0 offset
returns. Reserved bits and unmapped offsets read 0 (R418).
-/
namespace Sys2Proof.Machine

/-- A word of fields. -/
def w32 (fs : List (Nat × Nat)) : BitVec 32 := pack 32 fs

/-- Low and high half of a 64 bit value. -/
def lo32 (v : BitVec 64) : BitVec 32 := v.setWidth 32
def hi32 (v : BitVec 64) : BitVec 32 := (v >>> 32).setWidth 32

/-- A 64 bit value with one half replaced. -/
def setHalf (v : BitVec 64) (high : Bool) (w : BitVec 32) : BitVec 64 := if high then w ++ lo32 v else hi32 v ++ w

/-- Number of a reading function, for the latches of R350 and R394. -/
def fnLatch : Fn → Nat
  | .pf => 0
  | .vf k => k + 1
  | .mgmt => mgmtFn
  | .peer => mgmtFn + 1

/-- Key of the latched high word at an offset. -/
def latchKey (fn : Fn) (off : Nat) : Nat := fnLatch fn * 2 ^ 28 + off

/-! ### Hub -/

/-- `HUB_STATUS` (R371). -/
def hubStatus (s : State) : BitVec 32 :=
  let h := s.hub
  w32 [(31, b2n h.ready), (30, b2n (replaceBit s)), (29, b2n (timeRuns s.tim.state)), (28, b2n h.topoSettled),
    (27, b2n h.dupnum), (26, b2n h.warm), (25, b2n h.slotFallback), (24, b2n h.bootFail), (16, h.stage.toNat),
    (8, h.failcode.toNat)]

/-- A byte of `HUB_TOPO` (R380). -/
def topoDist (s : State) (dev : Nat) : Nat :=
  if s.hub.devnoValid && s.hub.devno.toNat == dev then 0 else s.hub.dist dev

/-- `HUB_TOPO_STAT` (R380). -/
def topoStat (s : State) : BitVec 32 :=
  let seen := (s.hub.topo.filter (fun e => e.1 != s.hub.devno.toNat)).map (fun e => 255 - e.2.toNat)
  w32 [(31, b2n s.hub.topoSettled), (30, b2n s.hub.topoDup), (17, seen.foldl max 0), (0, seen.length + 1)]

/-- `HUB_ALERT` (R401). -/
def alertWord (s : State) : BitVec 32 := w32 [(0, s.hub.alert.toNat % 2), (1, b2n s.hub.bootFail),
  (2, s.hub.alert.toNat / 4)]

/-- `HUB_LOAD[n]` (R98). -/
def loadReg (p : Part) (r : Nat) : BitVec 32 :=
  if r = 4 then w32 [(28, loadCode p.load.state), (0, p.load.result.toNat)]
  else if r = 8 then lo32 p.load.param else if r = 0xC then hi32 p.load.param else 0

/-- `HUB_PFAULT[n]` (R94). -/
def pfaultReg (p : Part) (r : Nat) : BitVec 32 :=
  let f := p.pfault
  if r = 0 then w32 [(31, b2n f.valid), (16, f.haz.toNat), (8, f.detail.toNat), (0, f.code.toNat)]
  else if r = 4 then f.whr else if r = 8 then f.qpos
  else if 0x10 ≤ r ∧ r < 0x20 then BitVec.ofNat 32 (fld f.insn ((r - 0x10) * 8) 32)
  else if r = 0x20 then lo32 f.psc else if r = 0x24 then hi32 f.psc
  else if r = 0x28 then lo32 f.addr else if r = 0x2C then hi32 f.addr
  else if r = 0x30 then f.whr2 else if r = 0x34 then f.qpos2
  else if r = 0x38 then lo32 f.psc2 else if r = 0x3C then hi32 f.psc2
  else if r = 0x40 then f.count else 0

/-- `HUB_CTX[n]` (R170). -/
def ctxReg (p : Part) (r : Nat) : BitVec 32 :=
  if r = 4 then w32 [(31, b2n p.ctx.busy), (0, p.ctx.result.toNat)]
  else if r = 8 then lo32 p.ctx.addr else if r = 0xC then hi32 p.ctx.addr else if r = 0x10 then p.ctx.len else 0

/-- `HUB_SYNC[n]` (R173). -/
def syncReg (p : Part) (r : Nat) : BitVec 32 :=
  let y := p.sync
  if r = 0 then w32 [(31, b2n y.dlValid), (16, y.dlLqtr.toNat), (0, y.dlKind.toNat)]
  else if r = 4 then w32 [(0, y.dlLatch.toNat)]
  else if r = 8 then lo32 y.dlTarget else if r = 0xC then hi32 y.dlTarget
  else if r = 0x10 then y.stale else if r = 0x14 then w32 [(0, p.run.held.length)]
  else if r = 0x18 then w32 [(0, p.run.tags.length)] else 0

/-- `HUB_REC[n]` (R278). A window written and not yet in force reads as written. -/
def recReg (p : Part) (r : Nat) : BitVec 32 :=
  let x := p.recd
  if r = 0 then w32 [(31, b2n x.fp), (30, b2n x.replay), (29, b2n x.stopmm), (28, b2n x.trace), (16, x.log2.toNat)]
  else if r = 4 then w32 [(31, b2n x.cfgErr), (30, b2n x.ovf), (29, b2n x.mm), (28, b2n x.win), (27, b2n x.corrupt),
    (26, b2n x.nodata), (25, b2n x.endd)]
  else if r = 8 then lo32 x.logBase else if r = 0xC then hi32 x.logBase
  else if r = 0x10 then lo32 x.dataBase else if r = 0x14 then hi32 x.dataBase
  else if r = 0x18 then x.dataSize else if r = 0x1C then x.winFirstNext else if r = 0x20 then x.winLastNext
  else if r = 0x24 then x.logWr else if r = 0x28 then x.logRd else if r = 0x2C then x.dataWr else if r = 0x30 then x.dataRd
  else if r = 0x34 then x.dropped else if r = 0x38 then x.mmCount
  else if r = 0x40 then lo32 x.mmPsc else if r = 0x44 then hi32 x.mmPsc
  else if r = 0x48 then x.mmPeer else if r = 0x4C then x.mmTk
  else if r = 0x50 then lo32 x.mmRec else if r = 0x54 then hi32 x.mmRec
  else if r = 0x58 then lo32 x.mmGot else if r = 0x5C then hi32 x.mmGot else 0

/-- `HUB_RWD[n]` (R312). -/
def rwdReg (p : Part) (r : Nat) : BitVec 32 :=
  if r = 4 then w32 [(31, b2n p.ctx.rwdBusy), (0, p.ctx.rwdResult.toNat)]
  else if r = 8 then w32 [(8, p.ctx.substMux.toNat), (0, p.ctx.substCells.toNat)] else 0

/-- Quarters in a mask. -/
def maskCount (m : BitVec 80) : Nat := ((List.range 80).filter (fun q => m.getLsbD q)).length

/-- `HUB_PART[n]` (R329). `WARD` is the tag of R333; before the first load it has its reset value 0 (DEDUCED, log
entry 69). -/
def partReg (p : Part) (n r : Nat) : BitVec 32 :=
  let c := p.cfg
  if r = 0 then w32 [(31, b2n c.en), (30, b2n c.vfown)]
  else if r = 4 then w32 [(16, if p.cfg.tagged then p.tag n else 0), (15, b2n c.cfgErr), (0, maskCount c.qmask)]
  else if r = 8 then BitVec.ofNat 32 (fld c.qmask 0 32) else if r = 0xC then BitVec.ofNat 32 (fld c.qmask 32 32)
  else if r = 0x10 then BitVec.ofNat 32 (fld c.qmask 64 16)
  else if r = 0x14 then w32 [(0, c.cap.toNat)] else if r = 0x18 then w32 [(0, c.pwr.toNat)]
  else if r = 0x1C then c.lkrej else 0

/-- A word of little-endian bytes. -/
def wordOf (f : Nat → Nat) : BitVec 32 := w32 [(0, f 0 % 256), (8, f 1 % 256), (16, f 2 % 256), (24, f 3 % 256)]

/-- The hub's registers. -/
def hubReg (s : State) (a : Nat) : BitVec 32 :=
  let h := s.hub
  if a = 0 then hubIdWord s.fuses
  else if a = 4 then w32 [(31, b2n h.devnoValid), (0, h.devno.toNat)]
  else if a = 8 then hubStatus s
  else if a = 0x10 then hubConfigWord s.fuses
  else if a = 0x30 then topoStat s
  else if 0x40 ≤ a ∧ a < 0x60 then Tab.get 0xFFFFFFFF h.bootlog ((a - 0x40) / 4 + 1)
  else if a = 0x60 then w32 [(0, h.repl.toNat)]
  else if a = 0x64 then w32 [(12, h.ceMax.toNat), (5, h.laneMax.toNat), (2, h.chMin.toNat), (0, h.cellMin.toNat)]
  else if a = 0x68 then w32 [(24, h.dbCount.toNat), (16, h.dbCause.toNat), (8, h.dbDie.toNat), (0, h.dbUnit.toNat)]
  else if a = 0x74 then w32 [(31, b2n h.katBusy), (24, h.katSuite.toNat), (0, h.katResult.toNat)]
  else if a = 0x78 then h.katFail
  else if a = 0x80 then w32 [(31, b2n s.fuses.debugOff), (1, b2n h.debugRefused), (0, b2n h.debugMode)]
  else if a = 0x90 then lo32 h.aper else if a = 0x94 then hi32 h.aper
  else if a = 0x98 then alertWord s else if a = 0x9C then h.alertEn
  else if 0x2000 ≤ a ∧ a < 0x2800 then loadReg (s.part ((a - 0x2000) / 0x40)) (a % 0x40)
  else if 0x3000 ≤ a ∧ a < 0x4000 then pfaultReg (s.part ((a - 0x3000) / 0x80)) (a % 0x80)
  else if 0x4000 ≤ a ∧ a < 0x4400 then ctxReg (s.part ((a - 0x4000) / 0x20)) (a % 0x20)
  else if 0x4400 ≤ a ∧ a < 0x4800 then syncReg (s.part ((a - 0x4400) / 0x20)) (a % 0x20)
  else if a = 0x5FFC then h.staleWr
  else if 0x6000 ≤ a ∧ a < 0x8000 then
    wordOf (fun i => ((slice (Tab.get [] h.staleLog ((a - 0x6000) / 32)) (a % 32 + i) 1).headD 0).toNat)
  else if 0x8000 ≤ a ∧ a < 0x9000 then recReg (s.part ((a - 0x8000) / 0x80)) (a % 0x80)
  else if 0x9000 ≤ a ∧ a < 0x9400 then rwdReg (s.part ((a - 0x9000) / 0x20)) (a % 0x20)
  else if 0xA000 ≤ a ∧ a < 0xA800 then partReg (s.part ((a - 0xA000) / 0x40)) ((a - 0xA000) / 0x40) (a % 0x40)
  else if 0x10000 ≤ a ∧ a < 0x20000 then wordOf (fun i => topoDist s (a - 0x10000 + i))
  else 0

/-! ### TIM -/

/-- Number of a time state (R36). -/
def timeCodeOf : TimeState → Nat
  | .unlocked => 0 | .acquiring => 1 | .locked => 2 | .holdover => 3 | .lost => 4 | .pintle => 5 | .pintleFree => 6

/-- `TIM_DOM[n]` (R37). The high words of its 64 bit registers read as latched. -/
def domReg (s : State) (n r : Nat) (latched : BitVec 32) : BitVec 32 :=
  let d := s.dom n
  if r = 0 then w32 [(31, b2n d.active), (16, d.domain.toNat), (8, d.diam.toNat)]
  else if r = 4 then w32 [(31, b2n d.held), (30, b2n d.broken), (29, b2n (stalled s n))]
  else if r = 8 then lo32 d.origin else if r = 0x10 then lo32 (d.heldNow s.tim.hall) else if r = 0x18 then lo32 d.psc
  else if r = 0xC ∨ r = 0x14 ∨ r = 0x1C then latched
  else if r = 0x20 then d.lag s.tim.hall else if r = 0x24 then d.holdCount else if r = 0x28 then d.lateStrike else 0

/-- TIM (R36, R37, R379). -/
def timReg (s : State) (a : Nat) (latched : BitVec 32) : BitVec 32 :=
  let t := s.tim
  if a = 0 then w32 [(24, timeCodeOf t.state), (20, t.depth.toNat), (18, t.parentDie.toNat), (13, t.parentLink.toNat)]
  else if a = 8 then lo32 t.hall else if a = 0xC then latched
  else if a = 0x10 then w32 [(8, b2n t.src), (0, t.pri.toNat)]
  else if a = 0x14 then w32 [(24, t.idPri.toNat), (0, t.idDev.toNat)]
  else if a = 0x18 then w32 [(0, t.lead.toNat)] else if a = 0x1C then w32 [(0, t.maxMs.toNat)]
  else if a = 0x20 then w32 [(0, t.int.toNat)] else if a = 0x24 then w32 [(16, t.delay.toNat), (0, t.offset.toNat)]
  else if 0x1000 ≤ a ∧ a < 0x1800 then domReg s ((a - 0x1000) / 0x40) (a % 0x40) latched
  else 0

/-! ### SEC and KWY -/

/-- A command block with STATUS and two addresses (R284, R342). -/
def cmdBlock (busy : Bool) (result : BitVec 8) (x y : BitVec 64) (r : Nat) : BitVec 32 :=
  if r = 4 then w32 [(31, b2n busy), (0, result.toNat)]
  else if r = 8 then lo32 x else if r = 0xC then hi32 x else if r = 0x10 then lo32 y else if r = 0x14 then hi32 y else 0

/-- STATE of `SEC_FWUP` (R348). -/
def fwCode : FwState → Nat
  | .none => 0 | .staging => 1 | .staged => 2 | .window => 3

/-- Byte of the certificate chain (R341). -/
def certAt (i : Nat) : Nat := if i < Config.certLen.toNat then (Config.certByte i).toNat else 0

/-- SEC (R171, R284, R337, R341, R342, R346, R348). -/
def secReg (s : State) (a : Nat) : BitVec 32 :=
  let x := s.sec
  if a = 0x20 then Config.certLen
  else if a = 0x100 then w32 [(31, b2n x.dumpBusy)]
  else if a = 0x108 then lo32 x.dumpAddr else if a = 0x10C then hi32 x.dumpAddr else if a = 0x110 then x.dumpLen
  else if 0x200 ≤ a ∧ a < 0x220 then cmdBlock x.rcptBusy x.rcptResult x.rcptReq x.rcptOut (a % 0x20)
  else if 0x300 ≤ a ∧ a < 0x320 then cmdBlock x.attBusy x.attResult x.attReq x.attOut (a % 0x20)
  else if a = 0x404 then w32 [(28, fwCode x.fwState), (0, x.fwResult.toNat)]
  else if a = 0x408 then lo32 x.fwAddr else if a = 0x40C then hi32 x.fwAddr
  else if a = 0x410 then lo32 x.actTime else if a = 0x414 then hi32 x.actTime
  else if 0x1000 ≤ a ∧ a < 0x1400 then
    let k := (s.part ((a - 0x1000) / 0x20)).key
    if a % 0x20 < 0x10 then cmdBlock k.keyBusy k.keyResult k.keyAddr 0 (a % 0x20) else 0
  else if 0x2000 ≤ a ∧ a < 0x2400 then
    let k := (s.part ((a - 0x2000) / 0x20)).key
    if a % 0x20 < 0x10 then cmdBlock k.decBusy k.decResult k.decAddr 0 (a % 0x20) else 0
  else if 0x8000 ≤ a ∧ a < 0x10000 then wordOf (fun i => certAt (a - 0x8000 + i))
  else 0

/-- STATE of `KWY_SNAP[n]` (R302). -/
def snapCode : SnapState → Nat
  | .idle => 0 | .armed => 1 | .draining => 2 | .done => 3 | .aborted => 4

/-- `KWY_SNAP[n]` (R302, R293). -/
def snapReg (p : Part) (r : Nat) : BitVec 32 :=
  let x := p.snap
  if r = 0 then w32 [(31, b2n x.arm), (30, b2n x.dest), (8, x.buf.toNat)]
  else if r = 4 then x.epoch
  else if r = 8 then lo32 x.daddr else if r = 0xC then hi32 x.daddr
  else if r = 0x10 then w32 [(0, x.peer.toNat)] else if r = 0x14 then x.grant
  else if r = 0x18 then w32 [(28, snapCode x.state), (27, b2n x.cfgErr), (26, b2n x.rbusy)]
  else if r = 0x1C then (match p.obj with
    | some o => w32 [(0, imageSize o / mib)]
    | none => 0)
  else if r = 0x20 then x.bufmax else if r = 0x24 then x.stalls
  else if r = 0x28 then w32 [(0, x.marked.length + x.pages.length + (x.reading.filter (fun e => !e.2.2.2)).length)]
  else if r = 0x30 then lo32 x.raddr else if r = 0x34 then hi32 x.raddr
  else if r = 0x38 then x.rsrc else if r = 0x3C then w32 [(24, x.rresult.toNat), (0, x.rown.toNat)] else 0

/-- KWY (R204, R302). -/
def kwyReg (s : State) (a : Nat) : BitVec 32 :=
  if a = 0 then
    w32 [(31, b2n (s.kwy.busy || s.parts.any (fun e => e.2.load.state == .loading))), (16, b2n s.kwy.cfgErr),
      (0, s.kwy.badaddr.toNat)]
  else if 0x100 ≤ a ∧ a < 0x300 then
    let k := (s.part ((a - 0x100) / 0x10)).kwy
    let r := a % 0x10
    if r = 0 then w32 [(31, b2n k.winEn), (10, k.winSize.toNat), (0, k.winBase.toNat)]
    else if r = 8 then lo32 k.haddr else if r = 0xC then hi32 k.haddr else 0
  else if 0x400 ≤ a ∧ a < 0x800 then
    let k := (s.part ((a - 0x400) / 0x20)).kwy
    let r := a % 0x20
    if r = 0 then k.dramPages else if r = 4 then k.hostPages else if r = 8 then k.moves
    else if r = 0xC then k.defer else if r = 0x10 then k.rrej else 0
  else if 0x800 ≤ a ∧ a < 0x1000 then snapReg (s.part ((a - 0x800) / 0x40)) (a % 0x40)
  else 0

/-! ### FLT and PMC -/

/-- FLT (R321). -/
def fltReg (s : State) (a : Nat) : BitVec 32 :=
  let f := s.flt
  if a = 0 then f.wr else if a = 4 then w32 [(0, f.page.toNat)]
  else if a = 0xC then w32 [(31, b2n f.busy), (30, b2n f.err), (0, lastSeq s % 65536)]
  else if a = 0x10 then lo32 f.cperBase else if a = 0x14 then hi32 f.cperBase
  else if a = 0x18 then w32 [(31, b2n f.cperEn), (0, f.cperLog2.toNat)]
  else if a = 0x1C then f.cperWr else if a = 0x20 then f.cperRd
  else if 0x10000 ≤ a ∧ a < 0x20000 then
    wordOf (fun i => ((slice (fltBytes f (f.page.toNat * 2048 + (a - 0x10000) / 32)) (a % 32 + i) 1).headD 0).toNat)
  else 0

/-- The counter at a PMC offset (R351), with the die it is sampled on: its index, and mesh crossings from the hub (R358). -/
def counterAt (a : Nat) : Option (Nat × Nat) :=
  let far (p : Nat × Nat) : Nat := (max p.1 2 - min p.1 2) + (max p.2 2 - min p.2 2)
  if a < 0x14000 then
    (if a % 0x1000 < 0xC0 * 8 then some (ctrCol (a / 0x1000) (a % 0x1000 / 8), far (colPos (a / 0x1000))) else none)
  else if 0x60000 ≤ a ∧ a < 0x68000 then
    let d := (a - 0x60000) / 0x2000
    let r := a % 0x2000
    if r < 0x1200 then some (ctrLink d (r / 0xC0) (r % 0xC0 / 8), 2)
    else if r < 0x1400 then some (ctrDie d ((r - 0x1200) / 8), 2) else none
  else if 0x80000 ≤ a ∧ a < 0x80800 then some (ctrHub ((a - 0x80000) / 8), 0)
  else if 0xA0000 ≤ a ∧ a < 0xA8000 ∧ a % 0x400 < 0x48 * 8 then some (ctrBank ((a - 0xA0000) / 0x400) (a % 0x400 / 8), 0)
  else none

/-- The 48 bits of a counter. Entry 0x0D of a bank is the smallest slack (R355); a VF sees some entries late and the energy
not at all (R354). -/
def counterVal (s : State) (vf : Bool) (k : Nat) : BitVec 48 :=
  if 0x14000 ≤ k ∧ k < 0x15000 then
    let n := (k - 0x14000) / 0x80
    let e := k % 0x80
    if e = 0x0D then s.pmc.slack n
    else if vf ∧ e = 0x2C then 0
    else if vf ∧ e = 0x01 then (s.part n).cfg.vfStall
    else if vf ∧ e = 0x08 then (s.part n).cfg.vfPower
    else if vf ∧ e = 0x2B then (s.part n).cfg.vfFrames
    else Tab.get 0 s.pmc.ctr k
  else Tab.get 0 s.pmc.ctr k

/-- A register of a filter set (R356): it reads as written. -/
def filterReg (f : Filter) (r : Nat) : BitVec 32 :=
  if r = 0 then f.fctl else if r = 4 then f.pmask else if r = 8 then lo32 f.alo else if r = 0xC then hi32 f.alo
  else if r = 0x10 then lo32 f.ahi else if r = 0x14 then hi32 f.ahi else 0

/-- The filter set at a PMC offset: block and register. -/
def filterAt (a : Nat) : Option (Nat × Nat) :=
  if a < 0x14000 ∧ 0x800 ≤ a % 0x1000 ∧ a % 0x1000 < 0x818 then some (a / 0x1000, a % 0x1000 - 0x800)
  else if 0x60000 ≤ a ∧ a < 0x68000 ∧ 0x1800 ≤ a % 0x2000 ∧ a % 0x2000 < 0x1818 then
    some (20 + (a - 0x60000) / 0x2000, a % 0x2000 - 0x1800)
  else none

/-- `PMC_PHOLD[n]` (R361, R410). -/
def pholdReg (s : State) (n : Nat) : BitVec 32 := w32 [(31, b2n (effDuty s n != 0)), (0, (effDuty s n).toNat)]

/-- The die of a block on a link die is absent (R4). -/
def absentDie (s : State) (d : Nat) : Bool := !s.fuses.linkPresent.getLsbD d

/-- PMC (R351 to R361). -/
def pmcReg (s : State) (fn : Fn) (a : Nat) (latched : BitVec 32) : BitVec 32 :=
  if 0x60000 ≤ a ∧ a < 0x68000 ∧ absentDie s ((a - 0x60000) / 0x2000) then 0
  else match counterAt a with
  | some (k, _) => if a % 8 = 4 then latched else (counterVal s (fnIdx fn != 0) k).setWidth 32
  | none => match filterAt a with
    | some (b, r) => filterReg (Tab.get {} s.pmc.written b) r
    | none =>
      if a = 0xF0000 then lo32 (Tab.get 0 s.pmc.rstamp (fnLatch fn)) else if a = 0xF0004 then latched
      else if 0xF0100 ≤ a ∧ a < 0xF0180 then pholdReg s ((a - 0xF0100) / 4)
      else 0

/-! ### HDMA, QCTL, columns, link dies -/

/-- `HDMA_CH[k]` (R419). -/
def hdmaReg (s : State) (k : Nat) : BitVec 32 :=
  let c := Tab.get {} s.pcie.hdma k
  let p := s.part c.part.toNat
  let busy : Bool := c.bound && p.run.ops.any (fun o => o.sid.kind == .hdma && p.channel o.sid == some k)
  w32 [(31, b2n c.bound), (30, b2n busy), (24, c.part.toNat), (16, c.lch.toNat)]

/-- A queue's registers (R169). -/
def queueReg (q : Queue) (r : Nat) : BitVec 32 :=
  if r = 0 then lo32 q.base else if r = 4 then hi32 q.base
  else if r = 8 then w32 [(31, b2n q.en), (30, b2n q.res), (25, q.part.toNat), (16, q.kind.toNat), (8, q.lqtr.toNat),
    (0, q.log2.toNat)]
  else if r = 0xC then q.head else if r = 0x10 then q.tail
  else if r = 0x14 then w32 [(31, b2n q.dberr), (0, q.wait.toNat)]
  else if r = 0x18 then lo32 q.wpsc else if r = 0x1C then hi32 q.wpsc else 0

/-- `COL_HEALTH` (R327). -/
def colHealth (s : State) (c : Nat) : BitVec 32 :=
  let x := s.col c
  w32 [(31, b2n x.failed), (30, b2n x.cfgErr), (24, x.qfail.toNat), (21, (freeChannels x).length), (19, freeSpares s c),
    (0, x.fenced.toNat)]

/-- Column fault registers (R327). -/
def colReg (s : State) (c r : Nat) : BitVec 32 :=
  let x := s.col c
  if r = 0 then w32 [(0, x.rate.toNat)] else if r = 4 then colHealth s c
  else if r = 8 then x.shadowMm else if r = 0xC then x.shadowStop else if r = 0x10 then x.eccCe else if r = 0x14 then x.eccUe
  else if r = 0x18 then w32 [(0, (x.rowsUsed.map (·.2)).sum)] else if r = 0x1C then x.kat
  else if r = 0x20 then w32 [(31, b2n x.mmValid), (24, x.mmPart.toNat), (16, x.mmLqtr.toNat), (8, x.mmCell.toNat),
    (0, x.mmSpare.toNat)]
  else if r = 0x24 then lo32 x.mmPsc else if r = 0x28 then hi32 x.mmPsc else if r = 0x2C then x.mmQpos else 0

/-- Number of a cell's role (R124). -/
def roleCode : Role → Nat
  | .unbound => 0 | .bound => 1 | .shadowing => 2 | .fenced => 3

/-- The compute unit of a cell holds an instruction (R124), issued by its CELL stream or by a UU stream that has borrowed it
(R264), or re-executes one as a spare that shadows (R120). -/
def cellBusy (s : State) (k : Nat) : Bool :=
  s.parts.any (fun e => e.2.run.ops.any (fun o => cellUnit e.2 o.sid o.unit == some (k, 0))) || (s.cell k).shadowOf.isSome

/-- A cell's registers (R71, R124). -/
def cellReg (s : State) (c p r : Nat) : BitVec 32 :=
  let k := c * 18 + p
  let x := s.cell k
  if r = 0 then w32 [(30, roleCode x.role), (29, b2n (decide (16 ≤ p))), (28, b2n (cellBusy s k)), (27, b2n x.mode),
    (16, x.fault.toNat)]
  else if r = 4 then w32 [(31, b2n x.valid), (24, x.part.toNat), (16, x.lqtr.toNat), (0, x.lcell.toNat)]
  else if r = 0x40 then x.retryPass else if r = 0x44 then w32 [(16, x.maxRepeat.toNat), (0, x.nonfin.toNat)]
  else if r = 0x48 then x.shadowDone else if r = 0x4C then x.shadowSkip else 0

/-- The UU stream that a physical quarter serves, with whether a UU operation of it is in flight. -/
def uuStream (s : State) (q : Nat) : Option (Stream × Bool) := s.parts.findSome? (fun e =>
  (e.2.run.streams.find? (fun t => t.sid.kind == .uu && e.2.quarter t.sid.own t.sid.unit == some q)).map (fun t =>
    (t, e.2.run.ops.any (fun o => o.sid == t.sid && o.unit == unitUu))))

/-- UU registers (R267). -/
def uuRegVal (s : State) (q r : Nat) : BitVec 32 :=
  let u := s.uu q
  if r = 0 then
    let t := uuStream s q
    let mask := (t.map (·.1.bmask.toNat)).getD 0
    w32 [(31, b2n ((t.map (·.2)).getD false)), (30, b2n (mask != 0)), (24, mask),
      (22, (t.map (·.1.bsel.toNat)).getD 0), (20, u.lastDec.toNat)]
  else if r = 4 then u.upd else if r = 8 then u.skip else if r = 0xC then u.clip else if r = 0x10 then u.nonfin
  else if r = 0x18 then lo32 u.lastSq else if r = 0x1C then hi32 u.lastSq else 0

/-- A column's window (R327, R124, R267). -/
def columnReg (s : State) (c r : Nat) : BitVec 32 :=
  if 0x10000 ≤ r ∧ r < 0x10030 then colReg s c (r - 0x10000)
  else if 0x180000 ≤ r ∧ r < 0x180000 + 18 * 0x400 then cellReg s c ((r - 0x180000) / 0x400) (r % 0x400)
  else if 0x1C0000 ≤ r ∧ r < 0x1C0400 then uuRegVal s (4 * c + (r - 0x1C0000) / 0x100) (r % 0x100)
  else 0

/-- A link's registers (R225). -/
def linkRegVal (x : LinkReg) (r : Nat) : BitVec 32 :=
  if r = 0 then w32 [(28, x.state), (27, b2n x.spareIn), (25, x.spareFor.toNat), (24, b2n x.detour), (23, b2n x.long),
    (0, x.delay.toNat)]
  else if r = 4 then w32 [(31, b2n x.peerValid), (23, x.pdie.toNat), (18, x.plink.toNat), (0, x.pdev.toNat)]
  else if r = 8 then w32 [(31, b2n x.disable)]
  else if r = 0xC then w32 [(16, x.w3.toNat), (8, x.w2.toNat), (0, x.w1.toNat)]
  else if r = 0x10 then w32 [(0, x.err.toNat)] else if r = 0x14 then x.retx
  else if r = 0x18 then w32 [(16, (x.tumbler.filter (fun e => bit e.2 30 || bit e.2 29)).length), (0, x.tumbler.length)]
  else if r = 0x1C then w32 [(0, ((x.parked.filter (fun e => e.1 == 0)).map (fun e => msgBytes e.2)).sum)] else 0

/-- Partition n's CLX block on a link die (R250). -/
def clxReg (s : State) (d n r : Nat) : BitVec 32 :=
  let x := s.clx (d * 32 + n)
  if r = 0 then w32 [(31, b2n x.en), (24, ((s.part n).run.ops.filter (fun o => o.coll.isSome && o.sid.unit == d)).length),
    (16, x.lastSlot.toNat), (0, x.seq.toNat)]
  else if r = 4 then x.spill else if r = 8 then x.drop else if r = 0xC then x.skip else if r = 0x10 then x.late else 0

/-- A link die's window (R224 to R226, R250, R4). -/
def dieRegVal (s : State) (d r : Nat) : BitVec 32 :=
  if absentDie s d then 0
  else if r = 0 then w32 [(31, b2n (s.die d).calDone),
    (0, ((List.range 24).map (fun l => if (s.link ⟨d, l⟩).state == linkUp then 2 ^ l else 0)).sum)]
  else if 0x1000 ≤ r ∧ r < 0x1000 + 24 * 0x80 then linkRegVal (s.link ⟨d, (r - 0x1000) / 0x80⟩) (r % 0x80)
  else if 0x100000 ≤ r ∧ r < 0x100000 + 24 * 0x4000 then
    (if r % 0x4000 / 4 = 4095 then 0 else Tab.get 0 (s.link ⟨d, (r - 0x100000) / 0x4000⟩).tumbler (r % 0x4000 / 4))
  else if 0x200000 ≤ r ∧ r < 0x200000 + 24 * 0x8000 then
    let e := Tab.get 0 (s.link ⟨d, (r - 0x200000) / 0x8000⟩).route (r % 0x8000 / 8)
    if r % 0x8000 / 8 = 0 then 0 else if r % 8 = 4 then hi32 e else lo32 e
  else if 0x300000 ≤ r ∧ r < 0x300800 then clxReg s d ((r - 0x300000) / 0x40) (r % 0x40)
  else 0

/-! ### MGMT and MSI-X -/

/-- MGMT (R397). -/
def mgmtReg (s : State) (a : Nat) : BitVec 32 :=
  let m := s.mgmt
  if a = 0 then w32 [(24, m.frame.toNat), (16, m.short.toNat), (8, m.overrun.toNat), (0, m.badcmd.toNat)]
  else if a = 4 then w32 [(0, m.bank.toNat)] else if a = 8 then lo32 m.aper else if a = 0xC then hi32 m.aper
  else if a = 0x14 then w32 [(31, b2n m.flashBusy), (0, m.flashResult.toNat)]
  else if 0x1000 ≤ a ∧ a < 0x2000 then wordOf (fun i => (m.flashBuf.read (a - 0x1000 + i)).toNat)
  else 0

/-- Key of a word of a function's MSI-X table. -/
def msixKey (f w : Nat) : Nat := f * 256 + w

/-- A word of an MSI-X table (R388): address, data and the mask bit of each 16 byte entry, masked at reset (PRESUMED, log
entry 64). -/
def msixReg (p : Pcie) (f a : Nat) : BitVec 32 :=
  if a % 16 = 12 then w32 [(0, b2n (!p.unmasked.contains (f * 64 + a / 16)))] else Tab.get 0 p.msixTable (msixKey f (a / 4))

/-- A word of pending bits. -/
def pendingWord (p : Pcie) (f w : Nat) : BitVec 32 :=
  BitVec.ofNat 32 (((List.range 32).map (fun i => if p.pendingBits.contains (f * 64 + 32 * w + i) then 2 ^ i else 0)).sum)

/-! ### The whole map -/

/-- The value of a 4-byte aligned BAR0 offset of the physical function's map, as function `fn` reads it. -/
def regVal (s : State) (fn : Fn) (a : Nat) : BitVec 32 :=
  let latched := Tab.get 0 s.pcie.latches (latchKey fn a)
  if a < 0x100000 then hubReg s a
  else if a < 0x200000 then timReg s (a - 0x100000) latched
  else if a < 0x300000 then secReg s (a - 0x200000)
  else if a < 0x400000 then kwyReg s (a - 0x300000)
  else if a < 0x500000 then fltReg s (a - 0x400000)
  else if a < 0x800000 then pmcReg s fn (a - 0x500000) latched
  else if a < 0x800200 then (if a % 0x20 = 0 then hdmaReg s ((a - 0x800000) / 0x20) else 0)
  else if 0x900000 ≤ a ∧ a < 0xD00000 then queueReg (s.queue ((a - 0x900000) / 0x40)) (a % 0x40)
  else if 0x1000000 ≤ a ∧ a < 0x1000000 + 20 * 0x200000 then columnReg s ((a - 0x1000000) / 0x200000) (a % 0x200000)
  else if 0x4000000 ≤ a ∧ a < 0x5000000 then dieRegVal s ((a - 0x4000000) / 0x400000) (a % 0x400000)
  else if 0x5000000 ≤ a ∧ a < 0x5002000 then mgmtReg s (a - 0x5000000)
  else if 0x6000000 ≤ a ∧ a < 0x6000400 then msixReg s.pcie 0 (a - 0x6000000)
  else if 0x6008000 ≤ a ∧ a < 0x6008008 then pendingWord s.pcie 0 ((a - 0x6008000) / 4)
  else 0

/-- What an offset of VF n + 1's BAR shows (R386). -/
inductive View where
  | reg (off : Nat) (writable : Bool)
  | vpwr
  | msix (a : Nat)
  | pending (w : Nat)
  | bell (j : Nat) (high : Bool)
  | none
  deriving DecidableEq, Repr

/-- The view at an offset of VF n + 1's BAR (R386). -/
def vfView (n a : Nat) : View :=
  let at? (base size dst : Nat) (w : Bool) (rest : View) : View :=
    if base ≤ a ∧ a < base + size then .reg (dst + (a - base)) w else rest
  at? 0x0 0x40 (0x2000 + n * 0x40) true <|
  at? 0x100 0x80 (0x3000 + n * 0x80) false <|
  at? 0x200 0x20 (0x4400 + n * 0x20) false <|
  at? 0x300 0x80 (0x8000 + n * 0x80) true <|
  at? 0x400 0x20 (0x9000 + n * 0x20) true <|
  at? 0x500 0x20 (0x4000 + n * 0x20) true <|
  at? 0x600 0x40 (0x300800 + n * 0x40) true <|
  at? 0x700 0x40 (0x101000 + n * 0x40) false <|
  at? 0x800 0x20 (0x300400 + n * 0x20) false <|
  at? 0x900 0x20 0x200300 true <|
  at? 0xA00 0x20 (0x201000 + n * 0x20) true <|
  at? 0xB00 0x20 (0x202000 + n * 0x20) true <|
  at? 0xC04 4 (0x5F0100 + n * 4) false <|
  at? 0x1000 0x400 (0x5A0000 + n * 0x400) false <|
  if a = 0xC00 then .vpwr
  else if 0x2000 ≤ a ∧ a < 0x2080 then .msix (a - 0x2000)
  else if 0x3000 ≤ a ∧ a < 0x3008 then .pending ((a - 0x3000) / 4)
  else if 0x100000 ≤ a ∧ a < 0x104000 then .bell ((a - 0x100000) / 8) (a % 8 == 4)
  else .none

/-- The physical queue of a logical queue of a partition (R387). -/
def bellQueue (s : State) (n j : Nat) : Option Nat := ((s.part n).bind.queues.find? (fun e => e.1 == j)).map (·.2)

/-- The value of a 4-byte aligned offset as function `fn` reads its own BAR0. -/
def busVal (s : State) (fn : Fn) (a : Nat) : BitVec 32 := match fn with
  | .vf n => match vfView n a with
    | .reg off _ => regVal s fn off
    | .vpwr => w32 [(0, (s.part n).cfg.vpwr.toNat)]
    | .msix r => msixReg s.pcie (n + 1) r
    | .pending w => if w = 0 then pendingWord s.pcie (n + 1) 0 else 0
    | .bell j high => if high then 0 else ((bellQueue s n j).map (fun q => (s.queue q).head)).getD 0
    | .none => 0
  | _ => regVal s fn a

end Sys2Proof.Machine
end

