-- ==== Sys2Proof/WellFormed.lean ====
section
/-!
DEFINITION. Which commands are well formed: their numbers name objects that the device has (R1, R12, R328). A command
that is not has no effect: its object does not exist.
-/
namespace Sys2Proof

/-- A partition index (R328). -/
def partWf (n : Nat) : Bool := decide (n < 32)
/-- A function that exists: the PF, VF 0 to 31 or the management port (R382). -/
def fnWf : Fn → Bool
  | .vf k => decide (k < 32)
  | _ => true
/-- A link of one of the four link dies (R12). -/
def LinkId.wf (l : LinkId) : Bool := decide (l.die < 4) && decide (l.link < 24)
/-- A stream: its partition, its rank's index in OWN, and its unit (R77, R79, R99). -/
def StreamId.wf (t : StreamId) : Bool :=
  partWf t.part && decide (t.own < 8) &&
  (match t.kind with
   | .clx | .lmov => decide (t.unit < 4)
   | .hdma => decide (t.unit < 16)
   | _ => decide (t.unit < 80))
def colWf (c : Nat) : Bool := decide (c < 20)
/-- A channel of a column's stack: 64 and four spares (R306). -/
def channelWf (c : Nat) : Bool := decide (c < 68)

/-- A block read with errors (R180): its channel, a 64-byte boundary of column DRAM, and wrong symbols of its 68. -/
def BadBlock.wf (b : BadBlock) : Bool :=
  channelWf b.ch && b.addr % 64 == 0 && decide (b.addr < 20 * 0x800000000) && b.errs.all (fun e => decide (e.1 < 68) && e.2 != 0)

/-- The stream and word of a stream row. -/
def Instr.streamWord : Instr → Option (StreamId × InsnWord)
  | .nop t w | .strike t w | .epochLeader t w | .epochMarker t w | .loop t w | .halt t w | .trap t w | .ladd t w
  | .lwait t w | .lsig t w | .lbind t w | .harr t w | .hcfg t w | .cld t w | .cst t w | .mmw t w | .mma t w
  | .tbi t w | .tbd t w | .cmask t w | .vld t w | .vst t w | .vbcast t w | .var t w | .vint t w | .vcmp t w
  | .vsel t w | .vtr t w | .vtrExpd t w | .vred t w | .cvt t w | .vrnd t w | .vseed t w | .vstep t w | .mcpy t w
  | .pfh t w | .lwr t w | .lrd t w | .latom t w | .lset t w | .cdesc t w | .credReduce t w | .credAllreduce t w
  | .cbc t w | .ca2aEqual t w | .ca2aUnequal t w | .coaccSend t w | .coaccApply t w | .cring t w | .ucfgRule t w
  | .ucfgCombine t w | .uupd t w | .uchk t w | .ucomb t w | .ubor t w | .uborReturn t w | .hxferIn t w
  | .hxferOut t w | .hnote t w | .hirq t w => some (t, w)
  | _ => none

/-- The well-formed commands. -/
def Instr.wf : Instr → Bool
  | .nop t _ | .strike t _ | .epochLeader t _ | .epochMarker t _ | .loop t _ | .halt t _ | .trap t _ | .ladd t _
  | .lwait t _ | .lsig t _ | .lbind t _ | .harr t _ | .hcfg t _ | .cld t _ | .cst t _ | .mmw t _ | .mma t _
  | .tbi t _ | .tbd t _ | .cmask t _ | .vld t _ | .vst t _ | .vbcast t _ | .var t _ | .vint t _ | .vcmp t _
  | .vsel t _ | .vtr t _ | .vtrExpd t _ | .vred t _ | .cvt t _ | .vrnd t _ | .vseed t _ | .vstep t _ | .mcpy t _
  | .pfh t _ | .lwr t _ | .lrd t _ | .latom t _ | .lset t _ | .cdesc t _ | .credReduce t _ | .credAllreduce t _
  | .cbc t _ | .ca2aEqual t _ | .ca2aUnequal t _ | .coaccSend t _ | .coaccApply t _ | .cring t _ | .ucfgRule t _
  | .ucfgCombine t _ | .uupd t _ | .uchk t _ | .ucomb t _ | .ubor t _ | .uborReturn t _ | .hxferIn t _
  | .hxferOut t _ | .hnote t _ | .hirq t _ => t.wf
  | .ca2aDataPhase part _ => partWf part
  | .dependentArm s => s.wf
  | .holdPointMissed s => s.wf
  | .holdTakeEffect part => partWf part
  | .holdMaxExpiry part => partWf part
  | .idleCatchUp part => partWf part
  | .operationVisibility part _ how => partWf part && how.bad.all BadBlock.wf
  | .operationLateComplete part _ => partWf part
  | .cellPassEnd part _ => partWf part
  | .shadowCompareEnd col spare _ => colWf col && (spare == 16 || spare == 17)
  | .lwaitDeadlineExpiry part _ => partWf part
  | .haspStrikeComplete hasp => decide (hasp < 4096)
  | .refreshPosition col ch => colWf col && channelWf ch
  | .scrubPosition col ch bad => colWf col && channelWf ch && decide (bad.length ≤ 4) && bad.all BadBlock.wf
  | .freezeRefresh col ch => colWf col && channelWf ch
  | .keywayMoveCopyPage part _ _ => partWf part
  | .snapshotDrainPage part col _ => partWf part && colWf col
  | .recordCopyAccepted part => partWf part
  | .replayInject part => partWf part
  | .flitSend l => l.wf
  | .flitReceive l _ => l.wf
  | .ackSend l => l.wf
  | .timeTransferSend l => l.wf
  | .symbolThirdCopy l => l.wf
  | .settledElectSend => true
  | .laneSymbolReceive l lane => l.wf && decide (lane.sym < 5)
  | .holdSymbolReceive l _ => l.wf
  | .nakReceive l _ => l.wf
  | .haspSymbolReceive l _ => l.wf
  | .timeSymbolReceive l _ => l.wf
  | .ackReceive l _ _ => l.wf
  | .electReceive l _ => l.wf
  | .electionSettle => true
  | .timeLockAcquired => true
  | .holdoverTimeout => true
  | .lostRelockRelease => true
  | .pintleWaitNotice => true
  | .pintleSlewDone => true
  | .timeCodeFrame _ => true
  | .msgWrite l _ => l.wf
  | .msgReadRequest l _ => l.wf
  | .msgReadReply l _ => l.wf
  | .msgSignal l _ => l.wf
  | .msgAcknowledgement l _ => l.wf
  | .msgAtomic l _ => l.wf
  | .msgAtomicReply l _ => l.wf
  | .msgRefusal l _ => l.wf
  | .msgClx l _ => l.wf
  | .msgManagement l _ => l.wf
  | .topologyRecord l _ => l.wf
  | .topoSettle => true
  | .laneFailure l lane => l.wf && decide (lane < 5)
  | .linkSilenceTimeout l => l.wf
  | .linkTrained l _ _ _ _ => l.wf
  | .hdmaChunkComplete port => decide (port < 2)
  | .hdmaChunkTimeout port => decide (port < 2)
  | .pciePortDown port => decide (port < 2)
  | .decSegmentEnd => true
  | .decMessageEnd part => partWf part
  | .powerMsCheck _ _ => true
  | .powerHoldFrame part => partWf part
  | .thermalMsCheck _ _ => true
  | .vpwrInterval _ => true
  | .cperEccSummary => true
  | .deadbolt _ _ site => site.block.all BadBlock.wf
  | .firmwareWatchdogExpiry => true
  | .deadboltReset => true
  | .startupPhaseEnd _ _ => true
  | .phaseWatchdogExpiry _ _ => true
  | .pwrOkRise _ => true
  | .pwrOkFall => true
  | .railFault _ _ => true
  | .perstNAssert => true
  | .configRequest port fn => decide (port < 2) && fnWf fn
  | .unsupportedAccess fn _ _ _ => fnWf fn
  | .apertureAccess _ k _ => decide (1 ≤ k) && decide (k ≤ 8)
  | .vfFlr vf => decide (vf < 32)
  | .pfReset => true
  | .vfEnableClear _ k => decide (k ≤ 32)
  | .load fn part => fnWf fn && partWf part
  | .loadDone part => partWf part
  | .start fn part => fnWf fn && partWf part
  | .unload fn part => fnWf fn && partWf part
  | .save fn part => fnWf fn && partWf part
  | .restore fn part => fnWf fn && partWf part
  | .ctxDone part => partWf part
  | .rewind fn part => fnWf fn && partWf part
  | .rewindDone part => partWf part
  | .snapshotArm fn part => fnWf fn && partWf part
  | .snapshotRestore fn part => fnWf fn && partWf part
  | .snapshotRestoreDone part => partWf part
  | .dump fn => fnWf fn
  | .dumpDone => true
  | .issue fn => fnWf fn
  | .report fn => fnWf fn
  | .secCommandDone _ => true
  | .install fn part => fnWf fn && partWf part
  | .decStart fn part => fnWf fn && partWf part
  | .stage fn _ => fnWf fn
  | .stageDone => true
  | .activate fn _ => fnWf fn
  | .cancel fn _ => fnWf fn
  | .activationWindowOpen => true
  | .activationWindowClose => true
  | .quarterReset fn q => fnWf fn && decide (q < 80)
  | .linkDieReset fn die => fnWf fn && decide (die < 4)
  | .unitResetDone _ => true
  | .katShort fn => fnWf fn
  | .katDeep fn _ => fnWf fn
  | .katDone _ => true
  | .fltFlush fn => fnWf fn
  | .fltFlushDone _ => true
  | .flashRead fn _ => fnWf fn
  | .flashErase fn _ => fnWf fn
  | .flashProgram fn _ => fnWf fn
  | .flashCmdDone => true
  | .move fn _ _ => fnWf fn
  | .hostwinWrite fn part _ _ => fnWf fn && partWf part
  | .doorbell fn queue _ => fnWf fn && decide (queue < 65536)
  | .hallTimeWrite fn _ => fnWf fn
  | .hallTimeRead fn => fnWf fn
  | .pintleCfgWrite fn _ => fnWf fn
  | .holdLeadWrite fn _ => fnWf fn
  | .holdMaxWrite fn _ => fnWf fn
  | .domainActivate fn part _ => fnWf fn && partWf part
  | .domainDeactivate fn part _ => fnWf fn && partWf part
  | .rejoin fn _ => fnWf fn
  | .debugModeWrite fn _ => fnWf fn
  | .pfaultClear fn part _ => fnWf fn && partWf part
  | .recConfigWrite fn part _ _ => fnWf fn && partWf part
  | .partitionConfigWrite fn part _ _ => fnWf fn && partWf part
  | .replThrWrite fn _ => fnWf fn
  | .shadowRateWrite fn col _ => fnWf fn && colWf col
  | .linkDisable fn l _ => fnWf fn && l.wf
  | .wrrWrite fn l _ => fnWf fn && l.wf
  | .cperCfgWrite fn _ => fnWf fn
  | .apertureBaseWrite fn _ _ => fnWf fn
  | .filterSetWrite fn block _ _ => fnWf fn && decide (block < 24)
  | .filterSetApply block => decide (block < 24)
  | .pmcCounterRead fn _ => fnWf fn
  | .lowWordRead fn _ => fnWf fn
  | .rcRegisterRead fn _ => fnWf fn
  | .msixUnmask fn vector => fnWf fn && decide (vector < 64)
  | .registerWrite fn _ _ => fnWf fn
  | .spiRead _ k _ => decide (1 ≤ k) && decide (k ≤ 65536)
  | .spiWrite _ ws => decide (1 ≤ ws.length) && decide (ws.length ≤ 65536)
  | .spiStatus _ => true
  | .spiUnknownCommand _ _ _ => true
  | .spiFrameError _ => true
  | .bypass => true
  | .idcode => true
  | .samplePreload _ => true
  | .extest _ => true
  | .jtagPrivate _ => true
  | .perstNDeassert => true
  | .pciePortUp port => decide (port < 2)
  | .serdesAdaptationEnd die => decide (die < 4)
  | .quarterRunEnd col q _ => colWf col && decide (q < 4)
  | .mainRailLowNotice _ => true

end Sys2Proof
end

