-- ==== Sys2Proof/Machine/RegWrite.lean ====
section
/-!
DEFINITION. What a write to each register of the map does (R5 and the home rules). Every command that is a register write calls
one operation here, and so does a write to a register that has no command of its own.
-/
namespace Sys2Proof.Machine

/-! ### Who may write -/

/-- Registers that answer before READY (R374). -/
def earlyReg (a : Nat) : Bool := a == 0 || a == 4 || a == 8 || a == 0x10 || (decide (0x40 ≤ a) && decide (a < 0x60))

/-- A function's access to offset `a` of its own map is served (R364, R374, R384). -/
def reaches (s : State) (fn : Fn) (a : Nat) : Bool :=
  !s.hub.stopped && fnThere s fn && match fn with
  | .vf _ => s.hub.ready
  | .mgmt => s.hub.ready || decide (3 ≤ s.hub.stage.toNat) || earlyReg a
  | _ => s.hub.ready || earlyReg a

/-- A write by a function with the rights of the physical function to offset `a`. -/
def pfWrite (fn : Fn) (a : Nat) (act : Act) : Act := Act.when (fun s => isPf fn && reaches s fn a) act

/-- A write by the physical function or the partition's virtual function; the offset is the physical function's. -/
def partWrite (fn : Fn) (n a : Nat) (act : Act) : Act :=
  Act.when (fun s => mayPart fn n && decide (n < 32) && reaches s fn a) act

/-! ### Time -/

/-- A waiting pintle starts from its oscillator once SRC = 1 and a start value have been written (R18; DEDUCED, log
entry 66: the start value is both halves). -/
def startWaiting : Act := fun s =>
  if s.tim.waiting && s.tim.src && s.tim.startWritten == 3 then pintleStart s else []

/-- A write to `TIM_HALL_LO` or `TIM_HALL_HI`: accepted only in UNLOCKED with SRC = 1 (R36). -/
def hallWrite (high : Bool) (v : BitVec 32) : Act := fun s =>
  if s.tim.state != .unlocked || !s.tim.src then timInt 0 s else Act.all [
    stepHall (setHalf s.tim.hall high v),
    modTim (fun t => { t with startWritten := t.startWritten ||| (if high then 2 else 1) }), startWaiting] s

/-- The candidate of this device carries its new priority while an election is open (R17). -/
def newPriority : Act := fun s =>
  if s.tim.state != .unlocked || s.tim.settled then [] else Act.all [
    Act.guard (s.tim.pintleDev == s.hub.devno) (modTim (fun t => { t with pintlePri := 0xFF, pintleDev := 0xFFFF, pintleIdent := 0 })),
    selfCand, announce none] s

/-- The source of a pintle changes (R18; DEDUCED, log entry 66). -/
def newSource : Act := fun s =>
  let t := s.tim
  if t.state == .pintle && t.src then Act.all [
    modTim (fun t => { t with state := .pintleFree, slewing := false }), timInt 1, fltEvent dieHub 1 .pintleSource none 0] s
  else if t.state == .pintleFree then modTim (fun t => { t with slewing := !t.src && t.codeValid, slewFrames := 0 }) s
  else startWaiting s

/-- A write to `TIM_PINTLE_CFG` (R18, R36). -/
def pintleCfg (v : BitVec 32) : Act := Act.all [
  modTim (fun t => { t with src := bit v 8, pri := BitVec.ofNat 8 (fld v 0 8) }), newPriority, newSource]

/-- The inequality of R31. -/
def leadOk (lead diam : Nat) : Bool := decide (diam * 960 + 8000 ≤ lead)

/-- An object counts as loaded (R31). -/
def loadedNow : LoadState → Bool
  | .loaded | .running | .done | .faulted => true
  | _ => false

/-- A write to `TIM_HOLD_LEAD` (R31). -/
def holdLead (v : BitVec 32) : Act := fun s =>
  let k := fld v 0 24
  let low := allParts.any (fun n => (s.dom n).active && !leadOk k (s.dom n).diam.toNat)
  let high := allParts.any (fun n => match (s.part n).obj with
    | some o => loadedNow (s.part n).load.state && decide (s.tim.lead.toNat < k) && decide (o.planLead < k)
    | none => false)
  if low || high then timInt 0 s else modTim (fun t => { t with lead := BitVec.ofNat 24 k }) s

/-- A write to `TIM_HOLD_MAX` (R36). -/
def holdMaxWrite (v : BitVec 32) : Act :=
  if fld v 0 20 = 0 then timInt 0 else modTim (fun t => { t with maxMs := BitVec.ofNat 20 (fld v 0 20) })

/-- A write to `TIM_DOM[n].CTRL` is refused: it sets ACTIVE in a state that serves no time (R380), breaks R31, or changes DIAM
under an active slot (R37). -/
def domRefused (s : State) (n : Nat) (v : BitVec 32) : Bool :=
  let d := s.dom n
  bit v 31 && ((!d.active && !timeRuns s.tim.state) || !leadOk s.tim.lead.toNat (fld v 8 8) ||
    (d.active && fld v 8 8 != d.diam.toNat))

/-- A write to `TIM_DOM[n].CTRL` (R31, R37, R380). A schedule that begins starts with nothing held and the PSC at hall schedule
time (DEDUCED, log entry 67). A write that clears ACTIVE takes its DIAM and DOMAIN, and `HOLD_COUNT` and `LATE_STRIKE` go on
counting over an activation (DESIGN CHOICE, log entry 100: R37 says neither). -/
def domCtrl (n : Nat) (v : BitVec 32) : Act := fun s =>
  let fields (d : Dom) : Dom := { d with domain := BitVec.ofNat 12 (fld v 16 12), diam := BitVec.ofNat 8 (fld v 8 8) }
  if domRefused s n v then timInt 0 s
  else if !bit v 31 then Act.all [deactivate n, modDom n fields] s
  else if (s.dom n).active then modDom n fields s
  else modDom n (fun d => { fields d with
    active := true, held := false, broken := false, heldTotal := 0, holds := [], holdMaxSent := false, lostRaises := 0,
    jump := none, psc := s.tim.hall }) s

/-- A write to half of `TIM_DOM[n].ORIGIN`: only while ACTIVE = 0 (R37). -/
def domOrigin (n : Nat) (high : Bool) (v : BitVec 32) : Act := fun s =>
  if (s.dom n).active then timInt 0 s else modDom n (fun d => { d with origin := setHalf d.origin high v }) s

/-- GO of `TIM_REJOIN` (R379). -/
def rejoinAct (target : BitVec 16) : Act := fun s =>
  if allParts.any (fun n => (s.dom n).active) then timInt 0 s else
  modTim (fun t => { t with
    state := .unlocked, rejoin := some target, settled := false, waiting := false, slewing := false, depth := 0xF,
    pintlePri := 0xFF, pintleDev := 0xFFFF, pintleIdent := 0, idPri := 0xFF, idDev := 0xFFFF, tree := 0xFFFF,
    lastLower := t.hall }) s

/-! ### Hub -/

/-- A write to `HUB_DEBUG` (R95). Every write of the register is a write to MODE, whatever value it carries; one that is refused
sets REFUSED after a 1 in that bit has cleared it (DEDUCED, log entry 112). -/
def debugWrite (v : BitVec 32) : Act := fun s =>
  let empty := allParts.all (fun n => (s.part n).load.state == .empty)
  modHub (fun h =>
    if empty && !s.fuses.debugOff then { h with debugMode := bit v 0, debugRefused := h.debugRefused && !bit v 1 }
    else { h with debugRefused := true }) s

/-- A write to `HUB_PFAULT[n].CAUSE` (R94). -/
def pfaultWrite (n : Nat) (v : BitVec 32) : Act :=
  Act.guard (bit v 31) (modPart n (fun p => { p with pfault := { p.pfault with valid := false, count := 0 } }))

/-- A write to `HUB_REPL_THR` (R319). -/
def replThr (v : BitVec 32) : Act :=
  if fld v 0 2 = 3 || 4 < fld v 2 3 || 96 < fld v 5 7 then Act.skip else Act.all [
    modHub (fun h => { h with
      ceMax := BitVec.ofNat 12 (fld v 12 12), laneMax := BitVec.ofNat 7 (fld v 5 7), chMin := BitVec.ofNat 3 (fld v 2 3),
      cellMin := BitVec.ofNat 2 (fld v 0 2) }), checkRepl]

/-- A write to a word of `HUB_APER` (R385): the low word of an aligned value is 0. -/
def aperWrite (high : Bool) (v : BitVec 32) : Act :=
  if !high && v != 0 then Act.skip else modHub (fun h => { h with aper := setHalf h.aper high v })

/-- A write to `HUB_ALERT` (R401). -/
def alertWrite (v : BitVec 32) : Act := modHub (fun h => { h with alert := h.alert &&& ~~~(v.setWidth 6) })

/-- A write to `HUB_KAT_CMD` (R326). -/
def katCmd (v : BitVec 32) : Act :=
  if fld v 28 4 = 1 then katShort else if fld v 28 4 = 2 then katDeep (v.setWidth 20) else Act.skip

/-- A write to `HUB_URST` (R349). -/
def urstWrite (v : BitVec 32) : Act :=
  if fld v 30 2 = 1 then quarterResetAct (fld v 0 7) else if fld v 30 2 = 2 then dieResetAct (fld v 0 7) else resetIgnored

/-! ### Partitions -/

/-- A quarter is marked failed, alone or with its column (R327). -/
def quarterBad (s : State) (q : Nat) : Bool := (s.col (q / 4)).failed || (s.col (q / 4)).qfail.getLsbD (q % 4)

/-- A partition's new settings agree with those of the other enabled partitions (R329). -/
def partFits (s : State) (n : Nat) (c : PartCfg) : Bool :=
  let others := (allParts.filter (fun m => m != n && (s.part m).cfg.en)).map (fun m => (s.part m).cfg)
  decide (50 ≤ c.cap.toNat) && decide (c.cap.toNat ≤ 3600) &&
    (!c.en || (others.all (fun o => o.qmask &&& c.qmask == 0) && decide ((others.map (·.cap.toNat)).sum + c.cap.toNat ≤ 3600)))

/-- The settings after a write of `v` at offset `r`. -/
def partAfter (c : PartCfg) (r : Nat) (v : BitVec 32) : PartCfg :=
  if r = 0 then { c with en := bit v 31, vfown := bit v 30 }
  else if r = 8 then { c with qmask := putFld c.qmask 0 32 v.toNat }
  else if r = 0xC then { c with qmask := putFld c.qmask 32 32 v.toNat }
  else if r = 0x10 then { c with qmask := putFld c.qmask 64 16 (fld v 0 16) }
  else { c with cap := v.setWidth 16 }

/-- Quarters that a write at offset `r` names. -/
def namedQuarters (c : PartCfg) (r : Nat) : List Nat :=
  let word (lo n : Nat) : List Nat := (List.range' lo n).filter (fun q => c.qmask.getLsbD q)
  if r = 8 then word 0 32 else if r = 0xC then word 32 32 else if r = 0x10 then word 64 16 else []

/-- A write to `HUB_PART[n]` (R329). -/
def partCfgWrite (n r : Nat) (v : BitVec 32) : Act := fun s =>
  let c := partAfter (s.part n).cfg r v
  if r = 4 then Act.guard (bit v 15) (modPart n (fun p => { p with cfg := { p.cfg with cfgErr := false } })) s
  else if !(r = 0 ∨ r = 8 ∨ r = 0xC ∨ r = 0x10 ∨ r = 0x14) then []
  else if (s.part n).load.state != .empty || (namedQuarters c r).any (quarterBad s) || !partFits s n c then
    modPart n (fun p => { p with cfg := { p.cfg with cfgErr := true } }) s
  else modPart n (fun p => { p with cfg := c }) s

/-- A write to `HUB_LOAD[n]` (R98). -/
def loadWrite (fn : Fn) (n r : Nat) (v : BitVec 32) : Act :=
  if r = 0 then
    (if v = 1 then partCmd fn n (loadAct n) else if v = 2 then partCmd fn n (startAct n)
     else if v = 3 then partCmd fn n (unloadAct n) else Act.skip)
  else if r = 8 ∨ r = 0xC then modPart n (fun p => { p with load := { p.load with param := setHalf p.load.param (r == 0xC) v } })
  else Act.skip

/-- A write to `HUB_CTX[n]` (R170). -/
def ctxWrite (fn : Fn) (n r : Nat) (v : BitVec 32) : Act :=
  if r = 0 then
    (if v = 1 then partCmd fn n (fun s => ctxStart n false (canSave s n) s)
     else if v = 2 then partCmd fn n (fun s => ctxStart n true ((s.part n).load.state == .loaded) s) else Act.skip)
  else if r = 8 ∨ r = 0xC then modPart n (fun p => { p with ctx := { p.ctx with addr := setHalf p.ctx.addr (r == 0xC) v } })
  else Act.skip

/-- A write to `HUB_SYNC[n].DL_CAUSE` (R173). -/
def syncWrite (n r : Nat) (v : BitVec 32) : Act :=
  Act.guard (r == 0 && bit v 31) (modPart n (fun p => { p with sync := { p.sync with dlValid := false } }))

/-- CTRL of `HUB_REC[n]` takes a value (R278). -/
def recCtrlOk (v : BitVec 32) : Bool :=
  !(bit v 31 && bit v 30) && (!(bit v 31 || bit v 30 || bit v 28) || (decide (10 ≤ fld v 16 5) && decide (fld v 16 5 ≤ 26)))

/-- A write to `HUB_REC[n]` that is accepted, if it is (R278). -/
def recAfter (x : RecReg) (empty : Bool) (r : Nat) (v : BitVec 32) : Option RecReg :=
  let base := decide (v.toNat % 4096 = 0)
  if r = 0 then (if empty && recCtrlOk v then some { x with
      fp := bit v 31, replay := bit v 30, stopmm := bit v 29, trace := bit v 28, log2 := BitVec.ofNat 5 (fld v 16 5) } else none)
  else if r = 8 then (if empty && base then some { x with logBase := setHalf x.logBase false v } else none)
  else if r = 0xC then (if empty then some { x with logBase := setHalf x.logBase true v } else none)
  else if r = 0x10 then (if empty && base then some { x with dataBase := setHalf x.dataBase false v } else none)
  else if r = 0x14 then (if empty then some { x with dataBase := setHalf x.dataBase true v } else none)
  else if r = 0x18 then (if empty && decide (1 ≤ v.toNat) && decide (v.toNat ≤ 1048576) then some { x with dataSize := v } else none)
  else if r = 0x1C then some { x with winFirstNext := v }
  else if r = 0x20 then some { x with winLastNext := v }
  else if r = 0x24 then (if x.fp then none else some { x with logWr := v })
  else if r = 0x28 then (if x.replay then none else some { x with logRd := v })
  else if r = 0x2C then (if x.fp then none else some { x with dataWr := v })
  else if r = 0x30 then (if x.replay then none else some { x with dataRd := v })
  else some x

/-- The W1C bits of `HUB_REC[n].STATUS` (R278). -/
def recClear (x : RecReg) (v : BitVec 32) : RecReg := { x with
  cfgErr := x.cfgErr && !bit v 31, ovf := x.ovf && !bit v 30, mm := x.mm && !bit v 29, corrupt := x.corrupt && !bit v 27,
  nodata := x.nodata && !bit v 26, endd := x.endd && !bit v 25 }

/-- A write to `HUB_REC[n]` (R278). -/
def recWrite (n r : Nat) (v : BitVec 32) : Act := modPart n (fun p =>
  if r = 4 then { p with recd := recClear p.recd v }
  else match recAfter p.recd (p.load.state == .empty) r v with
    | some x => { p with recd := x }
    | none => { p with recd := { p.recd with cfgErr := true } })

/-! ### SEC -/

/-- A write to `SEC_RCPT` or `SEC_ATT` (R284, R342): their commands and their addresses. -/
def secBlock (fn : Fn) (att : Bool) (r : Nat) (v : BitVec 32) : Act :=
  if r = 0 then Act.guard (v == 1) (if att then startReport fn else issueReceipt fn)
  else if r = 8 ∨ r = 0xC then modSec (fun x => if att then { x with attReq := setHalf x.attReq (r == 0xC) v }
    else { x with rcptReq := setHalf x.rcptReq (r == 0xC) v })
  else if r = 0x10 ∨ r = 0x14 then modSec (fun x => if att then { x with attOut := setHalf x.attOut (r == 0x14) v }
    else { x with rcptOut := setHalf x.rcptOut (r == 0x14) v })
  else Act.skip

/-- A write to `SEC_FWUP` (R348). -/
def fwupWrite (fn : Fn) (r : Nat) (v : BitVec 32) : Act :=
  let target := BitVec.ofNat 2 (fld v 8 2)
  if r = 0 then
    (if fld v 0 2 = 1 then fwPart fn (stageAct target) else if fld v 0 2 = 2 then fwPart fn (activateAct target)
     else if fld v 0 2 = 3 then fwPart fn (cancelAct target) else Act.skip)
  else if r = 8 ∨ r = 0xC then modSec (fun x => { x with fwAddr := setHalf x.fwAddr (r == 0xC) v })
  else if r = 0x10 ∨ r = 0x14 then modSec (fun x => { x with actTime := setHalf x.actTime (r == 0x14) v })
  else Act.skip

/-- A write to `SEC_KEY[n]` or `SEC_DEC[n]` (R337, R346). -/
def keyWrite (fn : Fn) (dec : Bool) (n r : Nat) (v : BitVec 32) : Act :=
  if r = 0 then Act.guard (v == 1) (partCmd fn n (if dec then decStart n else startInstall n))
  else if r = 8 ∨ r = 0xC then modPart n (fun p => { p with key :=
    if dec then { p.key with decAddr := setHalf p.key.decAddr (r == 0xC) v }
    else { p.key with keyAddr := setHalf p.key.keyAddr (r == 0xC) v } })
  else Act.skip

/-- A write in SEC by the physical function. -/
def secWrite (fn : Fn) (a : Nat) (v : BitVec 32) : Act :=
  if a = 0x100 then Act.guard (bit v 0) (fwPart fn dumpStart)
  else if a = 0x108 ∨ a = 0x10C then modSec (fun x => { x with dumpAddr := setHalf x.dumpAddr (a == 0x10C) v })
  else if 0x200 ≤ a ∧ a < 0x220 then secBlock fn false (a - 0x200) v
  else if 0x300 ≤ a ∧ a < 0x320 then secBlock fn true (a - 0x300) v
  else if 0x400 ≤ a ∧ a < 0x420 then fwupWrite fn (a - 0x400) v
  else if 0x1000 ≤ a ∧ a < 0x1400 then keyWrite fn false ((a - 0x1000) / 0x20) (a % 0x20) v
  else if 0x2000 ≤ a ∧ a < 0x2400 then keyWrite fn true ((a - 0x2000) / 0x20) (a % 0x20) v
  else Act.skip

/-! ### KWY -/

/-- An enabled host window of another partition overlaps (R204). -/
def winOverlap (s : State) (n base size : Nat) : Bool := allParts.any (fun m =>
  let k := (s.part m).kwy
  m != n && k.winEn && decide (base < k.winBase.toNat + k.winSize.toNat) && decide (k.winBase.toNat < base + size))

/-- A write to `KWY_HOSTWIN[n]` is refused (R204). -/
def hostwinRefused (s : State) (n r : Nat) (v : BitVec 32) : Bool :=
  let base := fld v 0 10
  let size := fld v 10 11
  (s.part n).load.state != .empty ||
    (r == 0 && bit v 31 && (size == 0 || decide (1024 < base + size) || winOverlap s n base size)) ||
    (r == 8 && v.toNat % 4096 != 0)

/-- A write to `KWY_HOSTWIN[n]` (R204): offsets 0 WIN, 8 and 0xC HADDR. -/
def hostwin (n r : Nat) (v : BitVec 32) : Act := fun s =>
  if hostwinRefused s n r v then Act.all [modKwy (fun k => { k with cfgErr := true }), irq 0 4] s
  else modPart n (fun p => { p with kwy :=
    if r = 0 then { p.kwy with winEn := bit v 31, winSize := BitVec.ofNat 11 (fld v 10 11), winBase := BitVec.ofNat 10 (fld v 0 10) }
    else { p.kwy with haddr := setHalf p.kwy.haddr (r == 0xC) v } }) s

/-- The registers of R302 that accept a write only in IDLE, DONE or ABORTED. -/
def snapOpen (x : SnapReg) : Bool := x.state == .idle || x.state == .done || x.state == .aborted

/-- CTRL of `KWY_SNAP[n]`: BUF and DEST change only in EMPTY; ARM set arms, ARM cleared disarms an armed snapshot (R302; the
last DESIGN CHOICE, log entry 73). -/
def snapCtrl (n : Nat) (v : BitVec 32) : Act := fun s =>
  let p := s.part n
  let same := bit v 30 == p.snap.dest && fld v 8 4 == p.snap.buf.toNat
  if (!same && p.load.state != .empty) || fld v 8 4 == 0 then modPart n (fun p => { p with snap := { p.snap with cfgErr := true } }) s
  else Act.all [
    modPart n (fun p => { p with snap := { p.snap with dest := bit v 30, buf := BitVec.ofNat 4 (fld v 8 4) } }),
    if bit v 31 then snapArm n
    else modPart n (fun p => { p with snap := { p.snap with
      arm := false, state := if p.snap.state == .armed then .idle else p.snap.state } })] s

/-- What a write to the drain registers leaves, if it is accepted (R286, R302). -/
def snapAfter (p : Part) (r : Nat) (v : BitVec 32) : Option SnapReg :=
  let x := p.snap
  if !snapOpen x then none
  else if r = 4 then (if p.run.bindingEpoch < v then some { x with epoch := v } else none)
  else if r = 8 then (if v.toNat % pageSize = 0 then some { x with daddr := setHalf x.daddr false v } else none)
  else if r = 0xC then some { x with daddr := setHalf x.daddr true v }
  else if r = 0x10 then some { x with peer := v.setWidth 16 }
  else (if 1 ≤ v.toNat ∧ v.toNat ≤ 625 then some { x with grant := v } else none)

/-- A write to `KWY_SNAP[n]` (R302). -/
def snapWrite (fn : Fn) (n r : Nat) (v : BitVec 32) : Act :=
  if r = 0 then snapCtrl n v
  else if r = 4 ∨ r = 8 ∨ r = 0xC ∨ r = 0x10 ∨ r = 0x14 then modPart n (fun p => match snapAfter p r v with
    | some x => { p with snap := x }
    | none => { p with snap := { p.snap with cfgErr := true } })
  else if r = 0x18 then Act.guard (bit v 27) (modPart n (fun p => { p with snap := { p.snap with cfgErr := false } }))
  else if r = 0x2C then Act.guard (v == 1) (partCmd fn n (restoreStart n))
  else if r = 0x30 ∨ r = 0x34 then modPart n (fun p => { p with snap := { p.snap with raddr := setHalf p.snap.raddr (r == 0x34) v } })
  else if r = 0x38 then modPart n (fun p => { p with snap := { p.snap with rsrc := v &&& 0x8000FFFF } })
  else if r = 0x3C then modPart n (fun p => { p with snap := { p.snap with rown := v.setWidth 3 } })
  else Act.skip

/-- A write in KWY. -/
def kwyWrite (fn : Fn) (a : Nat) (v : BitVec 32) : Act :=
  if a = 0 then Act.guard (bit v 16) (modKwy (fun k => { k with cfgErr := false }))
  else if a = 4 then Act.guard (bit v 31) (Act.when serving (requestMove (fld v 24 5) (fld v 0 12)))
  else if 0x100 ≤ a ∧ a < 0x300 then (if a % 0x10 = 4 then Act.skip else hostwin ((a - 0x100) / 0x10) (a % 0x10) v)
  else if 0x800 ≤ a ∧ a < 0x1000 then snapWrite fn ((a - 0x800) / 0x40) (a % 0x40) v
  else Act.skip

/-! ### FLT, PMC, QCTL -/

/-- A write to `FLT_CPER_CFG` (R321). -/
def cperCfg (v : BitVec 32) : Act :=
  if bit v 31 && (fld v 0 5 < 4 || 16 < fld v 0 5) then Act.skip
  else modFlt (fun f => { f with cperEn := bit v 31, cperLog2 := BitVec.ofNat 5 (fld v 0 5) })

/-- A write in FLT (R321). -/
def fltWriteReg (fn : Fn) (a : Nat) (v : BitVec 32) : Act :=
  if a = 4 then modFlt (fun f => { f with page := v.setWidth 5 })
  else if a = 8 then Act.guard (v == 1) (fwPart fn (Act.when (fun s => !s.flt.busy) fltFlush))
  else if a = 0x10 ∨ a = 0x14 then modFlt (fun f => { f with cperBase := setHalf f.cperBase (a == 0x14) v })
  else if a = 0x18 then cperCfg v
  else if a = 0x20 then modFlt (fun f => { f with cperRd := v })
  else Act.skip

/-- A filter set after a write to one of its registers (R356). -/
def filterAfter (f : Filter) (r : Nat) (v : BitVec 32) : Filter :=
  if r = 0 then { f with fctl := v &&& 0xE01F0FFF } else if r = 4 then { f with pmask := v }
  else if r = 8 ∨ r = 0xC then { f with alo := setHalf f.alo (r == 0xC) v }
  else if r = 0x10 ∨ r = 0x14 then { f with ahi := setHalf f.ahi (r == 0x14) v } else f

/-- A write to a filter set (R356): it takes effect at the next 1 µs boundary. The block of an absent die ignores it (R4). -/
def filterWrite (b r : Nat) (v : BitVec 32) : Act := Act.when (fun s => decide (b < 20) || !absentDie s (b - 20)) (modPmc (fun p =>
  { p with written := Tab.set {} p.written b (filterAfter (Tab.get {} p.written b) r v) }))

/-- The function that owns the ward of partition `n` (R331): the management port owns none that a VF owns (R394). -/
def ownsWard (s : State) (fn : Fn) (n : Nat) : Bool :=
  if (s.part n).cfg.vfown then fn == .vf n else isPf fn

/-- A write that LK refuses (R331). -/
def lkReject (n : Nat) : Act := modPart n (fun p => { p with cfg := { p.cfg with lkrej := satAdd p.cfg.lkrej 1 } })

/-- The new TAIL satisfies R168. -/
def tailOk (q : Queue) (tail : BitVec 32) : Bool :=
  decide ((tail - q.tail).toNat < 2 ^ 31) && decide ((tail - q.head).toNat ≤ 2 ^ q.log2.toNat)

/-- A write to `QCTL_TAIL` (R167, R168, R331). A queue bound to no stream has no ward and takes nothing. A stream whose queue was
empty reaches its next instruction now (R27). -/
def ringBell (fn : Fn) (q : Nat) (tail : BitVec 32) : Act := fun s =>
  let x := s.queue q
  let n := x.part.toNat
  if !x.en then []
  else if !ownsWard s fn n then lkReject n s
  else if tailOk x tail then Act.all [
    modQueue q (fun x => { x with
      tail := tail, res := x.res && decide (tail.toNat ≤ 2 ^ x.log2.toNat),
      wait := if x.wait == 1 && tail != x.head then 0 else x.wait }),
    Act.guard (x.head == x.tail) (modRun n (fun r => { r with
      streams := r.streams.map (fun t => if t.queue == q then { t with reached := (s.dom n).psc } else t) })),
    count (ctrHub 0x14) 1] s
  else Act.all [
    modQueue q (fun x => { x with dberr := true }), fltEvent dieHub 5 .doorbellRefused (some n) 0, count (ctrHub 0x15) 1, irq 0 4] s

/-- A doorbell: a write of the physical function to `QCTL_TAIL` of a physical queue, or of VF n + 1 to the doorbell of a
logical queue of partition n (R387). -/
def bellAct (fn : Fn) (q : Nat) (tail : BitVec 32) : Act := fun s => match fn with
  | .vf n => (match bellQueue s n q with
    | some k => ringBell fn k tail s
    | none => lkReject n s)
  | _ => ringBell fn q tail s

/-- A write in QCTL (R169). -/
def queueWrite (fn : Fn) (q r : Nat) (v : BitVec 32) : Act :=
  if r = 0x10 then ringBell fn q v
  else if r = 0x14 then Act.guard (bit v 31) (modQueue q (fun x => { x with dberr := false }))
  else Act.skip

/-! ### Columns, links, MGMT, MSI-X -/

/-- A write to `COL_SHADOW` (R308). -/
def shadowRate (c : Nat) (v : BitVec 32) : Act :=
  if 16 < fld v 0 5 then modCol c (fun x => { x with cfgErr := true })
  else modCol c (fun x => { x with rate := v.setWidth 5 })

/-- A write in a column's window (R327). -/
def columnWrite (c r : Nat) (v : BitVec 32) : Act :=
  if r = 0x10000 then shadowRate c v
  else if r = 0x10004 then Act.guard (bit v 30) (modCol c (fun x => { x with cfgErr := false }))
  else if r = 0x10020 then Act.guard (bit v 31) (modCol c (fun x => { x with mmValid := false }))
  else Act.skip

/-- A write to a link's CTL (R223): DISABLE makes the link FAILED. -/
def linkCtl (l : LinkId) (v : BitVec 32) : Act := Act.all [
  modLink l (fun x => { x with disable := bit v 31 }),
  Act.when (fun s => bit v 31 && (s.link l).state != linkFailed) (linkFail l)]

/-- A write to a link's WRR (R225): from the next round on; a zero weight is refused. -/
def wrrWrite (l : LinkId) (v : BitVec 32) : Act :=
  if fld v 0 8 = 0 || fld v 8 8 = 0 || fld v 16 8 = 0 then linkErr l 0
  else modLink l (fun x => { x with w1 := BitVec.ofNat 8 (fld v 0 8), w2 := BitVec.ofNat 8 (fld v 8 8), w3 := BitVec.ofNat 8 (fld v 16 8) })

/-- A write in a link's registers (R225). -/
def linkWrite (l : LinkId) (r : Nat) (v : BitVec 32) : Act :=
  if r = 8 then linkCtl l v
  else if r = 0xC then wrrWrite l v
  else if r = 0x10 then modLink l (fun x => { x with err := x.err &&& ~~~(v.setWidth 5) })
  else Act.skip

/-- A write in a link die's window (R224, R225): an absent die ignores it (R4). -/
def dieWrite (d r : Nat) (v : BitVec 32) : Act := Act.when (fun s => !absentDie s d)
  (if 0x1000 ≤ r ∧ r < 0x1000 + 24 * 0x80 then linkWrite ⟨d, (r - 0x1000) / 0x80⟩ (r % 0x80) v else Act.skip)

/-- A write in MGMT (R397, R398). -/
def mgmtWrite (a : Nat) (v : BitVec 32) : Act :=
  if a = 4 then modMgmt (fun m => { m with bank := v.setWidth 2 })
  else if a = 8 then modMgmt (fun m => { m with aper := setHalf m.aper false (v &&& 0xFFFFF000) })
  else if a = 0xC then modMgmt (fun m => { m with aper := setHalf m.aper true v })
  else if a = 0x10 then Act.guard (fld v 30 2 != 0) (flashCmd (fld v 30 2) (BitVec.ofNat 12 (fld v 12 12)))
  else if 0x1000 ≤ a ∧ a < 0x2000 then modMgmt (fun m => { m with flashBuf := m.flashBuf.write (a - 0x1000) (leBytes 4 v.toNat) })
  else Act.skip

/-- A vector is unmasked (R388): a pending interrupt is sent once. -/
def unmask (f v : Nat) : Act := fun s =>
  let k := f * 64 + v
  if s.pcie.unmasked.contains k then [] else Act.all [
    modPcie (fun p => { p with unmasked := p.unmasked ++ [k] }),
    Act.guard (s.pcie.pendingBits.contains k) (Act.all [
      modPcie (fun p => { p with pendingBits := p.pendingBits.filter (fun e => e != k) }),
      modOut (fun o => { o with irqs := o.irqs ++ [(f, v)] })])] s

/-- A write to a function's MSI-X table (R388). -/
def msixWrite (f a : Nat) (v : BitVec 32) : Act :=
  if a % 16 = 12 then
    (if bit v 0 then modPcie (fun p => { p with unmasked := p.unmasked.filter (fun e => e != f * 64 + a / 16) })
     else unmask f (a / 16))
  else modPcie (fun p => { p with msixTable := Tab.set 0 p.msixTable (msixKey f (a / 4)) v })

/-! ### The whole map -/

/-- A write in the hub's registers. -/
def hubWrite (fn : Fn) (a : Nat) (v : BitVec 32) : Act :=
  if a = 0x64 then replThr v
  else if a = 0x70 then fwPart fn (katCmd v) else if a = 0x7C then fwPart fn (urstWrite v)
  else if a = 0x80 then debugWrite v
  else if a = 0x90 then aperWrite false v else if a = 0x94 then aperWrite true v
  else if a = 0x98 then alertWrite v else if a = 0x9C then modHub (fun h => { h with alertEn := v })
  else if 0x2000 ≤ a ∧ a < 0x2800 then loadWrite fn ((a - 0x2000) / 0x40) (a % 0x40) v
  else if 0x3000 ≤ a ∧ a < 0x4000 then (if a % 0x80 = 0 then pfaultWrite ((a - 0x3000) / 0x80) v else Act.skip)
  else if 0x4000 ≤ a ∧ a < 0x4400 then ctxWrite fn ((a - 0x4000) / 0x20) (a % 0x20) v
  else if 0x4400 ≤ a ∧ a < 0x4800 then syncWrite ((a - 0x4400) / 0x20) (a % 0x20) v
  else if 0x8000 ≤ a ∧ a < 0x9000 then recWrite ((a - 0x8000) / 0x80) (a % 0x80) v
  else if 0x9000 ≤ a ∧ a < 0x9400 then
    Act.guard (a % 0x20 == 0 && v == 1) (partCmd fn ((a - 0x9000) / 0x20) (rewindStart ((a - 0x9000) / 0x20)))
  else if 0xA000 ≤ a ∧ a < 0xA800 then partCfgWrite ((a - 0xA000) / 0x40) (a % 0x40) v
  else Act.skip

/-- A write in TIM (R36, R37, R379). -/
def timWrite (a : Nat) (v : BitVec 32) : Act :=
  if a = 8 then hallWrite false v else if a = 0xC then hallWrite true v
  else if a = 0x10 then pintleCfg v else if a = 0x18 then holdLead v else if a = 0x1C then holdMaxWrite v
  else if a = 0x20 then modTim (fun t => { t with int := t.int &&& ~~~(v.setWidth 5) })
  else if a = 0x28 then Act.guard (bit v 31) (rejoinAct (v.setWidth 16))
  else if 0x1000 ≤ a ∧ a < 0x1800 then
    let n := (a - 0x1000) / 0x40
    if a % 0x40 = 0 then domCtrl n v else if a % 0x40 = 8 then domOrigin n false v
    else if a % 0x40 = 0xC then domOrigin n true v else Act.skip
  else Act.skip

/-- A write to a 4-byte aligned offset of the physical function's map by function `fn`, which may write there. -/
def regWrite (fn : Fn) (a : Nat) (v : BitVec 32) : Act :=
  if a < 0x100000 then hubWrite fn a v
  else if a < 0x200000 then timWrite (a - 0x100000) v
  else if a < 0x300000 then secWrite fn (a - 0x200000) v
  else if a < 0x400000 then kwyWrite fn (a - 0x300000) v
  else if a < 0x500000 then fltWriteReg fn (a - 0x400000) v
  else if a < 0x800000 then (match filterAt (a - 0x500000) with
    | some (b, r) => filterWrite b r v
    | none => Act.skip)
  else if 0x900000 ≤ a ∧ a < 0xD00000 then queueWrite fn ((a - 0x900000) / 0x40) (a % 0x40) v
  else if 0x1000000 ≤ a ∧ a < 0x1000000 + 20 * 0x200000 then columnWrite ((a - 0x1000000) / 0x200000) (a % 0x200000) v
  else if 0x4000000 ≤ a ∧ a < 0x5000000 then dieWrite ((a - 0x4000000) / 0x400000) (a % 0x400000) v
  else if 0x5000000 ≤ a ∧ a < 0x5002000 then mgmtWrite (a - 0x5000000) v
  else if 0x6000000 ≤ a ∧ a < 0x6000400 then msixWrite 0 (a - 0x6000000) v
  else Act.skip

/-- A 32 bit write to a function's own BAR0 (R5, R386, R387, R418). -/
def busWrite (fn : Fn) (a : Nat) (v : BitVec 32) : Act := Act.when (fun s => reaches s fn a && a % 4 == 0) (match fn with
  | .vf n => (match vfView n a with
    | .reg off true => regWrite fn off v
    | .msix r => msixWrite (n + 1) r v
    | .bell j false => bellAct fn j v
    | _ => Act.skip)
  | _ => regWrite fn a v)

/-! ### Commands -/

/-- REGISTER_WRITE (R5). -/
def execRegisterWrite (fn : Fn) (off : BitVec 32) (v : Word) (s : State) : Host.Outcome State Fault Refusal :=
  .next ((busWrite fn off.toNat v).run s)

/-- MOVE (R204). -/
def execMove (fn : Fn) (part : BitVec 5) (seg : BitVec 12) (s : State) : Host.Outcome State Fault Refusal :=
  .next ((fwPart fn (requestMove part.toNat seg.toNat)).run s)

/-- HOSTWIN_WRITE (R204). -/
def execHostwinWrite (fn : Fn) (part reg : Nat) (v : Word) (s : State) : Host.Outcome State Fault Refusal :=
  .next ((pfWrite fn 0x300100 (Act.guard (decide (part < 32) && decide (reg < 3))
    (hostwin part (if reg = 0 then 0 else 4 + 4 * reg) v))).run s)

/-- DOORBELL (R168, R387). -/
def execDoorbell (fn : Fn) (queue : Nat) (tail : Word) (s : State) : Host.Outcome State Fault Refusal :=
  .next ((Act.when (fun s => reaches s fn 0x900010 && decide (queue < 65536)) (bellAct fn queue tail)).run s)

/-- HALL_TIME_WRITE (R18, R36). -/
def execHallTimeWrite (fn : Fn) (v : Word) (s : State) : Host.Outcome State Fault Refusal :=
  .next ((pfWrite fn 0x100008 (hallWrite false v)).run s)

/-- PINTLE_CFG_WRITE (R18). -/
def execPintleCfgWrite (fn : Fn) (v : Word) (s : State) : Host.Outcome State Fault Refusal :=
  .next ((pfWrite fn 0x100010 (pintleCfg v)).run s)

/-- HOLD_LEAD_WRITE (R31). -/
def execHoldLeadWrite (fn : Fn) (v : Word) (s : State) : Host.Outcome State Fault Refusal :=
  .next ((pfWrite fn 0x100018 (holdLead v)).run s)

/-- HOLD_MAX_WRITE (R36). -/
def execHoldMaxWrite (fn : Fn) (v : Word) (s : State) : Host.Outcome State Fault Refusal :=
  .next ((pfWrite fn 0x10001C (holdMaxWrite v)).run s)

/-- DOMAIN_ACTIVATE (R37): a CTRL write with ACTIVE = 1. -/
def execDomainActivate (fn : Fn) (part : Nat) (v : Word) (s : State) : Host.Outcome State Fault Refusal :=
  .next ((pfWrite fn 0x101000 (Act.guard (decide (part < 32) && bit v 31) (domCtrl part v))).run s)

/-- DOMAIN_DEACTIVATE (R37): a CTRL write with ACTIVE = 0. -/
def execDomainDeactivate (fn : Fn) (part : Nat) (v : Word) (s : State) : Host.Outcome State Fault Refusal :=
  .next ((pfWrite fn 0x101000 (Act.guard (decide (part < 32) && !bit v 31) (domCtrl part v))).run s)

/-- REJOIN (R379). -/
def execRejoin (fn : Fn) (target : BitVec 16) (s : State) : Host.Outcome State Fault Refusal :=
  .next ((pfWrite fn 0x100028 (rejoinAct target)).run s)

/-- DEBUG_MODE_WRITE (R95). -/
def execDebugModeWrite (fn : Fn) (v : Word) (s : State) : Host.Outcome State Fault Refusal :=
  .next ((pfWrite fn 0x80 (debugWrite v)).run s)

/-- PFAULT_CLEAR (R94). -/
def execPfaultClear (fn : Fn) (part : Nat) (v : Word) (s : State) : Host.Outcome State Fault Refusal :=
  .next ((pfWrite fn 0x3000 (Act.guard (decide (part < 32)) (pfaultWrite part v))).run s)

/-- REC_CONFIG_WRITE (R278). -/
def execRecConfigWrite (fn : Fn) (part off : Nat) (v : Word) (s : State) : Host.Outcome State Fault Refusal :=
  .next ((partWrite fn part 0x8000 (Act.guard (decide (off < 0x80) && off % 4 == 0) (recWrite part off v))).run s)

/-- PARTITION_CONFIG_WRITE (R329). -/
def execPartitionConfigWrite (fn : Fn) (part off : Nat) (v : Word) (s : State) : Host.Outcome State Fault Refusal :=
  .next ((pfWrite fn 0xA000 (Act.guard (decide (part < 32)) (partCfgWrite part off v))).run s)

/-- REPL_THR_WRITE (R319). -/
def execReplThrWrite (fn : Fn) (v : Word) (s : State) : Host.Outcome State Fault Refusal :=
  .next ((pfWrite fn 0x64 (replThr v)).run s)

/-- SHADOW_RATE_WRITE (R308). -/
def execShadowRateWrite (fn : Fn) (col : Nat) (v : Word) (s : State) : Host.Outcome State Fault Refusal :=
  .next ((pfWrite fn 0x1010000 (Act.guard (decide (col < 20)) (shadowRate col v))).run s)

/-- LINK_DISABLE (R223). -/
def execLinkDisable (fn : Fn) (l : LinkId) (v : Word) (s : State) : Host.Outcome State Fault Refusal :=
  .next ((pfWrite fn 0x4001008 (Act.when (fun s => l.wf && !absentDie s l.die) (linkCtl l v))).run s)

/-- WRR_WRITE (R225). -/
def execWrrWrite (fn : Fn) (l : LinkId) (v : Word) (s : State) : Host.Outcome State Fault Refusal :=
  .next ((pfWrite fn 0x400100C (Act.when (fun s => l.wf && !absentDie s l.die) (wrrWrite l v))).run s)

/-- CPER_CFG_WRITE (R321). -/
def execCperCfgWrite (fn : Fn) (v : Word) (s : State) : Host.Outcome State Fault Refusal :=
  .next ((pfWrite fn 0x400018 (cperCfg v)).run s)

/-- APERTURE_BASE_WRITE (R385). -/
def execApertureBaseWrite (fn : Fn) (high : Bool) (v : Word) (s : State) : Host.Outcome State Fault Refusal :=
  .next ((pfWrite fn 0x90 (aperWrite high v)).run s)

/-- FILTER_SET_WRITE (R356). -/
def execFilterSetWrite (fn : Fn) (block off : Nat) (v : Word) (s : State) : Host.Outcome State Fault Refusal :=
  .next ((pfWrite fn 0x500800 (Act.guard (decide (block < 24)) (filterWrite block off v))).run s)

/-- A written filter set takes effect (R356). -/
def filterApply (b : Nat) : Act := Act.when (fun s => !s.hub.stopped && decide (b < 24)) (modPmc (fun p =>
  { p with filters := Tab.set {} p.filters b (Tab.get {} p.written b) }))

/-- FILTER_SET_APPLY (R356). -/
def execFilterSetApply (block : Nat) (s : State) : Host.Outcome State Fault Refusal := .next ((filterApply block).run s)

/-- MSIX_UNMASK (R388). -/
def execMsixUnmask (fn : Fn) (vector : Nat) (s : State) : Host.Outcome State Fault Refusal :=
  .next ((Act.when (fun s => reaches s fn 0x6000000 && decide (vector < if isPf fn then 64 else 8))
    (unmask (fnIdx fn) vector)).run s)

end Sys2Proof.Machine
end

