-- ==== Sys2Proof/Machine/Host.lean ====
section
/-!
DEFINITION. The host's side of the map: reads and what they do (R5, R36, R37, R350, R358, R417), the aperture (R385) and the Sahver
windows as the physical function and the management port reach them (R175, R338), accesses that are not supported, and class 4
management messages (R211).
-/
namespace Sys2Proof.Machine

/-! ### Reads -/

/-- Offset in the physical function's map that a function's own offset shows, if it shows a register. -/
def mapOffset (fn : Fn) (a : Nat) : Option Nat := match fn with
  | .vf n => (match vfView n a with
    | .reg off _ => some off
    | _ => none)
  | _ => some a

/-- The counter that the map has at an offset. -/
def counterIn (a : Nat) : Option (Nat × Nat) := if a < 0x500000 ∨ 0x800000 ≤ a then none else counterAt (a - 0x500000)

/-- The counter at an offset of the map, if its die is there. -/
def counterHere (s : State) (a : Nat) : Option (Nat × Nat) :=
  if 0x560000 ≤ a ∧ a < 0x568000 ∧ absentDie s ((a - 0x560000) / 0x2000) then none else counterIn a

/-- The high word that a read of the low word at `a` latches (R36, R37, R350, R358). -/
def latchHigh (s : State) (fn : Fn) (a : Nat) : Option (BitVec 32) :=
  if a = 0x100008 then some (hi32 s.tim.hall)
  else if 0x101000 ≤ a ∧ a < 0x101800 then
    let d := s.dom ((a - 0x101000) / 0x40)
    let r := a % 0x40
    if r = 8 then some (hi32 d.origin) else if r = 0x10 then some (hi32 (d.heldNow s.tim.hall))
    else if r = 0x18 then some (hi32 d.psc) else none
  else if a = 0x5F0000 then some (hi32 (Tab.get 0 s.pmc.rstamp (fnLatch fn)))
  else if a % 8 = 0 then
    (counterHere s a).map (fun c => ((counterVal s (fnIdx fn != 0) c.1) >>> 32).setWidth 32)
  else none

/-- Hall time at which a counter is sampled (R358): 24 ns after the read reaches the hub, 12 ns more for each mesh crossing. -/
def sampleTime (s : State) (crossings : Nat) : BitVec 64 := s.tim.hall + BitVec.ofNat 64 ((24 + 12 * crossings) * 16)

/-- What a read of a 4-byte aligned offset of the map does beside returning its value. -/
def readEffect (fn : Fn) (a : Nat) : Act := fun s => Act.all [
  match latchHigh s fn a with
  | some v => modPcie (fun p => { p with latches := Tab.set 0 p.latches (latchKey fn (a + 4)) v })
  | none => Act.skip,
  match (if a % 8 = 0 then counterHere s a else none) with
  | some c => Act.guard (isPf fn) (modPmc (fun p => { p with rstamp := Tab.set 0 p.rstamp (fnLatch fn) (sampleTime s c.2) }))
  | none => Act.skip,
  Act.guard (a == 0x5000000) (modMgmt (fun m => { m with frame := 0, short := 0, overrun := 0, badcmd := 0 }))] s

/-- A 32 bit read's value: 0 where the access is not served (R374). -/
def busRead (s : State) (fn : Fn) (a : Nat) : BitVec 32 := if reaches s fn a then busVal s fn a else 0

/-- A 32 bit read's effect. -/
def busReadEffect (fn : Fn) (a : Nat) : Act := Act.when (fun s => reaches s fn a) (match mapOffset fn a with
  | some off => readEffect fn off
  | none => Act.skip)

/-- A read by a function: data and completion go out. -/
def readAct (fn : Fn) (a : Nat) : Act := fun s =>
  if s.hub.stopped then [] else Act.all [
    modOut (fun o => { o with data := (busRead s fn a).setWidth 64, unsupported := !fnThere s fn }),
    busReadEffect fn a] s

/-- HALL_TIME_READ (R36). -/
def execHallTimeRead (fn : Fn) (s : State) : Host.Outcome State Fault Refusal :=
  .next ((Act.guard (isPf fn) (readAct fn 0x100008)).run s)

/-- An offset is the low word of a counter, on a die that is there or not: one of an absent die reads 0 (R4). -/
def isCounter (fn : Fn) (a : Nat) : Bool :=
  a % 8 == 0 && ((mapOffset fn a).bind counterIn).isSome

/-- PMC_COUNTER_READ (R358). -/
def execPmcCounterRead (fn : Fn) (off : BitVec 32) (s : State) : Host.Outcome State Fault Refusal :=
  .next ((Act.guard (isCounter fn off.toNat) (readAct fn off.toNat)).run s)

/-- LOW_WORD_READ (R37). -/
def execLowWordRead (fn : Fn) (off : BitVec 32) (s : State) : Host.Outcome State Fault Refusal :=
  .next ((Act.when (fun s => off.toNat % 4 == 0 &&
    (((mapOffset fn off.toNat).bind (latchHigh s fn)).isSome || isCounter fn off.toNat))
    (readAct fn off.toNat)).run s)

/-- RC_REGISTER_READ (R5): `MGMT_ERR` is the only RC register. -/
def execRcRegisterRead (fn : Fn) (off : BitVec 32) (s : State) : Host.Outcome State Fault Refusal :=
  .next ((Act.guard (mapOffset fn off.toNat == some 0x5000000) (readAct fn off.toNat)).run s)

/-! ### Sizes (R417) -/

/-- Regions that accept naturally aligned accesses of 1 and 2 bytes too. -/
def byteRegion (fn : Fn) (a : Nat) : Bool :=
  let within (lo hi : Nat) : Bool := decide (lo ≤ a) && decide (a < hi)
  match fn with
  | .vf _ => within 0x2000 0x2080 || within 0x3000 0x3008
  | _ => within 0x10000 0x20000 || within 0x6000 0x8000 || within 0x410000 0x420000 || within 0x208000 0x210000 ||
      within 0x5001000 0x5002000 || within 0x6000000 0x6000400 || within 0x6008000 0x6008008 ||
      (within 0x4000000 0x5000000 &&
        (let r := a % 0x400000
         (decide (0x100000 ≤ r) && decide (r < 0x160000)) || (decide (0x200000 ≤ r) && decide (r < 0x2C0000))))

/-- An access that BAR0 accepts (R417). -/
def sizeOk (fn : Fn) (a size : Nat) : Bool :=
  ((size == 4 || size == 8) && a % size == 0) || ((size == 1 || (size == 2 && a % 2 == 0)) && byteRegion fn a)

/-- An access of another size or alignment: Unsupported Request and no effect. -/
def unsupportedAct (fn : Fn) (a size : Nat) : Act := fun s =>
  if s.hub.stopped || sizeOk fn a size then [] else modOut (fun o => { o with unsupported := true, data := 0 }) s

/-- UNSUPPORTED_ACCESS (R417). -/
def execUnsupportedAccess (fn : Fn) (off : BitVec 64) (size : Nat) (_write : Bool) (s : State) :
    Host.Outcome State Fault Refusal := .next ((unsupportedAct fn off.toNat size).run s)

/-! ### The local address space from outside (R175, R338) -/

/-- Bytes of a column that an access from outside moves (R352): it carries no partition. -/
def countOuter (a n : Nat) (write : Bool) : Act :=
  let o : Occ := { master := 11, priv := true, addr := some a }
  if a < 20 * dramSpan then countF (a / dramSpan) (ctrCol (a / dramSpan) (if write then 0x8F else 0x8E)) (units256 n) o
  else if sramBase ≤ a ∧ a < sramBase + 20 * 0x10000000 then
    let c := (a - sramBase) / 0x10000000
    countF c (ctrCol c (if (a - sramBase) % 0x10000000 < 0x2000000 then 0x91 else 0x92)) (units256 n) o
  else Act.skip

/-- A write from outside to a page that a partition has bound: a marked page is copied first, a page of a move becomes dirty
(R190, R290), and a copy of its channel is out of date (R306). -/
def touchPage (a : Nat) : Act := fun s => Act.each allParts (fun n => fun s =>
  Act.each ((s.part n).run.pages.filter (fun e => e.2.frame == a / pageSize && e.2.home != .remote)) (fun e =>
    Act.all [cowCopy n (e.1 / 0x80000) (e.1 % 0x80000), moveDirty n (e.1 / 0x80000) (e.1 % 0x80000),
      frameDirty n (a / pageSize)]) s) s

/-- One byte written from outside. -/
def outerPoke (a : Nat) (b : Byte) : Act := fun s => if barred s a then [] else Act.all [touchPage a, poke1 a b] s

/-- The bytes of an access, and how many of them are barred. -/
def accessBytes (a n : Nat) : List Nat := (List.range n).map (a + ·)

/-- A read of memory from outside: what it counts. -/
def outerReadEffect (a n : Nat) : Act := fun s => Act.all [
  Act.guard ((accessBytes a n).any (barred s)) countBad, Act.guard (!barred s a) (countOuter a n false)] s

/-- A write from outside that must wait for the drain of a snapshot (R290). -/
def outerHeld (s : State) (a len : Nat) : Bool := s.parts.any (fun e => e.2.snap.state == .draining &&
  e.2.run.pages.any (fun g => g.2.home != .remote && (pagesIn a len).contains g.2.frame &&
    cowFull s e.1 (g.1 / 0x80000) (g.1 % 0x80000 * pageSize) pageSize))

/-- A write of memory from outside. One that must wait for the drain of a snapshot is answered with a request to repeat it and has no
effect yet (R290; DESIGN CHOICE, log entry 115). -/
def outerWrite (a : Nat) (bs : List Byte) : Act := fun s =>
  if outerHeld s a bs.length then modOut (fun o => { o with retry := true }) s else Act.all [
  modOut (fun o => { o with retry := false }),
  Act.guard ((accessBytes a bs.length).any (barred s)) countBad, Act.guard (!barred s a) (countOuter a bs.length true),
  Act.each (bs.zipIdx) (fun e => outerPoke (a + e.2) e.1)] s

/-! ### The register window -/

/-- The words of a register access of `size` bytes at offset `r`. -/
def wordsOf (r size : Nat) : List Nat := if size = 8 then [r, r + 4] else [r / 4 * 4]

/-- The value of a register access, low word first. -/
def regData (s : State) (fn : Fn) (r size : Nat) : BitVec 64 :=
  if size = 8 then busRead s fn (r + 4) ++ busRead s fn r
  else BitVec.ofNat 64 (fld (busRead s fn (r / 4 * 4)) (r % 4 * 8) (size * 8))

/-- The value of an 8 byte read whose low word latches its high word. -/
def regData8 (s : State) (fn : Fn) (r : Nat) : BitVec 64 :=
  busRead ((busReadEffect fn r).run s) fn (r + 4) ++ busRead s fn r

/-- A register write of `size` bytes: a part of a word keeps the word's other bytes. -/
def regStore (fn : Fn) (r size : Nat) (v : BitVec 64) : Act :=
  if size = 8 then Act.all [busWrite fn r (lo32 v), busWrite fn (r + 4) (hi32 v)]
  else if size = 4 then busWrite fn r (lo32 v)
  else fun s => busWrite fn (r / 4 * 4) (putFld (busRead s fn (r / 4 * 4)) (r % 4 * 8) (size * 8) (fld v 0 (size * 8))) s

/-! ### The aperture (R385) -/

/-- A read of `size` bytes at local address `a` by function `fn`. -/
def localRead (fn : Fn) (a size : Nat) : Act := fun s => match place s a with
  | .reg r =>
    if sizeOk fn r size then Act.all [
      modOut (fun o => { o with data := if size = 8 then regData8 s fn r else regData s fn r size, unsupported := false }),
      Act.each (wordsOf r size) (busReadEffect fn)] s
    else modOut (fun o => { o with data := 0, unsupported := true }) s
  | _ => Act.all [
      modOut (fun o => { o with
        data := BitVec.ofNat 64 (leNat ((accessBytes a size).map (outerByte s))), unsupported := false }),
      outerReadEffect a size] s

/-- A write of `size` bytes at local address `a` by function `fn`. -/
def localWrite (fn : Fn) (a size : Nat) (v : BitVec 64) : Act := fun s => match place s a with
  | .reg r =>
    if sizeOk fn r size then Act.all [modOut (fun o => { o with unsupported := false }), regStore fn r size v] s
    else modOut (fun o => { o with unsupported := true }) s
  | _ => Act.all [modOut (fun o => { o with unsupported := false }), outerWrite a (leBytes size v.toNat)] s

/-- An access through BAR2 (R385). -/
def apertureAct (off size : Nat) (data : Option (BitVec 64)) : Act :=
  Act.when (fun s => serving s && fnThere s .pf && decide (1 ≤ size) && decide (size ≤ 8)) (fun s =>
    let a := localOf s (s.hub.aper.toNat + off)
    match data with
    | none => localRead .pf a size s
    | some v => localWrite .pf a size v s)

/-- APERTURE_ACCESS (R385). -/
def execApertureAccess (off : BitVec 32) (size : Nat) (data : Option (BitVec 64)) (s : State) :
    Host.Outcome State Fault Refusal := .next ((apertureAct off.toNat size data).run s)

/-! ### Management messages (R211) -/

/-- The answer to a management read: the words read, in class 4 to the device that asked (R211, R424). -/
def mgmtAnswer (m : Msg) (bs : List Byte) : Act := fun s =>
  match directLink s m.srcDev.toNat with
  | some l => postMgmt l { answer m .mgmt 0 bs.length mgmtReply bs with srcDev := s.hub.devno } s
  | none => fltEvent dieHub 4 .answerDropped none 0 s

/-- The bytes of `k` register words from offset `r`. -/
def regBytes (s : State) (r k : Nat) : List Byte :=
  (List.range k).flatMap (fun i => leBytes 4 (busRead s .peer (r + 4 * i)).toNat)

/-- The register accesses of a management message: a payload is written word by word, a message without one reads `BYTES` bytes,
which its answer carries. The format is not given (DESIGN CHOICE, log entry 74). -/
def mgmtAccess (m : Msg) : Act := fun s => if m.arg != 0 then [] else match place s (m.addr.toNat % 2 ^ 48) with
  | .reg r =>
    if m.payload.isEmpty then
      let k := m.bytes.toNat % 4096 / 4
      Act.all [mgmtAnswer m (regBytes s r k), Act.each (List.range k) (fun i => busReadEffect .peer (r + 4 * i))] s
    else Act.each (chunks 4 m.payload).zipIdx (fun e => busWrite .peer (r + 4 * e.2) (BitVec.ofNat 32 (leNat e.1))) s
  | _ => []

/-- A management message is served once. -/
def mgmtServe (l : LinkId) (cls : Nat) (m : Msg) : Act := fun s =>
  if seqSeen s.hub m.srcDev.toNat cls m.seq.toNat then freeCredits l cls (flitsOf m.payload.length) s
  else Act.all [noteSeq m.srcDev.toNat cls m.seq.toNat, mgmtAccess m, freeCredits l cls (flitsOf m.payload.length)] s

/-- The message has been assembled on the link, and nothing of its class waits before it. -/
def mgmtRow (l : LinkId) (m : Msg) : Act := fun s =>
  match (s.link l).rxMsgs.find? (fun e => decide (e.2 = m)) with
  | none => []
  | some e =>
    if m.kind != .mgmt || ((s.link l).rxMsgs.find? (fun x => x.1 == e.1)).map (fun x => decide (x.2 = m)) != some true then []
    else Act.all [modLink l (fun r => { r with rxMsgs := r.rxMsgs.erase e }), mgmtServe l e.1 m] s

/-- MSG_MANAGEMENT (R211). -/
def execMsgManagement (l : LinkId) (m : Msg) (s : State) : Host.Outcome State Fault Refusal := .next ((mgmtRow l m).run s)

end Sys2Proof.Machine
end

