-- ==== Sys2Proof/Machine/Spi.lean ====
section
/-!
DEFINITION. The SPI management target (R394 to R397) and the JTAG port (R399).
-/
namespace Sys2Proof.Machine

/-! ### SPI -/

/-- What a word address reaches (R395). -/
inductive SpiPlace where
  | reg (off : Nat)
  | mem (a : Nat)
  deriving DecidableEq, Repr

/-- The map of word addresses (R395). -/
def spiPlace (s : State) (A : Nat) : SpiPlace :=
  if 0x7FF800 ≤ A ∧ A < 0x800000 then .reg (0x5000000 + (A - 0x7FF800) * 4)
  else if A < 0x800000 then .reg (s.mgmt.bank.toNat * 0x2000000 + A * 4)
  else .mem (localOf s (s.mgmt.aper.toNat + (A - 0x800000) * 4))

/-- Word address of data word `i` (R394). -/
def spiAddr (A i : Nat) : Nat := (A + i) % 2 ^ 24

/-- The word that a READ brings from a word address. -/
def spiWord (s : State) (A : Nat) : BitVec 32 := match spiPlace s A with
  | .reg r => busRead s .mgmt r
  | .mem a => (match place s a with
    | .reg r => busRead s .mgmt r
    | _ => BitVec.ofNat 32 (leNat ((accessBytes a 4).map (outerByte s))))

/-- What a READ of a word does. -/
def spiWordEffect (A : Nat) : Act := fun s => match spiPlace s A with
  | .reg r => busReadEffect .mgmt r s
  | .mem a => (match place s a with
    | .reg r => busReadEffect .mgmt r s
    | _ => outerReadEffect a 4 s)

/-- What a WRITE of a word does. -/
def spiStore (A : Nat) (v : BitVec 32) : Act := fun s => match spiPlace s A with
  | .reg r => busWrite .mgmt r v s
  | .mem a => (match place s a with
    | .reg r => busWrite .mgmt r v s
    | _ => outerWrite a (leBytes 4 v.toNat) s)

/-- A frame clocks words beyond its last (R396). -/
def spiOverrun (extra : Nat) : Act := Act.guard (extra != 0) (modMgmt (fun m => { m with overrun := satAdd m.overrun 1 }))

def allOnes : BitVec 32 := 0xFFFFFFFF

/-- Sends a word on MISO. -/
def miso (v : BitVec 32) : Act := modOut (fun o => { o with miso := o.miso ++ [v] })

/-- A READ frame (R394): MISO carries the data words, each served in its turn, then all ones. -/
def spiReadAct (A count extra : Nat) : Act := Act.when (fun s => !s.hub.stopped) (Act.all [
  modOut (fun o => { o with miso := [] }),
  Act.each (List.range count) (fun i => fun s =>
    Act.all [miso (spiWord s (spiAddr A i)), spiWordEffect (spiAddr A i)] s),
  modOut (fun o => { o with miso := o.miso ++ List.replicate extra allOnes }), spiOverrun extra])

/-- SPI_READ (R394, R396). -/
def execSpiRead (addr : BitVec 24) (count extra : Nat) (s : State) : Host.Outcome State Fault Refusal :=
  .next ((spiReadAct addr.toNat count extra).run s)

/-- A WRITE frame (R394): each word at its rising edge. -/
def spiWriteAct (A : Nat) (data : List (BitVec 32)) : Act := Act.when (fun s => !s.hub.stopped)
  (Act.each data.zipIdx (fun e => spiStore (spiAddr A e.2) e.1))

/-- SPI_WRITE (R394). -/
def execSpiWrite (addr : BitVec 24) (data : List Word) (s : State) : Host.Outcome State Fault Refusal :=
  .next ((spiWriteAct addr.toNat data).run s)

/-- The status word (R397). -/
def spiStatusWord (s : State) : BitVec 32 := w32 [(31, b2n s.hub.ready), (30, b2n s.hub.bootFail), (29, b2n s.pcie.up0),
  (28, b2n s.pcie.up1), (27, b2n (alertLow s)), (26, b2n (replaceBit s)), (16, s.hub.stage.toNat)]

/-- A STATUS frame (R394, R396). -/
def spiStatusAct (extra : Nat) : Act := Act.when (fun s => !s.hub.stopped) (fun s => Act.all [
  modOut (fun o => { o with miso := spiStatusWord s :: List.replicate extra allOnes }), spiOverrun extra] s)

/-- SPI_STATUS (R397). -/
def execSpiStatus (extra : Nat) (s : State) : Host.Outcome State Fault Refusal := .next ((spiStatusAct extra).run s)

/-- The first two words are a command (R394). -/
def spiKnown (w0 w1 : BitVec 32) : Bool :=
  ((fld w0 24 8 == 0x0B || fld w0 24 8 == 0x02) && fld w1 16 16 == 0) || (w0 == 0x05000000 && w1 == 0)

/-- A frame of an unknown command (R396): all ones to its end, counted. -/
def spiUnknownAct (w0 w1 : BitVec 32) (words : Nat) : Act := Act.when (fun s => !s.hub.stopped && !spiKnown w0 w1) (Act.all [
  modOut (fun o => { o with miso := List.replicate words allOnes }),
  modMgmt (fun m => { m with badcmd := satAdd m.badcmd 1 })])

/-- SPI_UNKNOWN_COMMAND (R396). -/
def execSpiUnknownCommand (word0 word1 : Word) (words : Nat) (s : State) : Host.Outcome State Fault Refusal :=
  .next ((spiUnknownAct word0 word1 words).run s)

/-- A frame ends inside a word (R396). -/
def spiFrameAct (dataWord : Bool) : Act := Act.when (fun s => !s.hub.stopped) (modMgmt (fun m => { m with
  frame := satAdd m.frame 1, short := if dataWord then satAdd m.short 1 else m.short }))

/-- SPI_FRAME_ERROR (R396). -/
def execSpiFrameError (dataWord : Bool) (s : State) : Host.Outcome State Fault Refusal := .next ((spiFrameAct dataWord).run s)

/-! ### JTAG (R399) -/

/-- The model's numbers for the instructions in the instruction register. -/
def irBypass : Nat := 0
def irIdcode : Nat := 1
def irSample : Nat := 2
def irExtest : Nat := 3

/-- BYPASS: one bit, captured as 0, between TDI and TDO; the pins are the device's own. -/
def jtagBypass : Act := modMgmt (fun m => { m with ir := irBypass, bypassBit := false, pinsDriven := false })

/-- BYPASS (R399). -/
def execBypass (s : State) : Host.Outcome State Fault Refusal := .next (jtagBypass.run s)

/-- The identification code (R399). -/
def idcodeWord (f : Fuses) : BitVec 32 :=
  w32 [(28, (f.revMajor - 9).toNat), (12, 0x2596), (1, Config.jedecCode.toNat), (0, 1)]

/-- IDCODE (R399). -/
def jtagIdcode : Act := fun s => Act.all [
  modMgmt (fun m => { m with ir := irIdcode, idcode := idcodeWord s.fuses, pinsDriven := false }),
  modOut (fun o => { o with tdo := idcodeWord s.fuses })] s

def execIdcode (s : State) : Host.Outcome State Fault Refusal := .next (jtagIdcode.run s)

/-- SAMPLE/PRELOAD (R399): the pins' levels are shifted out and a value is shifted in; the pins go on. The cells and the levels
are free values. -/
def jtagSample (preload : List Bool) : Act := withFree (fun i => Act.all [
  modMgmt (fun m => { m with ir := irSample, bsr := preload, pinsDriven := false }),
  modOut (fun o => { o with scan := (List.range Config.boundaryLength).map (Config.boundaryCapture i) })])

/-- SAMPLE_PRELOAD (R399). -/
def execSamplePreload (preload : List Bool) (s : State) : Host.Outcome State Fault Refusal :=
  .next ((jtagSample preload).run s)

/-- EXTEST is accepted (R399). -/
def extestOk (s : State) : Bool := decide (s.hub.stage.toNat ≤ 2) || s.hub.bootFail

/-- EXTEST drives the pins from the boundary register, or acts as BYPASS. -/
def jtagExtest (drive : List Bool) : Act := fun s =>
  if extestOk s then modMgmt (fun m => { m with ir := irExtest, bsr := drive, pinsDriven := true }) s else jtagBypass s

/-- EXTEST (R399). -/
def execExtest (drive : List Bool) (s : State) : Host.Outcome State Fault Refusal := .next ((jtagExtest drive).run s)

/-- JTAG_PRIVATE (R399): outside debug mode it acts as BYPASS; what it does in debug mode is not given. -/
def execJtagPrivate (_ir : Nat) (s : State) : Host.Outcome State Fault Refusal :=
  if s.hub.debugMode then .refused .jtagPrivateUnspecified else .next (jtagBypass.run s)

end Sys2Proof.Machine
end

