-- ==== Sys2Proof/Machine/Sync.lean ====
section
/-!
DEFINITION. Latch and hasp instructions (R149 to R166).
-/
namespace Sys2Proof.Machine

/-- Die of a latch (R149): its column, 20 for the hub, 21 for a number that names none. -/
def latchDie (l : Nat) : Nat := if l < 327680 then l / 16384 else if l < 393216 then 20 else 21

/-- Die of a stream's engine: its column, 20 for the hub, 30 and above for link dies. -/
def engineDie (p : Part) (sid : StreamId) : Nat :=
  if kindQuarter sid.kind then ((p.quarter sid.own sid.unit).getD 0) / 4
  else if sid.kind == .hdma then 20 else 30 + sid.unit

/-- Latch access time (R152). -/
def latchTime (p : Part) (sid : StreamId) (l : Nat) : Nat := if engineDie p sid == latchDie l then 4 else 160
/-- Access time of a hasp: hasps live in the hub (R152). -/
def haspTime (p : Part) (sid : StreamId) : Nat := if engineDie p sid == 20 then 4 else 160

/-- A latch or hasp instruction whose access breaks the ward is suppressed (R93, R150). Latches, hasps and slots have no address, so
the ADDR that R94 captures is 0 (DESIGN CHOICE, log entry 106). -/
def suppressed (dur : Nat) : Verdict := .go { dur := dur, ward := some 0 }

/-- LADD (R153). -/
def laddBody (c : Ctx) : Verdict :=
  let l := fld c.w 45 19
  let dur := latchTime c.p c.sid l
  if c.p.hasLatch l then .go { dur := dur, pend := [.latch l (fld c.w 0 32)] } else suppressed dur

/-- LADD (R153): adds AMOUNT to a latch at its visibility point. -/
def execLadd (sid : StreamId) (w : InsnWord) (s : State) : Host.Outcome State Fault Refusal :=
  .next ((issue sid w (opc w == 0x08) laddBody).run s)

/-- Target of LWAIT (R154), in U64 arithmetic. -/
def lwaitTarget (st : Stream) (w : InsnWord) : Nat :=
  (fld w 0 15 + fld w 15 16 * st.epoch.toNat + fld w 31 12 * (st.ctr (fld w 43 2)).toNat) % 2 ^ 64

/-- LWAIT (R154): its planned time is max(PLAN, access time); what it awaits is judged at its visibility point, and until
it ends it stays at its queue's head (R169). -/
def lwaitBody (c : Ctx) : Verdict :=
  let l := fld c.w 45 19
  let dur := max (fld c.w 80 24) (latchTime c.p c.sid l)
  if c.p.hasLatch l then
    .go { dur := dur, wait := .latch l (lwaitTarget c.st c.w) (fld c.w 64 16), cause := .latch,
          next := some c.q.head, act := fun _ => setWait c.st.queue 3 c.psc }
  else suppressed dur

/-- LWAIT (R154). -/
def execLwait (sid : StreamId) (w : InsnWord) (s : State) : Host.Outcome State Fault Refusal :=
  .next ((issue sid w (opc w == 0x09) lwaitBody).run s)

/-- The class in which a signal travels (R158): that of the last remote write or atomic with its TAG to its rank. -/
def signalClass (r : Run) (rank tag : Nat) : Nat :=
  ((r.lastClass.find? (fun e => e.1 == rank && e.2.1 == tag)).map (·.2.2)).getD 2

/-- Posts the signal of an LSIG (R158, R423). -/
def lsigPost (c : Ctx) : Act :=
  let rank := fld c.w 88 16
  let tag := fld c.w 72 16
  postTo (deliver c.n) c.n c.sid.own rank (some (c.sid, c.q.head, c.w)) .signal (signalClass c.p.run rank tag) 0
    (BitVec.ofNat 16 tag) (fld c.w 53 19 + fld c.w 34 19 * 2 ^ 19) (fld c.w 0 32)
    (fld c.w 105 3 + 8 * fld c.w 104 1) []

/-- LSIG (R158). A rank that has no entry, or that no path reaches, keeps it from starting (R197, R424). -/
def lsigBody (c : Ctx) : Verdict :=
  if !canReach c.s c.n (fld c.w 88 16) then .fault .ward 0 0 else .go { dur := 4, act := fun _ => lsigPost c }

/-- LSIG (R158): sends a signal; its delivery is an external event. -/
def execLsig (sid : StreamId) (w : InsnWord) (s : State) : Host.Outcome State Fault Refusal :=
  .next ((issue sid w (opc w == 0x0A) lsigBody).run s)

/-- LBIND (R156). -/
def lbindBody (c : Ctx) : Verdict :=
  let f := fld c.w 45 19
  let d := fld c.w 26 19
  let dur := latchTime c.p c.sid f
  if c.p.hasLatch f && c.p.hasLatch d then .go { dur := dur, pend := [.bind f d (fld c.w 16 10)] } else suppressed dur

/-- LBIND (R156): takes effect at its visibility point. -/
def execLbind (sid : StreamId) (w : InsnWord) (s : State) : Host.Outcome State Fault Refusal :=
  .next ((issue sid w (opc w == 0x0B) lbindBody).run s)

/-- Generation of an arrival, modulo 2^32 (R164). -/
def harrGen (st : Stream) (w : InsnWord) : BitVec 32 :=
  BitVec.ofNat 32 (fld w 0 20) + st.ctr (fld w 20 2) + (if bit w 104 then st.epoch else 0)

/-- HARR (R164, R165). An arrival for G or G + 1 is recorded at issue; a later one waits at the queue head (log entry
32). -/
def harrBody (c : Ctx) : Verdict :=
  let h := fld c.w 28 12
  let slot := fld c.w 22 6
  let dur := haspTime c.p c.sid
  let x := c.s.hasp h
  let g := harrGen c.st c.w
  let d := (g - x.gen).toNat
  if !c.p.hasHasp h then suppressed dur
  else if dep c.w && x.kind != 2 then .fault .illegal 5 0
  else if x.nslot ≤ slot then suppressed dur
  else if d ≤ 1 then
    (if bit (if d = 0 then x.mask0 else x.mask1) slot then .fault .latchBound 0 0
     else .go { dur := dur, act := fun _ => recordArrival c.n h slot g (knownNow c.p.run c.st c.psc) })
  else if d < 2 ^ 31 then
    .go { dur := dur, wait := .hasp h g, cause := .latch, next := some c.q.head,
          act := fun _ => setWait c.st.queue 4 c.psc }
  else .go { dur := dur, act := fun _ => fltEvent dieHub 5 .haspDropped (some c.n) 0 }

/-- HARR (R164): arrives at a hasp. -/
def execHarr (sid : StreamId) (w : InsnWord) (s : State) : Host.Outcome State Fault Refusal :=
  .next ((issue sid w (opc w == 0x0C) harrBody).run s)

/-- HCFG (R163): the hasp is configured at the visibility point (R88, R152). -/
def hcfgBody (c : Ctx) : Verdict :=
  let h := fld c.w 52 12
  let rl := fld c.w 31 19
  let dur := haspTime c.p c.sid
  let x := c.s.hasp h
  if !(c.p.hasHasp h && c.p.hasLatch rl) then suppressed dur
  else if x.mask0 != 0 || x.mask1 != 0 then .wait 8
  else .go { dur := dur, pend := [.hcfg h (BitVec.ofNat 2 (fld c.w 50 2)) rl (fld c.w 24 7)] }

/-- HCFG (R163): configures a hasp. -/
def execHcfg (sid : StreamId) (w : InsnWord) (s : State) : Host.Outcome State Fault Refusal :=
  .next ((issue sid w (opc w == 0x0D) hcfgBody).run s)

end Sys2Proof.Machine
end

