-- ==== Sys2Proof/Machine/Dispatch.lean ====
section
/-!
DEFINITION. The dispatch: one arm per command, each a direct call of its meaning.
-/
namespace Sys2Proof.Machine

def exec (i : Instr) (s : State) : Host.Outcome State Fault Refusal :=
  match i with
  | .nop t w => Sys2Proof.Machine.execNop t w s
  | .strike t w => Sys2Proof.Machine.execStrike t w s
  | .epochLeader t w => Sys2Proof.Machine.execEpochLeader t w s
  | .epochMarker t w => Sys2Proof.Machine.execEpochMarker t w s
  | .loop t w => Sys2Proof.Machine.execLoop t w s
  | .halt t w => Sys2Proof.Machine.execHalt t w s
  | .trap t w => Sys2Proof.Machine.execTrap t w s
  | .ladd t w => Sys2Proof.Machine.execLadd t w s
  | .lwait t w => Sys2Proof.Machine.execLwait t w s
  | .lsig t w => Sys2Proof.Machine.execLsig t w s
  | .lbind t w => Sys2Proof.Machine.execLbind t w s
  | .harr t w => Sys2Proof.Machine.execHarr t w s
  | .hcfg t w => Sys2Proof.Machine.execHcfg t w s
  | .cld t w => Sys2Proof.Machine.execCld t w s
  | .cst t w => Sys2Proof.Machine.execCst t w s
  | .mmw t w => Sys2Proof.Machine.execMmw t w s
  | .mma t w => Sys2Proof.Machine.execMma t w s
  | .tbi t w => Sys2Proof.Machine.execTbi t w s
  | .tbd t w => Sys2Proof.Machine.execTbd t w s
  | .cmask t w => Sys2Proof.Machine.execCmask t w s
  | .vld t w => Sys2Proof.Machine.execVld t w s
  | .vst t w => Sys2Proof.Machine.execVst t w s
  | .vbcast t w => Sys2Proof.Machine.execVbcast t w s
  | .var t w => Sys2Proof.Machine.execVar t w s
  | .vint t w => Sys2Proof.Machine.execVint t w s
  | .vcmp t w => Sys2Proof.Machine.execVcmp t w s
  | .vsel t w => Sys2Proof.Machine.execVsel t w s
  | .vtr t w => Sys2Proof.Machine.execVtr t w s
  | .vtrExpd t w => Sys2Proof.Machine.execVtrExpd t w s
  | .vred t w => Sys2Proof.Machine.execVred t w s
  | .cvt t w => Sys2Proof.Machine.execCvt t w s
  | .vrnd t w => Sys2Proof.Machine.execVrnd t w s
  | .vseed t w => Sys2Proof.Machine.execVseed t w s
  | .vstep t w => Sys2Proof.Machine.execVstep t w s
  | .mcpy t w => Sys2Proof.Machine.execMcpy t w s
  | .pfh t w => Sys2Proof.Machine.execPfh t w s
  | .lwr t w => Sys2Proof.Machine.execLwr t w s
  | .lrd t w => Sys2Proof.Machine.execLrd t w s
  | .latom t w => Sys2Proof.Machine.execLatom t w s
  | .lset t w => Sys2Proof.Machine.execLset t w s
  | .cdesc t w => Sys2Proof.Machine.execCdesc t w s
  | .credReduce t w => Sys2Proof.Machine.execCredReduce t w s
  | .credAllreduce t w => Sys2Proof.Machine.execCredAllreduce t w s
  | .cbc t w => Sys2Proof.Machine.execCbc t w s
  | .ca2aEqual t w => Sys2Proof.Machine.execCa2aEqual t w s
  | .ca2aUnequal t w => Sys2Proof.Machine.execCa2aUnequal t w s
  | .ca2aDataPhase part op => Sys2Proof.Machine.execCa2aDataPhase part op s
  | .coaccSend t w => Sys2Proof.Machine.execCoaccSend t w s
  | .coaccApply t w => Sys2Proof.Machine.execCoaccApply t w s
  | .cring t w => Sys2Proof.Machine.execCring t w s
  | .ucfgRule t w => Sys2Proof.Machine.execUcfgRule t w s
  | .ucfgCombine t w => Sys2Proof.Machine.execUcfgCombine t w s
  | .uupd t w => Sys2Proof.Machine.execUupd t w s
  | .uchk t w => Sys2Proof.Machine.execUchk t w s
  | .ucomb t w => Sys2Proof.Machine.execUcomb t w s
  | .ubor t w => Sys2Proof.Machine.execUbor t w s
  | .uborReturn t w => Sys2Proof.Machine.execUborReturn t w s
  | .hxferIn t w => Sys2Proof.Machine.execHxferIn t w s
  | .hxferOut t w => Sys2Proof.Machine.execHxferOut t w s
  | .hnote t w => Sys2Proof.Machine.execHnote t w s
  | .hirq t w => Sys2Proof.Machine.execHirq t w s
  | .dependentArm t => Sys2Proof.Machine.execDependentArm t s
  | .holdPointMissed t => Sys2Proof.Machine.execHoldPointMissed t s
  | .holdTakeEffect part => Sys2Proof.Machine.execHoldTakeEffect part s
  | .holdMaxExpiry part => Sys2Proof.Machine.execHoldMaxExpiry part s
  | .idleCatchUp part => Sys2Proof.Machine.execIdleCatchUp part s
  | .operationVisibility part op how => Sys2Proof.Machine.execOperationVisibility part op how s
  | .operationLateComplete part op => Sys2Proof.Machine.execOperationLateComplete part op s
  | .cellPassEnd part op => Sys2Proof.Machine.execCellPassEnd part op s
  | .shadowCompareEnd col spare mismatch => Sys2Proof.Machine.execShadowCompareEnd col spare mismatch s
  | .lwaitDeadlineExpiry part op => Sys2Proof.Machine.execLwaitDeadlineExpiry part op s
  | .haspStrikeComplete hasp => Sys2Proof.Machine.execHaspStrikeComplete hasp s
  | .refreshPosition col ch => Sys2Proof.Machine.execRefreshPosition col ch s
  | .scrubPosition col ch bad => Sys2Proof.Machine.execScrubPosition col ch bad s
  | .freezeRefresh col ch => Sys2Proof.Machine.execFreezeRefresh col ch s
  | .keywayMoveCopyPage part seg page => Sys2Proof.Machine.execKeywayMoveCopyPage part seg page s
  | .snapshotDrainPage part col how => Sys2Proof.Machine.execSnapshotDrainPage part col how s
  | .recordCopyAccepted part => Sys2Proof.Machine.execRecordCopyAccepted part s
  | .replayInject part => Sys2Proof.Machine.execReplayInject part s
  | .flitSend l => Sys2Proof.Machine.execFlitSend l s
  | .flitReceive l f => Sys2Proof.Machine.execFlitReceive l f s
  | .ackSend l => Sys2Proof.Machine.execAckSend l s
  | .timeTransferSend l => Sys2Proof.Machine.execTimeTransferSend l s
  | .symbolThirdCopy l => Sys2Proof.Machine.execSymbolThirdCopy l s
  | .settledElectSend => Sys2Proof.Machine.execSettledElectSend s
  | .laneSymbolReceive l lane => Sys2Proof.Machine.execLaneSymbolReceive l lane s
  | .holdSymbolReceive l h => Sys2Proof.Machine.execHoldSymbolReceive l h s
  | .nakReceive l pos => Sys2Proof.Machine.execNakReceive l pos s
  | .haspSymbolReceive l h => Sys2Proof.Machine.execHaspSymbolReceive l h s
  | .timeSymbolReceive l t => Sys2Proof.Machine.execTimeSymbolReceive l t s
  | .ackReceive l pos credits => Sys2Proof.Machine.execAckReceive l pos credits s
  | .electReceive l c => Sys2Proof.Machine.execElectReceive l c s
  | .electionSettle => Sys2Proof.Machine.execElectionSettle s
  | .timeLockAcquired => Sys2Proof.Machine.execTimeLockAcquired s
  | .holdoverTimeout => Sys2Proof.Machine.execHoldoverTimeout s
  | .lostRelockRelease => Sys2Proof.Machine.execLostRelockRelease s
  | .pintleWaitNotice => Sys2Proof.Machine.execPintleWaitNotice s
  | .pintleSlewDone => Sys2Proof.Machine.execPintleSlewDone s
  | .timeCodeFrame frame => Sys2Proof.Machine.execTimeCodeFrame frame s
  | .msgWrite l m => Sys2Proof.Machine.execMsgWrite l m s
  | .msgReadRequest l m => Sys2Proof.Machine.execMsgReadRequest l m s
  | .msgReadReply l m => Sys2Proof.Machine.execMsgReadReply l m s
  | .msgSignal l m => Sys2Proof.Machine.execMsgSignal l m s
  | .msgAcknowledgement l m => Sys2Proof.Machine.execMsgAcknowledgement l m s
  | .msgAtomic l m => Sys2Proof.Machine.execMsgAtomic l m s
  | .msgAtomicReply l m => Sys2Proof.Machine.execMsgAtomicReply l m s
  | .msgRefusal l m => Sys2Proof.Machine.execMsgRefusal l m s
  | .msgClx l m => Sys2Proof.Machine.execMsgClx l m s
  | .msgManagement l m => Sys2Proof.Machine.execMsgManagement l m s
  | .topologyRecord l r => Sys2Proof.Machine.execTopologyRecord l r s
  | .topoSettle => Sys2Proof.Machine.execTopoSettle s
  | .laneFailure l lane => Sys2Proof.Machine.execLaneFailure l lane s
  | .linkSilenceTimeout l => Sys2Proof.Machine.execLinkSilenceTimeout l s
  | .linkTrained l peer pdie plink delay => Sys2Proof.Machine.execLinkTrained l peer pdie plink delay s
  | .hdmaChunkComplete port => Sys2Proof.Machine.execHdmaChunkComplete port s
  | .hdmaChunkTimeout port => Sys2Proof.Machine.execHdmaChunkTimeout port s
  | .pciePortDown port => Sys2Proof.Machine.execPciePortDown port s
  | .decSegmentEnd => Sys2Proof.Machine.execDecSegmentEnd s
  | .decMessageEnd part => Sys2Proof.Machine.execDecMessageEnd part s
  | .powerMsCheck means total => Sys2Proof.Machine.execPowerMsCheck means total s
  | .powerHoldFrame part => Sys2Proof.Machine.execPowerHoldFrame part s
  | .thermalMsCheck tcase dies => Sys2Proof.Machine.execThermalMsCheck tcase dies s
  | .vpwrInterval k => Sys2Proof.Machine.execVpwrInterval k s
  | .cperEccSummary => Sys2Proof.Machine.execCperEccSummary s
  | .deadbolt cause die site => Sys2Proof.Machine.execDeadbolt cause die site s
  | .firmwareWatchdogExpiry => Sys2Proof.Machine.execFirmwareWatchdogExpiry s
  | .deadboltReset => Sys2Proof.Machine.execDeadboltReset s
  | .startupPhaseEnd ms failed => Sys2Proof.Machine.execStartupPhaseEnd ms failed s
  | .phaseWatchdogExpiry unit cause => Sys2Proof.Machine.execPhaseWatchdogExpiry unit cause s
  | .pwrOkRise railsInRange => Sys2Proof.Machine.execPwrOkRise railsInRange s
  | .pwrOkFall => Sys2Proof.Machine.execPwrOkFall s
  | .railFault rail mv => Sys2Proof.Machine.execRailFault rail mv s
  | .perstNAssert => Sys2Proof.Machine.execPerstNAssert s
  | .configRequest port fn => Sys2Proof.Machine.execConfigRequest port fn s
  | .unsupportedAccess fn off size write => Sys2Proof.Machine.execUnsupportedAccess fn off size write s
  | .apertureAccess off size data => Sys2Proof.Machine.execApertureAccess off size data s
  | .vfFlr vf => Sys2Proof.Machine.execVfFlr vf s
  | .pfReset => Sys2Proof.Machine.execPfReset s
  | .vfEnableClear enable numVfs => Sys2Proof.Machine.execVfEnableClear enable numVfs s
  | .load fn part => Sys2Proof.Machine.execLoad fn part s
  | .loadDone part => Sys2Proof.Machine.execLoadDone part s
  | .start fn part => Sys2Proof.Machine.execStart fn part s
  | .unload fn part => Sys2Proof.Machine.execUnload fn part s
  | .save fn part => Sys2Proof.Machine.execSave fn part s
  | .restore fn part => Sys2Proof.Machine.execRestore fn part s
  | .ctxDone part => Sys2Proof.Machine.execCtxDone part s
  | .rewind fn part => Sys2Proof.Machine.execRewind fn part s
  | .rewindDone part => Sys2Proof.Machine.execRewindDone part s
  | .snapshotArm fn part => Sys2Proof.Machine.execSnapshotArm fn part s
  | .snapshotRestore fn part => Sys2Proof.Machine.execSnapshotRestore fn part s
  | .snapshotRestoreDone part => Sys2Proof.Machine.execSnapshotRestoreDone part s
  | .dump fn => Sys2Proof.Machine.execDump fn s
  | .dumpDone => Sys2Proof.Machine.execDumpDone s
  | .issue fn => Sys2Proof.Machine.execIssue fn s
  | .report fn => Sys2Proof.Machine.execReport fn s
  | .secCommandDone unit => Sys2Proof.Machine.execSecCommandDone unit s
  | .install fn part => Sys2Proof.Machine.execInstall fn part s
  | .decStart fn part => Sys2Proof.Machine.execDecStart fn part s
  | .stage fn target => Sys2Proof.Machine.execStage fn target s
  | .stageDone => Sys2Proof.Machine.execStageDone s
  | .activate fn target => Sys2Proof.Machine.execActivate fn target s
  | .cancel fn target => Sys2Proof.Machine.execCancel fn target s
  | .activationWindowOpen => Sys2Proof.Machine.execActivationWindowOpen s
  | .activationWindowClose => Sys2Proof.Machine.execActivationWindowClose s
  | .quarterReset fn q => Sys2Proof.Machine.execQuarterReset fn q s
  | .linkDieReset fn die => Sys2Proof.Machine.execLinkDieReset fn die s
  | .unitResetDone unit => Sys2Proof.Machine.execUnitResetDone unit s
  | .katShort fn => Sys2Proof.Machine.execKatShort fn s
  | .katDeep fn colMask => Sys2Proof.Machine.execKatDeep fn colMask s
  | .katDone failed => Sys2Proof.Machine.execKatDone failed s
  | .fltFlush fn => Sys2Proof.Machine.execFltFlush fn s
  | .fltFlushDone ok => Sys2Proof.Machine.execFltFlushDone ok s
  | .flashRead fn sector => Sys2Proof.Machine.execFlashRead fn sector s
  | .flashErase fn sector => Sys2Proof.Machine.execFlashErase fn sector s
  | .flashProgram fn sector => Sys2Proof.Machine.execFlashProgram fn sector s
  | .flashCmdDone => Sys2Proof.Machine.execFlashCmdDone s
  | .move fn part seg => Sys2Proof.Machine.execMove fn part seg s
  | .hostwinWrite fn part reg v => Sys2Proof.Machine.execHostwinWrite fn part reg v s
  | .doorbell fn queue tail => Sys2Proof.Machine.execDoorbell fn queue tail s
  | .hallTimeWrite fn v => Sys2Proof.Machine.execHallTimeWrite fn v s
  | .hallTimeRead fn => Sys2Proof.Machine.execHallTimeRead fn s
  | .pintleCfgWrite fn v => Sys2Proof.Machine.execPintleCfgWrite fn v s
  | .holdLeadWrite fn v => Sys2Proof.Machine.execHoldLeadWrite fn v s
  | .holdMaxWrite fn v => Sys2Proof.Machine.execHoldMaxWrite fn v s
  | .domainActivate fn part v => Sys2Proof.Machine.execDomainActivate fn part v s
  | .domainDeactivate fn part v => Sys2Proof.Machine.execDomainDeactivate fn part v s
  | .rejoin fn target => Sys2Proof.Machine.execRejoin fn target s
  | .debugModeWrite fn v => Sys2Proof.Machine.execDebugModeWrite fn v s
  | .pfaultClear fn part v => Sys2Proof.Machine.execPfaultClear fn part v s
  | .recConfigWrite fn part off v => Sys2Proof.Machine.execRecConfigWrite fn part off v s
  | .partitionConfigWrite fn part off v => Sys2Proof.Machine.execPartitionConfigWrite fn part off v s
  | .replThrWrite fn v => Sys2Proof.Machine.execReplThrWrite fn v s
  | .shadowRateWrite fn col v => Sys2Proof.Machine.execShadowRateWrite fn col v s
  | .linkDisable fn l v => Sys2Proof.Machine.execLinkDisable fn l v s
  | .wrrWrite fn l v => Sys2Proof.Machine.execWrrWrite fn l v s
  | .cperCfgWrite fn v => Sys2Proof.Machine.execCperCfgWrite fn v s
  | .apertureBaseWrite fn high v => Sys2Proof.Machine.execApertureBaseWrite fn high v s
  | .filterSetWrite fn block off v => Sys2Proof.Machine.execFilterSetWrite fn block off v s
  | .filterSetApply block => Sys2Proof.Machine.execFilterSetApply block s
  | .pmcCounterRead fn off => Sys2Proof.Machine.execPmcCounterRead fn off s
  | .lowWordRead fn off => Sys2Proof.Machine.execLowWordRead fn off s
  | .rcRegisterRead fn off => Sys2Proof.Machine.execRcRegisterRead fn off s
  | .msixUnmask fn vector => Sys2Proof.Machine.execMsixUnmask fn vector s
  | .registerWrite fn off v => Sys2Proof.Machine.execRegisterWrite fn off v s
  | .spiRead addr count extra => Sys2Proof.Machine.execSpiRead addr count extra s
  | .spiWrite addr data => Sys2Proof.Machine.execSpiWrite addr data s
  | .spiStatus extra => Sys2Proof.Machine.execSpiStatus extra s
  | .spiUnknownCommand word0 word1 words => Sys2Proof.Machine.execSpiUnknownCommand word0 word1 words s
  | .spiFrameError dataWord => Sys2Proof.Machine.execSpiFrameError dataWord s
  | .bypass => Sys2Proof.Machine.execBypass s
  | .idcode => Sys2Proof.Machine.execIdcode s
  | .samplePreload preload => Sys2Proof.Machine.execSamplePreload preload s
  | .extest drive => Sys2Proof.Machine.execExtest drive s
  | .jtagPrivate ir => Sys2Proof.Machine.execJtagPrivate ir s
  | .perstNDeassert => Sys2Proof.Machine.execPerstNDeassert s
  | .pciePortUp port => Sys2Proof.Machine.execPciePortUp port s
  | .serdesAdaptationEnd die => Sys2Proof.Machine.execSerdesAdaptationEnd die s
  | .quarterRunEnd col q failed => Sys2Proof.Machine.execQuarterRunEnd col q failed s
  | .mainRailLowNotice mv => Sys2Proof.Machine.execMainRailLowNotice mv s

end Sys2Proof.Machine
end

