-- ==== Sys2Proof/Machine/Tick.lean ====
section
/-!
DEFINITION. What time alone does (R16, R22, R24, R30): one array cycle on an empty queue. Every event that comes due in it is a
command of its own (log entry 6).
-/
namespace Sys2Proof.Machine

/-- Hall time after an array cycle: 10 units, since the array clock follows hall time exactly (R16). -/
def tickHall (t : Tim) : Tim := { t with hall := t.hall + 10 }

/-- The array cycles of a tick: one more when slewing has gained ten units on the array clock, none when it has lost ten (R16). -/
def cycles (t : Tim) : Nat := if 10 ≤ t.phase then 2 else if t.phase ≤ -10 then 0 else 1

/-- What is left of the gain after these cycles. -/
def tickPhase (t : Tim) : Tim := { t with phase := t.phase - 10 * ((cycles t : Int) - 1) }

/-- The strike of the dependent instruction that a stream has not reached, while no hold has been raised for it (R28). -/
def watchedStrike (s : State) (t : Stream) : Option Nat :=
  if t.raised || !streamLive s t then none else (nextDep s t).map (·.2.toNat)

/-- The instruction at a stream's queue head can be accepted as far as the stream itself says: its strike has come, it is armed if it
must be, and no operation holds the queue or its fence; the PSC at which its issue interval has passed (R88, R107, R129). -/
def headFrom (s : State) (t : Stream) : Option Nat :=
  let r := (s.part t.sid.part).run
  if !streamLive s t then none else
  match (s.queue t.queue).headWord s with
  | none => none
  | some w =>
    let psc := (s.dom t.sid.part).psc.toNat
    if (headStrike r t w).any (fun k => decide (psc < k.toNat)) || (actsDep t.sid w && !t.armed) ||
        (heldCode r t.sid).isSome || (fence w && r.ops.any (fun o => o.sid == t.sid)) then none
    else some (t.lastIssue.toNat + t.interval * 10)

/-- The PSC values that a partition does not pass before the event there has been taken: hall schedule time, a hold that is
due, visibility points, ends of passes, completions of STRIKE hasps, the strikes of waiting instructions and of dependent
instructions not yet reached, and the issue of an instruction that its engine may accept (R88). -/
def pscStops (s : State) (n : Nat) : List Nat :=
  let d := s.dom n
  let r := (s.part n).run
  [(d.hst s.tim.hall).toNat] ++
  (match d.nextEffect with
   | some e => if d.held then [] else [(e - d.heldTotal).toNat]
   | none => []) ++
  r.ops.map (fun o => o.vis.toNat) ++
  r.ops.filterMap (fun o => o.passes.bind (fun p => if p.idx < p.repeats.length then some (passEnd o p) else none)) ++
  s.hasps.filterMap (fun e => if e.2.owner == some n && e.2.kind == 2 then e.2.fullAt.map (fun t => t.toNat + 10) else none) ++
  r.streams.filterMap (fun t => ((idleStream s t).2).bind (fun k => if d.psc.toNat < k.toNat then some k.toNat else none)) ++
  r.streams.filterMap (fun t => (watchedStrike s t).bind (fun k => if d.psc.toNat ≤ k then some k else none)) ++
  r.streams.filterMap (fun t => if t.tried then none else (headFrom s t).map (max d.psc.toNat))

/-- The PSC after an array cycle in which the partition runs (R24). -/
def pscNext (s : State) (n : Nat) : Nat :=
  max (s.dom n).psc.toNat ((pscStops s n).foldl min ((s.dom n).psc.toNat + 10))

/-- The PSC of an active slot advances unless the partition is frozen. -/
def tickPsc (n : Nat) : Act := fun s =>
  if frozen s n then [] else Act.all [
    modDom n (fun d => { d with psc := BitVec.ofNat 64 (pscNext s n) }),
    Act.guard (decide ((s.dom n).psc.toNat < pscNext s n)) (count (ctrBank n 0x00) 1)] s

/-- The causes in the order of R25, with their bank events (R354). -/
def stallEvents : List (StallCause × Nat) :=
  [(.dram, 2), (.retry, 3), (.prefetch, 4), (.remote, 5), (.latch, 6), (.snapshot, 7), (.power, 8)]

/-- Stall and hold cycles of an active slot (R354). -/
def tickStalls (n : Nat) : Act := fun s =>
  let d := s.dom n
  Act.all [
    Act.guard (stalled s n) (count (ctrBank n 0x01) 1),
    Act.each stallEvents (fun e => Act.guard (d.stalls.any (fun x => x.1 == e.1)) (count (ctrBank n e.2) 1)),
    Act.guard (d.held && d.lagUnits s.tim.hall == 0) (count (ctrBank n 0x09) 1)] s

/-- Head-wait cycles of a stream (R352, R354). -/
def tickWait (n : Nat) (p : Part) (t : Stream) : Act := fun s =>
  let w := (s.queue t.queue).wait.toNat
  Act.all [
    Act.guard (w == 1) (count (ctrBank n 0x29) 1), Act.guard (w == 6) (count (ctrBank n 0x2A) 1),
    match (if kindQuarter t.sid.kind then p.quarter t.sid.own t.sid.unit else none) with
    | some q => Act.guard (decide (1 ≤ w) && decide (w ≤ 8)) (count (ctrCol (q / 4) (0x41 + w)) 1)
    | none => Act.skip] s

/-- One array cycle (DESIGN CHOICE, log entry 6). -/
def cycle : Act := Act.all [
  modTim tickHall,
  haspDue,
  jumpsEnd,
  fun s => Act.each (s.parts.map (·.1)) powerRelease s,
  fun s => Act.each ((s.doms.map (·.1)).filter (fun n => (s.dom n).active)) (fun n => Act.all [tickStalls n, tickPsc n]) s,
  fun s => Act.each s.parts (fun e => Act.each e.2.run.streams (tickWait e.1 e.2)) s,
  fun s => Act.guard (s.doms.any (fun e => e.2.active && e.2.held)) (count (ctrHub 0x1B) 1) s]

/-- Time passes by the array cycles that fall into one nominal cycle (DESIGN CHOICE, log entry 6). -/
def tick : Act := Act.when (fun s => !s.hub.stopped) (fun s =>
  Act.all [modTim tickPhase, Act.each (List.replicate (cycles s.tim) ()) (fun _ => cycle)] s)

end Sys2Proof.Machine
end

