-- ==== Sys2Proof/Machine/Step.lean ====
section
/-!
DEFINITION. The step: the command at the front of the queue, and on an empty queue one array cycle of time.
-/
namespace Sys2Proof.Machine

/-- `s` with the command that a word spells put at the front of its queue; `s` itself where the word spells none. -/
def State.withFetchWord (s : State) (nbits w : Nat) : State :=
  match decodeTableWord nbits w with
  | some c => { s with pending := c :: s.pending }
  | none => s

/-- One step: the command at the front of the queue acts on the state that holds the rest of the queue. On an empty
queue time passes by one array cycle (DESIGN CHOICE, log entry 6). -/
def step (s : State) : Host.Outcome State Fault Refusal :=
  match s.pending with
  | [] => .next (tick.run s)
  | c :: rest => exec c { s with pending := rest }

end Sys2Proof.Machine
end

