-- ==== Sys2Proof/Safety.lean ====
section
/-!
DEFINITION. The terms in which claims are stated: the canonical form of the state, so that equal machines are equal data; when
nothing keeps an instruction at its queue head from issuing; and what has happened when one has issued.
-/
namespace Sys2Proof.Machine

/-- The memories are in canonical form (Host.Cell): addresses rise strictly and no entry equals what an unlisted
address reads as. -/
def Store.wf (x : Store) : Bool :=
  Memory.wf x.mem && Memory.wf x.host && Tab.wf flashDefault x.flash && Tab.wf 0 x.tb && Tab.wf 0 x.vreg &&
  Tab.wf 0 x.latch && Tab.wf {} x.gen

/-- Every table of units is in canonical form. -/
def State.tablesWf (s : State) : Bool :=
  Tab.wf {} s.doms && Tab.wf {} s.parts && Tab.wf {} s.hasps && Tab.wf {} s.queues && Tab.wf {} s.cells &&
  Tab.wf {} s.uus && Tab.wf {} s.cols && Tab.wf {} s.links && Tab.wf {} s.dies && Tab.wf {} s.clxs

/-- The canonical form of the whole state. -/
def State.wf (s : State) : Bool := s.store.wf && s.tablesWf

/-- PSC of a stream's partition. -/
def pscOf (s : State) (sid : StreamId) : BitVec 64 := (s.dom sid.part).psc

/-- Nothing keeps the instruction `w` at the head of stream `sid` from issuing (R23, R27, R28, R79, R88 to R90): the partition
runs and is not frozen, the word is legal, its strike has come, it is armed if it is dependent, the issue interval of the
instruction before it is over, no operation of its stream is in flight, and none of another stream on its cells. `quiet` leaves out debug mode, in which planned
durations grow (R97), and the queue entries that the host wrote itself while they are recorded or replayed (R274). -/
structure Ready (s : State) (sid : StreamId) (w : InsnWord) (st : Stream) : Prop where
  wf : s.wf = true
  found : stream s sid = some st
  running : (s.part sid.part).load.state = .running
  live : st.halted = false ∧ st.stopped = false
  moving : frozen s sid.part = false
  head : (s.queue st.queue).headWord s = some w
  legal : illegal sid w = none
  struck : ∀ k, headStrike (s.part sid.part).run st w = some k → k.toNat ≤ (pscOf s sid).toNat
  armed : actsDep sid w = true → st.armed = true
  alone : ∀ o ∈ (s.part sid.part).run.ops, o.sid ≠ sid
  cellFree : ∀ o ∈ (s.part sid.part).run.ops, ∀ u, u < 13 →
    ((cellUnit (s.part sid.part) sid u).isSome → cellUnit (s.part sid.part) o.sid o.unit ≠ cellUnit (s.part sid.part) sid u) ∧
    ((cellAt sid u).isSome → cellAt o.sid o.unit ≠ cellAt sid u)
  spaced : st.lastIssue.toNat + st.interval * 10 ≤ (pscOf s sid).toNat
  quiet : s.hub.debugMode = false ∧ (hostEntry st (s.queue st.queue).head = true →
    (s.part sid.part).recd.fp = false ∧ (s.part sid.part).recd.replay = false)

/-- The queue of an issued instruction has gone to position `next` (R167, R169); every other queue is what it was. -/
def Advanced (s : State) (sid : StreamId) (st : Stream) (next : BitVec 32) (t : State) : Prop :=
  ∀ k, t.queue k = if k = st.queue then
    { s.queue k with head := next, wait := if next == (s.queue k).tail then 1 else 0, wpsc := pscOf s sid } else s.queue k

/-- What an issue leaves alone: the memories, registers and units, every other partition, and of its own partition all but its
running state. Counters, the flight recorder with its free values, the cell that executes and `LATE_STRIKE` may change. -/
structure Contained (s : State) (sid : StreamId) (t : State) : Prop where
  rest : t = { s with pmc := t.pmc, flt := t.flt, free := t.free, doms := t.doms, parts := t.parts, queues := t.queues,
                      cells := t.cells }
  others : ∀ m, m ≠ sid.part → t.part m = s.part m
  mine : t.part sid.part = { s.part sid.part with run := (t.part sid.part).run }
  doms : ∀ m, t.dom m = { s.dom m with lateStrike := (t.dom m).lateStrike }

/-- The operation that an issued instruction has put in flight (R88): it becomes visible `dur` array cycles after its issue and
then makes the effects `pend`. -/
def Launched (s : State) (sid : StreamId) (w : InsnWord) (st : Stream) (dur : Nat) (pend : List Wr) (o : Op) : Prop :=
  o.id = (s.part sid.part).run.nextOp ∧ o.sid = sid ∧ o.word = w ∧ o.qpos = (s.queue st.queue).head ∧
  o.issue = pscOf s sid ∧ o.vis = pscOf s sid + BitVec.ofNat 64 (dur * 10) ∧ o.pend = pend ∧ o.stallFrom = none ∧
  o.expired = false

/-- The instruction has issued as one operation that waits for nothing but time: the head has moved on by one, the operation is
in flight, and no effect of it is visible yet. -/
def Issued (s : State) (sid : StreamId) (w : InsnWord) (st : Stream) (dur : Nat) (pend : List Wr) (t : State) : Prop :=
  Advanced s sid st ((s.queue st.queue).head + 1) t ∧ Contained s sid t ∧
  ∃ o, (t.part sid.part).run.ops = (s.part sid.part).run.ops ++ [o] ∧ Launched s sid w st dur pend o ∧
    o.wait = .none ∧ o.want = 0 ∧ o.coll = none ∧ o.deferred = false

end Sys2Proof.Machine
end

