-- ==== Sys2Proof/Certificates/Slice0/Obligations.lean ====
section
/-!
DEFINITION. The statements for the provers, `def Obligations.<Name> : Prop`, and the terms they share. Each docstring names the
rules of spec/ that the statement formalises; a clause that rests on a choice of the model names its log entry.
-/
open Sys2Proof Sys2Proof.Machine

/-- A command answers a next state of which `P` holds. -/
def Claims.Answers (c : Instr) (s : State) (P : State → Prop) : Prop := ∃ t, exec c s = .next t ∧ P t

/-- What the body of an instruction sees at its queue head. -/
def Claims.ctx (s : State) (sid : StreamId) (w : InsnWord) (st : Stream) : Ctx := { s := s, sid := sid, st := st, w := w }

/-- Partition index, and the state of the partition of a stream. -/
def Claims.own (s : State) (sid : StreamId) : Part := s.part sid.part

/-- The next state of an instruction that issues as one operation (R88): its planned duration and its effects. -/
def Claims.Runs (c : Instr) (s : State) (sid : StreamId) (w : InsnWord) (st : Stream) (dur : Nat) (pend : List Wr) : Prop :=
  Claims.Answers c s (Issued s sid w st dur pend)

/-- An interrupt of function `f` is sent once on vector `v`: as a message, or as its pending bit while the vector is masked (R388). -/
def Claims.Sent (s t : State) (f v : Nat) : Prop :=
  (s.pcie.unmasked.contains (f * 64 + v) = true → t.out.irqs.count (f, v) = s.out.irqs.count (f, v) + 1) ∧
  (s.pcie.unmasked.contains (f * 64 + v) = false → t.pcie.pendingBits.contains (f * 64 + v) = true)

/-- An interrupt of partition `n` is sent to the physical function on vector 32 + n and, where it is there, to the partition's virtual
function on vector `v` (R388). -/
def Claims.SentPart (s t : State) (n v : Nat) : Prop :=
  Claims.Sent s t 0 (32 + n) ∧ (s.pcie.vfEnable = true → n + 1 ≤ s.pcie.numVfs → Claims.Sent s t (n + 1) v)

/-! ### The machine as a whole -/

/-- A step with a command at the front of the queue is that command's effect on the state that holds the queue's rest. -/
def Obligations.StepTakesTheFront : Prop := ∀ (c : Instr) (rest : List Instr) (s : State),
  step { s with pending := c :: rest } = exec c { s with pending := rest }

/-- With an empty queue a step is one nominal array cycle of time (log entry 6): a device that is stopped (R363) stays as it is, and
in one that runs hall time advances by 10 units for each array cycle that falls into it: one, or, while slewing changes the length of
the array cycle, one more when ten units have been gained and none when ten have been lost (R16, R18). -/
def Obligations.EmptyQueuePassesTime : Prop := ∀ s : State, s.pending = [] →
  (s.hub.stopped = true → step s = .next s) ∧
  (s.hub.stopped = false → ∃ t, step s = .next t ∧
    t.tim.hall = s.tim.hall + BitVec.ofNat 64 (10 * (if 10 ≤ s.tim.phase then 2 else if s.tim.phase ≤ -10 then 0 else 1)) ∧
    t.tim.phase = (if 10 ≤ s.tim.phase then s.tim.phase - 10 else if s.tim.phase ≤ -10 then s.tim.phase + 10 else s.tim.phase) ∧
    t.tim.state = s.tim.state ∧
    t.pending = [] ∧ t.fuses = s.fuses ∧ t.store.flash = s.store.flash ∧ t.mgmt = s.mgmt ∧ t.sec = s.sec)

/-- The canonical form of the state's tables and memories is an invariant of every step, whatever the command. -/
def Obligations.EveryStepKeepsCanonicalForm : Prop := ∀ s t : State, s.wf = true → step s = .next t → t.wf = true

/-- No command writes the fuses (R3, R11, R342), and no command touches the queue of the commands that wait. -/
def Obligations.FusesAndQueueAreLeftAlone : Prop := ∀ (c : Instr) (s t : State), exec c s = .next t →
  t.fuses = s.fuses ∧ t.pending = s.pending

/-- The only stops: a private JTAG instruction in debug mode, whose action R399 does not give, and an auxiliary rail beyond its
absolute maximum of R412 (14.0 V). Every other command answers a next state, whatever the state and its operands. -/
def Obligations.OnlyTwoCommandsCanStop : Prop := ∀ (c : Instr) (s : State),
  (∃ t, exec c s = .next t) ∨
  (∃ ir, c = .jtagPrivate ir ∧ s.hub.debugMode = true ∧ exec c s = .refused .jtagPrivateUnspecified) ∨
  (∃ mv, c = .railFault .auxiliary mv ∧ 14000 < mv ∧ exec c s = .fault .beyondRatings)

/-- The state after reset is in canonical form, holds no command and lists nothing in any table or memory, and its registers have the
values that their tables give: `HUB_REPL_THR` (R319), `TIM_HOLD_LEAD` and `TIM_HOLD_MAX` (R36), the state and depth of a device that has
no parent (R16, R36), `HUB_ALERT_EN` (R401), `HUB_PART` CAP (R329), the weights of a link (R225), `MEPOCH` (R343), the filters of the PMC
(R356), and READY low before the first power-on (R362). -/
def Obligations.ResetState : Prop :=
  let s := State.reset
  (s.wf = true ∧ s.pending = [] ∧ core.reset = s ∧ s.store = {} ∧
    (∀ n, s.part n = {}) ∧ (∀ n, s.dom n = {}) ∧ (∀ l, s.link l = {})) ∧
  s.hub.ready = false ∧ s.hub.ceMax = 0x100 ∧ s.hub.laneMax = 8 ∧ s.hub.chMin = 2 ∧ s.hub.cellMin = 1 ∧
  s.hub.alertEn = 0x3F ∧ s.tim.lead = 0x00FA00 ∧ s.tim.maxMs = 0x0EA60 ∧ s.tim.depth = 0xF ∧ s.tim.state = .unlocked ∧
  s.sec.mepoch = 1 ∧
  (∀ n, (s.part n).cfg.cap = 0x0E10 ∧ (s.part n).load.state = .empty ∧ (s.dom n).active = false) ∧
  (∀ l, (s.link l).w1 = 0x80 ∧ (s.link l).w2 = 0x40 ∧ (s.link l).w3 = 0x10) ∧
  (∀ b, (Tab.get {} s.pmc.filters b).pmask = 0xFFFFFFFF ∧ (Tab.get {} s.pmc.filters b).fctl = 0x001F0FFF)

/-! ### Streams: what a command to an engine does at a queue head -/

/-- The streams of the partition but `sid` are what they were, and `sid` satisfies `P`. -/
def Claims.StreamNow (s : State) (sid : StreamId) (P : Stream → Prop) (t : State) : Prop :=
  (∃ x, stream t sid = some x ∧ P x) ∧
  (t.part sid.part).run.streams.filter (fun x => x.sid != sid) =
    (s.part sid.part).run.streams.filter (fun x => x.sid != sid)

/-- The engine does not accept the instruction at its queue head yet: it waits with `code`, and nothing else changes but that it has
been tried. -/
def Claims.Declined (s : State) (sid : StreamId) (st : Stream) (code : BitVec 4) (t : State) : Prop :=
  (t.queue st.queue).head = (s.queue st.queue).head ∧ (t.queue st.queue).wait = code ∧
  t = { s with queues := t.queues, parts := t.parts } ∧ (∀ k, k ≠ st.queue → t.queue k = s.queue k) ∧
  (∀ m, m ≠ sid.part → t.part m = s.part m) ∧
  t.part sid.part = { s.part sid.part with run := { (s.part sid.part).run with streams := (t.part sid.part).run.streams } } ∧
  Claims.StreamNow s sid (fun x => x = { st with tried := true }) t

/-- No message waits on a link or on the device. -/
def Claims.NoneWaits (s : State) : Prop :=
  (∀ k, (s.link k).parked = [] ∧ (s.link k).blocked = []) ∧ ∀ m, (s.part m).run.localWait = []

/-- A control instruction has issued: the head is at `next`, no operation is in flight for it, and its stream satisfies `P`. -/
def Claims.Passed (s : State) (sid : StreamId) (st : Stream) (next : BitVec 32) (P : Stream → Prop) (t : State) : Prop :=
  Advanced s sid st next t ∧ Contained s sid t ∧ (t.part sid.part).run.ops = (s.part sid.part).run.ops ∧
  Claims.StreamNow s sid P t

/-- NOP and STRIKE do nothing (R84); LOOP counts and goes back BACK instructions until it has run CNT times, and without end
where CNT is 0 (R86). The counter of LOOP is bits [57:56], BACK bits [55:32], CNT bits [31:0]; where the queue has overrun its
ring LOOP raises its fault instead (ProgramFaultsAreRaised). -/
def Obligations.ControlInstructionsIssue : Prop := ∀ (s : State) (sid : StreamId) (w : InsnWord) (st : Stream),
  Ready s sid w st →
  let head := (s.queue st.queue).head
  (opc w = 0x00 → Claims.Answers (.nop sid w) s (Claims.Passed s sid st (head + 1) (fun _ => True))) ∧
  (opc w = 0x01 → Claims.Answers (.strike sid w) s (Claims.Passed s sid st (head + 1) (fun _ => True))) ∧
  (opc w = 0x03 → (s.queue st.queue).res = true →
    let i := fld w 56 2
    let n := fld w 0 32
    ((n = 0 ∨ (st.ctr i).toNat + 1 < n) → Claims.Answers (.loop sid w) s (Claims.Passed s sid st
      (head - BitVec.ofNat 32 (fld w 32 24)) (fun x => x.ctr i = st.ctr i + 1 ∧ x.epoch = st.epoch))) ∧
    (n ≠ 0 → n ≤ (st.ctr i).toNat + 1 → Claims.Answers (.loop sid w) s (Claims.Passed s sid st (head + 1)
      (fun x => x.ctr i = 0 ∧ x.epoch = st.epoch))))

/-- EPOCH (R85). A marker goes on, and its stream epoch grows by one, once the binding epoch has passed the stream epoch; until then
it waits with code 5. The leader's strike makes the next epoch the binding epoch, and its strike that epoch's origin, and every head
of the partition can be tried again (R88). The leader's clause leaves out an armed snapshot (R286), a replay's end (R282), and the
moves, channel copies and messages that wait for the strike. -/
def Obligations.EpochsAdvance : Prop := ∀ (s : State) (sid : StreamId) (w : InsnWord) (st : Stream),
  Ready s sid w st → opc w = 0x02 →
  let r := (s.part sid.part).run
  let head := (s.queue st.queue).head
  (sub w = 1 → (bit w 104 = true → fld w 0 32 = (st.epoch + 1).toNat) →
    ((r.bindingEpoch - (st.epoch + 1)).toNat < 2 ^ 31 → Claims.Answers (.epochMarker sid w) s
      (Claims.Passed s sid st (head + 1) (fun x => x.epoch = st.epoch + 1))) ∧
    (2 ^ 31 ≤ (r.bindingEpoch - (st.epoch + 1)).toNat →
      Claims.Answers (.epochMarker sid w) s (Claims.Declined s sid st 5))) ∧
  (sub w = 0 → isLeader sid = true → (bit w 104 = true → fld w 0 32 = (r.bindingEpoch + 1).toNat) →
    (s.part sid.part).snap.arm = false → (s.part sid.part).recd.replay = false → r.moves = [] →
    (∀ c, (s.col c).chCopy = []) → Claims.NoneWaits s →
    (∀ x ∈ r.streams, x.sid ≠ sid → x.halted = false → (x.epoch - r.bindingEpoch).toNat < 2 ^ 31) →
    Claims.Answers (.epochLeader sid w) s (fun t =>
      (t.queue st.queue).head = head + 1 ∧
      (t.part sid.part).run.bindingEpoch = r.bindingEpoch + 1 ∧
      (t.part sid.part).run.curOrigin = r.originOf st.epoch + BitVec.ofNat 64 (offset w * 10) ∧
      (t.part sid.part).run.prevOrigin = r.curOrigin ∧
      (∃ x, stream t sid = some x ∧ x.epoch = r.bindingEpoch + 1) ∧
      (t.part sid.part).run.streams.filter (fun x => x.sid != sid) =
        (r.streams.filter (fun x => x.sid != sid)).map (fun x => { x with tried := false }) ∧
      (t.dom sid.part).stalls = (s.dom sid.part).stalls.filter (fun e => e != leaderStall) ∧ t.store = s.store ∧
      ∀ m, m ≠ sid.part → t.part m = s.part m))

/-- A program fault in partition `n`: the first is captured with its code, detail, position and PSC, every stream of the partition is
to stop, and STATE is FAULTED (R93, R94). No other partition changes. -/
def Claims.Faulted (s : State) (sid : StreamId) (w : InsnWord) (st : Stream) (code detail : Nat) (t : State) : Prop :=
  let f := (t.part sid.part).pfault
  (t.part sid.part).load.state = .faulted ∧
  (∀ x ∈ (t.part sid.part).run.streams, x.stopped = true) ∧
  ((s.part sid.part).pfault.valid = false → f.valid = true ∧ f.code = BitVec.ofNat 8 code ∧
    f.detail = BitVec.ofNat 8 detail ∧ f.qpos = (s.queue st.queue).head ∧ f.insn = w ∧ f.psc = pscOf s sid) ∧
  ((s.part sid.part).pfault.valid = true →
    f = { (s.part sid.part).pfault with count := satAdd (s.part sid.part).pfault.count 1 }) ∧
  (∀ m, m ≠ sid.part → t.part m = s.part m) ∧ (t.queue st.queue).head = (s.queue st.queue).head

/-- HALT ends its stream; when every stream of the partition has issued it, STATE becomes DONE and the completion interrupt goes out; the
domain's schedule goes on. TRAP raises a program fault with cause TRAP and CODE as its detail (R87), of which the register holds [7:0]
(R94). In HALT's clause tracing is off, under which the engine also logs the stream's CRC (R272). -/
def Obligations.HaltAndTrapEndStreams : Prop := ∀ (s : State) (sid : StreamId) (w : InsnWord) (st : Stream),
  Ready s sid w st →
  (opc w = 0x04 → (s.part sid.part).recd.trace = false →
    let last := (s.part sid.part).run.streams.all (fun x => x.sid == sid || x.halted)
    Claims.Answers (.halt sid w) s (fun t =>
      (t.queue st.queue).head = (s.queue st.queue).head + 1 ∧ (t.queue st.queue).wait = 9 ∧
      Claims.StreamNow s sid (fun x => x.halted = true) t ∧
      (t.part sid.part).load.state = (if last then .done else .running) ∧
      (last = true → Claims.SentPart s t sid.part 0) ∧ (last = false → t.out = s.out ∧ t.pcie = s.pcie) ∧
      (∀ m, t.dom m = { s.dom m with lateStrike := (t.dom m).lateStrike }) ∧
      t.store = s.store ∧ (∀ m, m ≠ sid.part → t.part m = s.part m) ∧ (∀ k, k ≠ st.queue → t.queue k = s.queue k))) ∧
  (opc w = 0x05 → Claims.Answers (.trap sid w) s (Claims.Faulted s sid w st 8 (fld w 0 8)))

/-- An illegal encoding at a queue head raises a program fault with cause ILLEGAL and its DETAIL before it starts (R83, R93), whichever
engine's command it came under; a LOOP whose queue has overrun its ring raises LOOP (R86), a marker whose CHK fails
raises EPOCH (R85), and a multiply of a pair outside R56 raises PAIR (R57). -/
def Obligations.ProgramFaultsAreRaised : Prop := ∀ (s : State) (sid : StreamId) (w : InsnWord) (st : Stream),
  (∀ d, s.wf = true → stream s sid = some st → (s.part sid.part).load.state = .running → st.halted = false →
    st.stopped = false → frozen s sid.part = false → (s.queue st.queue).headWord s = some w → illegal sid w = some d →
    Claims.Answers (.nop sid w) s (Claims.Faulted s sid w st 1 d) ∧
    Claims.Answers (.mmw sid w) s (Claims.Faulted s sid w st 1 d) ∧
    Claims.Answers (.hirq sid w) s (Claims.Faulted s sid w st 1 d)) ∧
  (Ready s sid w st →
    (opc w = 0x03 → (s.queue st.queue).res = false →
      Claims.Answers (.loop sid w) s (Claims.Faulted s sid w st 6 0)) ∧
    (opc w = 0x02 → sub w = 1 → bit w 104 = true → fld w 0 32 ≠ (st.epoch + 1).toNat →
      ((s.part sid.part).run.bindingEpoch - (st.epoch + 1)).toNat < 2 ^ 31 →
      Claims.Answers (.epochMarker sid w) s (Claims.Faulted s sid w st 5 0)) ∧
    (opc w = 0x18 → pairOf (fld w 8 4) (fld w 4 4) = none → sid.kind ≠ .uu →
      borrowed (s.part sid.part).run { own := sid.own, lq := sid.unit, j := cellNo st } = false →
      Claims.Answers (.mmw sid w) s (Claims.Faulted s sid w st 2 0)))

/-- Under any stream command, a queue head whose word is another waits for that word's own command: nothing changes. A stream that
has halted or stopped, or whose partition does not run, issues nothing (R79, R87, R93). The instructions that wait (R169): a timed one
before its strike with code 2 (R27), a dependent one that is not armed with code 2 (R28), one with FENCE while an operation of its
stream is in flight with code 6 (R89); nothing else changes. -/
def Obligations.NothingIssuesOutOfTurn : Prop := ∀ (s : State) (sid : StreamId) (w : InsnWord) (st : Stream),
  stream s sid = some st →
  ((s.queue st.queue).headWord s ≠ some w ∨ st.halted = true ∨ st.stopped = true ∨
      (s.part sid.part).load.state ≠ .running ∨ frozen s sid.part = true →
    ∀ c ∈ [Instr.nop sid w, .strike sid w, .epochLeader sid w, .loop sid w, .halt sid w, .trap sid w, .ladd sid w, .lwait sid w,
      .lsig sid w, .lbind sid w, .harr sid w, .hcfg sid w, .cld sid w, .mmw sid w, .mma sid w, .vld sid w, .var sid w,
      .vseed sid w, .mcpy sid w, .pfh sid w, .lwr sid w, .lrd sid w, .latom sid w, .cdesc sid w, .credReduce sid w,
      .ucfgRule sid w, .uupd sid w, .hxferIn sid w, .hirq sid w], exec c s = .next s) ∧
  (s.wf = true → (s.part sid.part).load.state = .running → st.halted = false → st.stopped = false →
    frozen s sid.part = false → (s.queue st.queue).headWord s = some w → illegal sid w = none →
    let Waits (c : Instr) (code : BitVec 4) : Prop := Claims.Answers c s (fun t =>
      (t.queue st.queue).head = (s.queue st.queue).head ∧ (t.queue st.queue).wait = code ∧
      t = { s with queues := t.queues } ∧ ∀ j, j ≠ st.queue → t.queue j = s.queue j)
    (∀ k, headStrike (s.part sid.part).run st w = some k → (pscOf s sid).toNat < k.toNat →
      (opc w = 0x01 → Waits (.strike sid w) 2) ∧ (opc w = 0x08 → Waits (.ladd sid w) 2)) ∧
    (actsDep sid w = true → st.armed = false → opc w = 0x01 → Waits (.strike sid w) 2) ∧
    (headStrike (s.part sid.part).run st w = none → fence w = true → heldCode (s.part sid.part).run sid = none →
      (∃ o ∈ (s.part sid.part).run.ops, o.sid = sid) → opc w = 0x00 → Waits (.nop sid w) 6))

/-- The operation of an instruction is in flight and no effect of it has happened: it waits for `want` bytes from outside and for
the collective `coll`. -/
def Claims.Starts (s : State) (sid : StreamId) (w : InsnWord) (st : Stream) (dur : Nat) (pend : List Wr) (want : Nat)
    (coll : Option Coll) (u : State) : Prop :=
  Advanced s sid st ((s.queue st.queue).head + 1) u ∧ Contained s sid u ∧ u.cells = s.cells ∧
  ∃ o, (u.part sid.part).run.ops = (s.part sid.part).run.ops ++ [o] ∧ Launched s sid w st dur pend o ∧
    o.wait = .none ∧ o.want = want ∧ o.coll = coll ∧ o.deferred = false

/-- The command answers the state in which its operation is in flight, after its further effects at issue `a`. -/
def Claims.StartsThen (c : Instr) (s : State) (sid : StreamId) (w : InsnWord) (st : Stream) (dur : Nat) (pend : List Wr)
    (want : Nat) (coll : Option Coll) (a : Act) : Prop :=
  ∃ u, Claims.Starts s sid w st dur pend want coll u ∧ exec c s = .next (a.run u)

/-- LADD adds AMOUNT to LATCH (R153) and LBIND binds two latches as a pair (R156) at their visibility points, one access time
later: 4 array cycles to a latch of the engine's own die, 160 to another (R152). LWAIT goes in flight and stays at its queue's head with
code 3, for max(PLAN, access time) at least; its target is BASE + K1 × epoch + K2 × counter in U64 arithmetic (R154, R169). An access to
a latch that is not bound to the partition is outside its ward: a WARD fault, and the access changes nothing (R93, R150). -/
def Obligations.LatchInstructionsIssue : Prop := ∀ (s : State) (sid : StreamId) (w : InsnWord) (st : Stream),
  Ready s sid w st →
  let p := s.part sid.part
  let access := if engineDie p sid == latchDie (fld w 45 19) then 4 else 160
  (p.hasLatch (fld w 45 19) = true →
    (opc w = 0x08 → Claims.Runs (.ladd sid w) s sid w st access [.latch (fld w 45 19) (fld w 0 32)]) ∧
    (opc w = 0x0B → p.hasLatch (fld w 26 19) = true → Claims.Runs (.lbind sid w) s sid w st access
      [.bind (fld w 45 19) (fld w 26 19) (fld w 16 10)]) ∧
    (opc w = 0x09 → Claims.Answers (.lwait sid w) s (fun t =>
      (t.queue st.queue).head = (s.queue st.queue).head ∧ (t.queue st.queue).wait = 3 ∧ Contained s sid t ∧
      ∃ o, (t.part sid.part).run.ops = p.run.ops ++ [o] ∧ Launched s sid w st (max (fld w 80 24) access) [] o ∧
        o.wait = .latch (fld w 45 19) ((fld w 0 15 + fld w 15 16 * st.epoch.toNat +
          fld w 31 12 * (st.ctr (fld w 43 2)).toNat) % 2 ^ 64) (fld w 64 16)))) ∧
  (p.hasLatch (fld w 45 19) = false →
    let Out (t : State) : Prop := (t.part sid.part).load.state = .faulted ∧
      (p.pfault.valid = false → (t.part sid.part).pfault.code = 3 ∧ (t.part sid.part).pfault.valid = true) ∧
      t.store.latch = s.store.latch ∧ (t.part sid.part).run.pairs = p.run.pairs ∧
      (∀ o ∈ (t.part sid.part).run.ops, o.sid = sid → o.pend = []) ∧ ∀ m, m ≠ sid.part → t.part m = s.part m
    (opc w = 0x08 → Claims.Answers (.ladd sid w) s Out) ∧ (opc w = 0x09 → Claims.Answers (.lwait sid w) s Out) ∧
    (opc w = 0x0B → Claims.Answers (.lbind sid w) s Out))

/-- The generation of an arrival (R164), modulo 2^32. -/
def Claims.generation (st : Stream) (w : InsnWord) : BitVec 32 :=
  BitVec.ofNat 32 (fld w 0 20) + st.ctr (fld w 20 2) + (if bit w 104 then st.epoch else 0)

/-- HARR records its arrival in the mask of its generation G or G + 1 at issue; a LOCAL hasp whose mask is full goes to the next
generation and adds 1 to its release latch 100 ns later (R164 to R166, DEDUCED: log entry 32). HCFG becomes visible one access time
later (R152); while the hasp holds an arrival it waits with code 8 (R163, DEDUCED: log entry 72). -/
def Obligations.HaspInstructionsIssue : Prop := ∀ (s : State) (sid : StreamId) (w : InsnWord) (st : Stream),
  Ready s sid w st →
  let p := s.part sid.part
  let dur := if engineDie p sid == 20 then 4 else 160
  (opc w = 0x0C →
    let h := fld w 28 12
    let slot := fld w 22 6
    let x := s.hasp h
    let d := (Claims.generation st w - x.gen).toNat
    p.hasHasp h = true → (dep w = true → x.kind = 2) → slot < x.nslot → x.mask0 ≠ fullMask x.nslot →
    (d = 0 → bit x.mask0 slot = false → x.mask0 ||| BitVec.ofNat 64 (2 ^ slot) ≠ fullMask x.nslot →
      Claims.Answers (.harr sid w) s (fun t => Contained s sid { t with hasps := s.hasps } ∧
        Advanced s sid st ((s.queue st.queue).head + 1) t ∧
        ∀ k, t.hasp k = if k = h then { x with
          mask0 := x.mask0 ||| BitVec.ofNat 64 (2 ^ slot), known0 := (t.hasp h).known0 } else s.hasp k)) ∧
    (d = 1 → bit x.mask1 slot = false →
      Claims.Answers (.harr sid w) s (fun t => Contained s sid { t with hasps := s.hasps } ∧
        Advanced s sid st ((s.queue st.queue).head + 1) t ∧
        ∀ k, t.hasp k = if k = h then { x with
          mask1 := x.mask1 ||| BitVec.ofNat 64 (2 ^ slot), known1 := (t.hasp h).known1 } else s.hasp k)) ∧
    (d = 0 → bit x.mask0 slot = false → x.configured = true → x.kind = 0 → x.mask1 ≠ fullMask x.nslot →
      x.mask0 ||| BitVec.ofNat 64 (2 ^ slot) = fullMask x.nslot →
      Claims.Answers (.harr sid w) s (fun t => (t.hasp h).gen = x.gen + 1 ∧ (t.hasp h).mask0 = x.mask1 ∧
        (t.hasp h).mask1 = 0 ∧ (∀ k, k ≠ h → t.hasp k = s.hasp k) ∧ t.store = s.store ∧
        ∃ o ∈ (t.part sid.part).run.ops, o.pend = [.latch x.rlatch 1] ∧ o.issue = pscOf s sid ∧
          o.vis = pscOf s sid + 1600))) ∧
  (opc w = 0x0D →
    let h := fld w 52 12
    p.hasHasp h = true → p.hasLatch (fld w 31 19) = true →
    ((s.hasp h).mask0 = 0 → (s.hasp h).mask1 = 0 → Claims.Runs (.hcfg sid w) s sid w st dur
      [.hcfg h (BitVec.ofNat 2 (fld w 50 2)) (fld w 31 19) (fld w 24 7)]) ∧
    ((s.hasp h).mask0 ≠ 0 ∨ (s.hasp h).mask1 ≠ 0 → Claims.Answers (.hcfg sid w) s (Claims.Declined s sid st 8)))

/-- The cell on which an instruction of a CELL stream runs, or that a UU stream has borrowed and selected (R264). -/
def Claims.cell (sid : StreamId) (st : Stream) : CellRef := { own := sid.own, lq := sid.unit, j := cellNo st }

/-- The logical cell becomes the resident one of the physical cell that executes for it (R314): where two logical cells share that
cell, the image of the other goes out to the swap area first. -/
def Claims.swap (s : State) (sid : StreamId) (st : Stream) : Act :=
  let p := s.part sid.part
  swapIn sid.part ((p.execCell sid.own sid.unit (cellNo st)).getD 0) ((Claims.cell sid st).tb p)

/-- A CELL stream whose cell is not borrowed, or a UU stream with a borrow in force (R264). -/
def Claims.OnCell (s : State) (sid : StreamId) (st : Stream) : Prop :=
  if sid.kind = .uu then st.bmask ≠ 0 else borrowed (s.part sid.part).run (Claims.cell sid st) = false

/-- The operation of an instruction is in flight and no effect of it has happened: it waits for `want` bytes, and for those of its
parts `fs` that lie in REMOTE homes or in the host window (R189, R192). Where there are such parts its effects are formed when they
have arrived. -/
def Claims.StartsReading (s : State) (sid : StreamId) (w : InsnWord) (st : Stream) (fs : List Fetch) (dur : Nat)
    (pend : List Wr) (want : Nat) (u : State) (o : Op) : Prop :=
  Advanced s sid st ((s.queue st.queue).head + 1) u ∧ Contained s sid u ∧ u.cells = s.cells ∧
  (u.part sid.part).run.ops = (s.part sid.part).run.ops ++ [o] ∧ Launched s sid w st dur pend o ∧
  o.wait = .none ∧ o.want = want + fetchBytes fs ∧ o.coll = none ∧ o.deferred = !fs.isEmpty

/-- The command answers the state in which the operation is in flight, has asked for its parts `fs`, and has sent to the host what the
ranges `ws` that it writes have in the host window (R189, R192), after its further effects at issue `more`; counters, the cell that
executes and the choice of what is shadowed aside. Where `fs` is empty and nothing of `ws` lies in the host window it sends nothing,
and the operation waits for nothing but time. -/
def Claims.Moves (c : Instr) (s : State) (sid : StreamId) (w : InsnWord) (st : Stream) (fs : List Fetch) (ws : List Rng)
    (dur : Nat) (pend : List Wr) (want : Nat) (more : Act) : Prop :=
  let id := (s.part sid.part).run.nextOp
  ∃ u o, Claims.StartsReading s sid w st fs dur pend want u o ∧ Claims.Answers c s (fun t =>
    t = { (Act.all [fetchBy (deliver sid.part) sid id fs, hostWrites sid.part id ws, more]).run u with
      pmc := t.pmc, cells := t.cells, free := t.free })

/-- The parts of the ranges `rs` that lie in REMOTE homes or in the host window. -/
def Claims.parts (s : State) (sid : StreamId) (w : InsnWord) (st : Stream) (rs : List (Nat × Nat)) : List Fetch :=
  fetchOf (Claims.ctx s sid w st) rs

/-- Every rank in whose memory a part of `rs` has its REMOTE home can be reached (R424). -/
def Claims.Homes (s : State) (sid : StreamId) (rs : List Rng) : Prop := homeUnreached s sid.part rs = false

/-- Nothing that an instruction touches breaks the ward. -/
def Claims.Inside (s : State) (sid : StreamId) (w : InsnWord) (st : Stream) (rs : List (Nat × Nat)) : Prop :=
  wardOf (Claims.ctx s sid w st) rs = none

/-- Planned duration of an access of `n` bytes by R183 with the plan's largest latency and smallest rate, by an engine whose class 0
peak is `peak` bytes per cycle (R182), and no faster than that. -/
def Claims.planned (s : State) (sid : StreamId) (rs : List (Nat × Nat)) (peak n : Nat) : Nat :=
  let lr := plan (s.part sid.part) sid.own { engineOf (s.part sid.part) sid with peak0 := peak } rs
  lr.1 + ceilDiv (n * 256) (min lr.2 (256 * peak))

/-- The memory instructions of a cell (R110, R111, R115), issued by its CELL stream or by a UU stream that has borrowed it (R264): CLD
and CST move R rows between memory and the cell store in row order, TBI fills total buffer rows with zeros, from the store or from
memory, TBD drains them and clears them with CLR. -/
def Obligations.CellTransfersIssue : Prop := ∀ (s : State) (sid : StreamId) (w : InsnWord) (st : Stream),
  Ready s sid w st → Claims.OnCell s sid st →
  let n := sid.part
  let p := s.part n
  let r := Claims.cell sid st
  let rows := (List.range (fld w 36 12 + 1)).map (fun i => ((fld w 64 40 + i * fld w 0 28) * 16, (fld w 28 8 + 1) * 128))
  let span := (fld w 48 16 * 128, (fld w 36 12 + 1) * ((fld w 28 8 + 1) * 128))
  let part (i : Nat) : Nat × Nat := (fld w 48 16 * 128 + i * ((fld w 28 8 + 1) * 128), (fld w 28 8 + 1) * 128)
  let k := fld w 12 10 + 1
  let row := fld w 22 10
  let mem := (fld w 64 40 * 16, 2048 * k)
  let sto := (fld w 48 16 * 128, 2048 * k)
  let swap := Claims.swap s sid st
  (opc w = 0x10 → Claims.Inside s sid w st rows → storeWard p r [span] = none →
    Claims.Homes s sid (memRngs sid.own rows ++ storeRngs p r [span]) →
    Claims.Moves (.cld sid w) s sid w st (Claims.parts s sid w st rows) (storeRngs p r [span])
      (Claims.planned s sid rows 1024 span.2)
      (List.zipWith (fun m t => storeWrite p r t.1 (readL s n r.own m.1 m.2)) rows
        ((List.range (fld w 36 12 + 1)).map part)) 0 swap) ∧
  (opc w = 0x11 → Claims.Inside s sid w st rows → storeWard p r [span] = none →
    Claims.Homes s sid (storeRngs p r [span] ++ memRngs sid.own rows) →
    Claims.Moves (.cst sid w) s sid w st [] (memRngs sid.own rows) (Claims.planned s sid rows 1024 span.2)
      (List.zipWith (fun m t => .mem r.own m.1 (storeRead s n r t.1 t.2)) rows
        ((List.range (fld w 36 12 + 1)).map part)) 0 swap) ∧
  (opc w = 0x1C → row + k ≤ 1024 →
    (fld w 10 2 = 0 → Claims.Moves (.tbi sid w) s sid w st [] [] (8 + ceilDiv k 8)
      ((List.range k).map (fun i => .tb (r.tb p) ((row + i) * 256) (List.replicate 256 0))) 0 swap) ∧
    (fld w 10 2 = 1 → storeWard p r [sto] = none → Claims.Homes s sid (storeRngs p r [sto]) →
      Claims.Moves (.tbi sid w) s sid w st [] [] (8 + 2 * k)
      ((List.range k).map (fun i => .tb (r.tb p) ((row + i) * 256)
        ((chunks 8 (storeRead s n r (sto.1 + 2048 * i) 2048)).map (fun b => BitVec.ofNat 64 (leNat b))))) 0 swap) ∧
    (fld w 10 2 = 2 → Claims.Inside s sid w st [mem] → Claims.Homes s sid (memRngs sid.own [mem]) →
      Claims.Moves (.tbi sid w) s sid w st (Claims.parts s sid w st [mem]) [] (Claims.planned s sid [mem] 1024 mem.2)
        ((List.range k).map (fun i => .tb (r.tb p) ((row + i) * 256)
          ((chunks 8 (readL s n r.own (mem.1 + 2048 * i) 2048)).map (fun b => BitVec.ofNat 64 (leNat b))))) 0 swap)) ∧
  (opc w = 0x1D → row + k ≤ 1024 →
    let lanes (i : Nat) : List Byte := (tbRow s (r.tb p) (row + i)).flatMap (fun v => leBytes 8 v.toNat)
    let clr : List Wr := if bit w 107 then (List.range k).map (fun i =>
      .tb (r.tb p) ((row + i) * 256) (List.replicate 256 0)) else []
    let more := if bit w 107 then ceilDiv k 8 else 0
    (fld w 10 2 = 1 → storeWard p r [sto] = none → Claims.Homes s sid (storeRngs p r [sto]) →
      Claims.Moves (.tbd sid w) s sid w st [] (storeRngs p r [sto]) (8 + 2 * k + more)
        ((List.range k).map (fun i => storeWrite p r (sto.1 + 2048 * i) (lanes i)) ++ clr) 0 swap) ∧
    (fld w 10 2 = 2 → Claims.Inside s sid w st [mem] → Claims.Homes s sid (memRngs sid.own [mem]) →
      Claims.Moves (.tbd sid w) s sid w st [] (memRngs sid.own [mem]) (Claims.planned s sid [mem] 1024 mem.2 + more)
        ((List.range k).map (fun i => .mem r.own (mem.1 + 2048 * i) (lanes i)) ++ clr) 0 swap))

/-- The planned duration of a multiply (R122) with P passes of max(M, 32) cycles in WS mode, of max(ceil(N × max(M, 32) / 256), 16)
in AS mode, and what it delivers: the dot products of R58 to R75 at the rows and lanes of R105, computed when it issues. CMASK sets
the mask registers of its stream (R116). -/
def Obligations.MultipliesIssue : Prop := ∀ (s : State) (sid : StreamId) (w : InsnWord) (st : Stream),
  Ready s sid w st → Claims.OnCell s sid st →
  let n := sid.part
  let p := s.part n
  let r := Claims.cell sid st
  let swap := Claims.swap s sid st
  (∀ x, mulOf w = some x → storeWard p r x.reads = none → x.tbr + ceilDiv x.n 256 * x.m ≤ 1024 →
    Claims.Homes s sid (storeRngs p r x.reads) →
    let out := (Mul.results s n st r x).wr ++
      [.nonfin ((p.execCell r.own r.lq r.j).getD 0) (Mul.results s n st r x).nonfin]
    (opc w = 0x18 → x.m = fld w 12 10 + 1 ∧ x.n = 256 ∧ x.klen = fld w 32 16 + 1 ∧
      Claims.Moves (.mmw sid w) s sid w st [] [] (ceilDiv x.klen x.pair.kpass * max x.m 32 + 48) out 0 swap) ∧
    (opc w = 0x19 → x.m = fld w 15 7 + 1 ∧ x.n = fld w 51 13 + 1 ∧ x.klen = fld w 32 16 + 1 ∧
      Claims.Moves (.mma sid w) s sid w st [] []
        (ceilDiv x.klen x.pair.kpass * max (ceilDiv (x.n * max x.m 32) 256) 16 + 48) out 0 swap)) ∧
  (opc w = 0x1E → ¬ (fld w 64 2 = 2 ∧ fld w 72 32 = 0) → Claims.Moves (.cmask sid w) s sid w st [] [] 1
    [.mask (BitVec.ofNat 32 (fld w 72 32)) (BitVec.ofNat 2 (fld w 64 2)) (BitVec.ofNat 32 (fld w 32 32))
      (BitVec.ofNat 32 (fld w 0 32))] 0 swap) ∧
  (∀ i j, let qp := st.maskQ + BitVec.ofNat 32 i
    let kp := st.maskK + BitVec.ofNat 32 j
    maskedAt st i j = true ↔
      (1 ≤ st.maskMode.toNat ∧ qp.toNat < kp.toNat) ∨
      (st.maskMode = 2 ∧ kp.toNat ≤ qp.toNat ∧ st.maskWindow.toNat ≤ qp.toNat - kp.toNat)) ∧
  (∀ (x : Mul) k a cols i j0 e, e < cols.length → x.mask = true → maskedAt st i (j0 + e) = true → x.row i j0 < 1024 →
    ∃ vs, (Mul.block s x st k a cols i j0).wr = [.tb k (x.row i j0 * 256) vs] ∧ vs[e]? = some 0xFFF0000000000000)

/-- Physical quarter of a stream, and lane `i` of its vector register `r` in the width of the word's FT. -/
def Claims.slice (s : State) (sid : StreamId) : Nat := ((s.part sid.part).quarter sid.own sid.unit).getD 0
def Claims.lane (s : State) (sid : StreamId) (w : InsnWord) (r i : Nat) : Nat :=
  vlane s (Claims.slice s sid) r i % 2 ^ laneWidth (fld w 40 4)

/-- The effect of a register form of VX: VD takes `f` of each lane number below NL + 1. -/
def Claims.writesVd (s : State) (sid : StreamId) (w : InsnWord) (f : Nat → Nat) : List Wr :=
  [.vreg (Claims.slice s sid) (fld w 59 5) ((List.range (fld w 23 9 + 1)).map (fun i => BitVec.ofNat 64 (f i)))]

/-- The vector register forms that compute no float (R132, R133, R148): VBCAST, VINT, VCMP on integers, VSEL. -/
def Obligations.VectorIntegerFormsIssue : Prop := ∀ (s : State) (sid : StreamId) (w : InsnWord) (st : Stream),
  Ready s sid w st →
  let a := fun i => Claims.lane s sid w (fld w 54 5) i
  let b := fun i => Claims.lane s sid w (fld w 49 5) i
  let full (r i : Nat) : Nat := vlane s (Claims.slice s sid) r i
  let ft := fld w 40 4
  let width := if ft = 13 then 64 else 32
  let num (x : Nat) : Int := if ft ≠ 12 ∧ 2 ^ (width - 1) ≤ x then (x : Int) - 2 ^ width else x
  (opc w = 0x32 → Claims.Runs (.vbcast sid w) s sid w st 8 (Claims.writesVd s sid w (fun _ =>
    if ft = 5 then fTA.rne (fT32.decode (fld w 64 32))
    else if ft = 13 ∧ 2 ^ 31 ≤ fld w 64 32 then fld w 64 32 + (2 ^ 64 - 2 ^ 32) else fld w 64 32))) ∧
  (opc w = 0x35 → Claims.Runs (.vint sid w) s sid w st 8 (Claims.writesVd s sid w (fun i =>
    match sub w with
    | 0 => a i &&& b i
    | 1 => a i ||| b i
    | 2 => a i ^^^ b i
    | 3 => 2 ^ width - 1 - a i
    | 4 => a i * 2 ^ (b i % width) % 2 ^ width
    | 5 => a i / 2 ^ (b i % width)
    | _ => ofInt width (intOf width true (a i) / 2 ^ (b i % width))))) ∧
  (opc w = 0x36 → ft = 11 ∨ ft = 12 ∨ ft = 13 → Claims.Runs (.vcmp sid w) s sid w st 8 (Claims.writesVd s sid w (fun i =>
    if (match sub w with
      | 0 => num (a i) == num (b i)
      | 1 => num (a i) != num (b i)
      | 2 => decide (num (a i) < num (b i))
      | _ => decide (num (a i) ≤ num (b i))) then 2 ^ width - 1 else 0))) ∧
  (opc w = 0x37 → Claims.Runs (.vsel sid w) s sid w st 8 (Claims.writesVd s sid w (fun i =>
    if full (fld w 44 5) i ≠ 0 then full (fld w 54 5) i else full (fld w 49 5) i)))

/-- The vector forms that compute floats (R131, R133 to R137, R148): VAR, VCMP on floats, EXP2 and LOG2, EXPD, VRED, each lane by the
function of the model that the rule's formula is, with its issue interval in the stream and its planned duration. -/
def Obligations.VectorFloatFormsIssue : Prop := ∀ (s : State) (sid : StreamId) (w : InsnWord) (st : Stream),
  Ready s sid w st →
  let a := fun i => Claims.lane s sid w (fld w 54 5) i
  let b := fun i => Claims.lane s sid w (fld w 49 5) i
  let c := fun i => Claims.lane s sid w (fld w 44 5) i
  let ft := fld w 40 4
  let k := fld w 19 4
  (opc w = 0x34 → Claims.Runs (.var sid w) s sid w st
    (if sub w = 8 ∨ sub w = 9 then (if ft = 5 then 48 else 24) else if ft = 5 then 14 else 8)
    (Claims.writesVd s sid w (fun i => varLane ft (sub w) (a i) (b i) (c i)))) ∧
  (opc w = 0x36 → ft = 4 ∨ ft = 5 → Claims.Runs (.vcmp sid w) s sid w st 8 (Claims.writesVd s sid w (fun i =>
    if vcmpHolds ft (sub w) (a i) (b i) then 2 ^ laneWidth ft - 1 else 0))) ∧
  (opc w = 0x38 → sub w ≠ 2 → Claims.Runs (.vtr sid w) s sid w st 12
    (Claims.writesVd s sid w (fun i => vtrLane (sub w) (a i)))) ∧
  (opc w = 0x38 → sub w = 2 → Claims.Runs (.vtrExpd sid w) s sid w st 26
    (Claims.writesVd s sid w (fun i => expdLane (a i) (b i)))) ∧
  (opc w = 0x3A → Claims.Runs (.vred sid w) s sid w st (if ft = 5 then 14 + 8 * k else 8 + 4 * k)
    (Claims.writesVd s sid w (fun i =>
      let base := i / 2 ^ k * 2 ^ k
      let xs := (List.range (2 ^ k)).map (fun j => if base + j < fld w 23 9 + 1 then some (a (base + j)) else none)
      match sub w with
      | 0 => (treeRed (fun x y => varLane ft 0 x y 0) k xs).getD 0
      | 1 => (treeRed (fun x y => varLane ft 5 x y 0) k xs).getD 0
      | 2 => (treeRed (fun x y => varLane ft 4 x y 0) k xs).getD 0
      | _ => argmax ft (xs.filterMap id))))

/-- The vector engine's memory instructions (R130), conversions (R138 to R140), draws (R143 to R145) and generator instructions
(R146): VLD zero-extends elements, VST keeps each lane's low bits, CVT rounds once in the mode RM, VRND and a CVT under RSTO draw
from the generator state of the slice, VSEED reads the 144 bytes of a seed block, VSTEP adds 1 to the step counter. -/
def Obligations.VectorMemoryAndDrawsIssue : Prop := ∀ (s : State) (sid : StreamId) (w : InsnWord) (st : Stream),
  Ready s sid w st →
  let n := sid.part
  let ft := fld w 40 4
  let k := laneWidth ft
  let lanes := fld w 23 9 + 1
  let q := Claims.slice s sid
  let mem := (fld w 64 40 * 16, (k * lanes + 7) / 8)
  let seed := (fld w 64 40 * 16, 144)
  let g := s.gen q
  let drawn (i : Nat) : Quad := draw g.step (fld w 64 32) (vlane s q (fld w 49 5) i)
    (dataKey g.job ((g.seeds[fld w 96 4]?).getD 0))
  (opc w = 0x30 → Claims.Inside s sid w st [mem] → Claims.Homes s sid (memRngs sid.own [mem]) →
    Claims.Moves (.vld sid w) s sid w st (Claims.parts s sid w st [mem]) [] (Claims.planned s sid [mem] 512 mem.2)
      [.vreg q (fld w 59 5) (((unpack k (readL s n sid.own mem.1 mem.2)).take lanes).map (BitVec.ofNat 64))] 0 Act.skip) ∧
  (opc w = 0x31 → Claims.Inside s sid w st [mem] → Claims.Homes s sid (memRngs sid.own [mem]) →
    Claims.Moves (.vst sid w) s sid w st [] (memRngs sid.own [mem]) (Claims.planned s sid [mem] 512 mem.2)
      [.mem sid.own mem.1 (packElems k ((List.range lanes).map (fun i => vlane s q (fld w 59 5) i % 2 ^ k)))] 0 Act.skip) ∧
  (opc w = 0x3C → ∀ fa fd, fmtOf ft = some fa → fmtOf (fld w 36 4) = some fd →
    Claims.Runs (.cvt sid w) s sid w st (if fld w 33 3 = 4 then 24 else 8) (Claims.writesVd s sid w (fun i =>
      fd.encode (match fld w 33 3 with
        | 0 => .rne
        | 1 => .rtz
        | 2 => .rdn
        | 3 => .rup
        | _ => .rsto (drawn i).x0) (bit w 104) (fa.decode (Claims.lane s sid w (fld w 54 5) i))))) ∧
  (opc w = 0x3D → Claims.Runs (.vrnd sid w) s sid w st 24 (Claims.writesVd s sid w (fun i =>
    match sub w with
    | 0 => (match fld w 104 2 with
      | 0 => (drawn i).x0
      | 1 => (drawn i).x1
      | 2 => (drawn i).x2
      | _ => (drawn i).x3)
    | 1 => fT32.rne (.fin false ((drawn i).x0 / 256) (-24))
    | _ => if (drawn i).x0 < vlane s q (fld w 54 5) i % 2 ^ 32 then 0xFFFFFFFF else 0))) ∧
  (opc w = 0x3E → Claims.Inside s sid w st [seed] → Claims.Homes s sid (memRngs sid.own [seed]) →
    let b := readL s n sid.own seed.1 144
    Claims.Moves (.vseed sid w) s sid w st (Claims.parts s sid w st [seed]) [] (Claims.planned s sid [seed] 512 144 + 24)
      [.gen q { job := BitVec.ofNat 64 (leAt b 0 8), step := BitVec.ofNat 32 (leAt b 8 4),
                seeds := (List.range 16).map (fun i => BitVec.ofNat 64 (leAt b (16 + 8 * i) 8)) }] 0 Act.skip) ∧
  (opc w = 0x3F → Claims.Runs (.vstep sid w) s sid w st 1 [.gen q { g with step := g.step + 1 }])

/-- MCPY copies LEN bytes, or clears them with ZERO (R194); PFH starts a read of the host window and gives it 16 × WIN cycles (R195);
LSET sets the transfer registers of its stream (R196). -/
def Obligations.MoveInstructionsIssue : Prop := ∀ (s : State) (sid : StreamId) (w : InsnWord) (st : Stream),
  Ready s sid w st →
  let n := sid.part
  let p := s.part n
  let len := (fld w 0 24 + 1) * 16
  let dst := (fld w 64 40 * 16, len)
  let src := (fld w 24 40 * 16, len)
  let ld := plan p sid.own (engineOf p sid) [dst]
  let ls := plan p sid.own (engineOf p sid) [src]
  let host := (hostLogical + fld w 36 28 * 4096, (fld w 20 16 + 1) * 4096)
  let dest := (fld w 64 40 * 16, (fld w 20 16 + 1) * 4096)
  (opc w = 0x60 → bit w 104 = true → Claims.Inside s sid w st [dst] → Claims.Homes s sid (memRngs sid.own [dst]) →
    Claims.Moves (.mcpy sid w) s sid w st [] (memRngs sid.own [dst]) (ld.1 + ceilDiv (len * 256) ld.2)
      [.mem sid.own dst.1 (List.replicate len 0)] 0 Act.skip) ∧
  (opc w = 0x60 → bit w 104 = false → Claims.Inside s sid w st [src, dst] → Claims.Homes s sid (memRngs sid.own [src, dst]) →
    Claims.Moves (.mcpy sid w) s sid w st (Claims.parts s sid w st [src]) (memRngs sid.own [dst])
      (max ls.1 ld.1 + ceilDiv (len * 256) (min ls.2 ld.2))
      [.mem sid.own dst.1 (mcpyFuel n sid.own src.1 dst.1 len (len / 256 + 1) s [])] 0 Act.skip) ∧
  (opc w = 0x61 → Claims.Inside s sid w st [host] → Claims.Inside s sid w st [dest] → hostTarget p sid.own dest.1 dest.2 = none →
    let into := memRngs sid.own [(dest.1, min dest.2 (hostLogical - dest.1))]
    Claims.Homes s sid (memRngs sid.own [host] ++ into) →
    Claims.Moves (.pfh sid w) s sid w st [] into (16 * fld w 0 20) []
      (if p.recd.replay then windowPart p host.1 host.2 else 0)
      (Act.guard (!p.recd.replay) (addChunks false n sid.own p.run.nextOp host.1 (windowPart p host.1 host.2)))) ∧
  (opc w = 0x7B → Claims.Runs (.lset sid w) s sid w st 1
    [.lset (BitVec.ofNat 16 (fld w 88 16)) (BitVec.ofNat 2 (fld w 86 2)) (BitVec.ofNat 24 (fld w 0 24))])

/-- The instructions that reach another rank (R158, R197 to R202): LSIG posts one signal in the class of the last write with its tag
and rank, LWR posts its bytes as writes when it issues, LRD posts read requests and waits for its bytes, LATOM posts its operand
block and waits for 8 bytes. What LWR and LATOM read from REMOTE homes they ask for first, and post when it has arrived (R189); an
access leaves after those before it of its rank and tag (R199). -/
def Obligations.RemoteInstructionsIssue : Prop := ∀ (s : State) (sid : StreamId) (w : InsnWord) (st : Stream),
  Ready s sid w st →
  let n := sid.part
  let p := s.part n
  let rank := fld w 88 16
  let head := (s.queue st.queue).head
  let from? := some (sid, head, w)
  let len := (st.llen.toNat + 1) * 256
  let laddr := fld w 22 34 * 256
  let raddr := fld w 56 32 * 256
  let block := fld w 8 38 * 16
  let lr := plan p sid.own (engineOf p sid) [(laddr, len)]
  canReach s n rank = true →
  (opc w = 0x0A → Claims.StartsThen (.lsig sid w) s sid w st 4 [] 0 none
    (postTo (deliver n) n sid.own rank from? .signal (signalClass p.run rank (fld w 72 16)) 0
      (BitVec.ofNat 16 (fld w 72 16)) (fld w 53 19 + fld w 34 19 * 2 ^ 19) (fld w 0 32)
      (fld w 105 3 + 8 * fld w 104 1) [])) ∧
  (2 ≤ st.lcls.toNat →
    let out (kind : MsgKind) (far near len arg : Nat) (bs : List Byte) (ready : Bool) : Outgoing := {
      op := p.run.nextOp, own := sid.own, sid := sid, qpos := head, word := w, kind := kind, rank := rank,
      cls := st.lcls.toNat, tag := st.ltag, far := far, near := near, len := len, arg := arg, bytes := bs, ready := ready }
    let note := noteClass n rank st.ltag.toNat st.lcls.toNat
    (opc w = 0x78 → Claims.Inside s sid w st [(laddr, len)] → Claims.Homes s sid (memRngs sid.own [(laddr, len)]) →
      let fs := Claims.parts s sid w st [(laddr, len)]
      Claims.Moves (.lwr sid w) s sid w st fs [] (lr.1 + ceilDiv (len * 256) (min lr.2 16384)) [] 0
        (Act.all [note, pushOut (deliver n) n
          (out .write raddr laddr len 0 (if fs = [] then readL s n sid.own laddr len else []) (fs.isEmpty))])) ∧
    (opc w = 0x79 → Claims.Inside s sid w st [(laddr, len)] → Claims.Homes s sid (memRngs sid.own [(laddr, len)]) →
      Claims.Moves (.lrd sid w) s sid w st [] (memRngs sid.own [(laddr, len)])
        (776 + 448 * rhops p + ceilDiv (len * 256) (remoteGrant p raddr)) [] len
        (pushOut (deliver n) n (out .readReq raddr laddr len 0 [] true))) ∧
    (opc w = 0x7A → Claims.Inside s sid w st [(block, 16)] →
      Claims.Homes s sid (memRngs sid.own [(block, 16), (block, 8)]) →
      let fs := Claims.parts s sid w st [(block, 16)]
      Claims.Moves (.latom sid w) s sid w st fs (memRngs sid.own [(block, 8)]) (776 + 448 * rhops p + 16) [] 8
        (Act.all [note, pushOut (deliver n) n (out .atomic (fld w 51 37 * 8) block 8 (fld w 48 3 * 256 + fld w 46 2)
          (if fs = [] then readL s n sid.own block 16 else []) (fs.isEmpty))])))

/-- Messages to ranks of other devices wait in the send queue of the way's link, with the next SEQ toward that device in their class
(R209 to R212, R219, R424). A partition in replay posts nothing (R282). -/
def Obligations.PostingQueuesOneMessage : Prop := ∀ (s : State) (n own rank cls ts : Nat) (tag : BitVec 16)
    (addr bytes arg : Nat) (payload : List Byte) (kind : MsgKind) (o : Obj) (dev part idx : Nat) (way : Way),
  s.wf = true → (s.part n).obj = some o → (s.part n).recd.replay = false → o.own.contains rank = false →
  rankPlace o rank = some (dev, part, idx) → wayTo s o rank = some way → linkOut (s.link way.link) = false → cls ≠ 0 →
  let seq := nextSeq s.hub (dev % 65536) cls
  let m : Msg := {
    dstDev := BitVec.ofNat 16 dev, srcDev := s.hub.devno, dstPart := BitVec.ofNat 5 part, srcPart := BitVec.ofNat 5 n,
    dstOwn := BitVec.ofNat 3 idx,
    srcOwn := BitVec.ofNat 3 ((ranksAt o s.hub.devno.toNat n).idxOf ((o.own[own]?).getD 0)),
    kind := kind, epoch := (s.part n).run.bindingEpoch, tag := tag, seq := BitVec.ofNat 16 seq,
    addr := BitVec.ofNat 64 addr, bytes := BitVec.ofNat 32 bytes, arg := BitVec.ofNat 32 arg, payload := payload }
  let t := (postTo (deliver n) n own rank none kind cls ts tag addr bytes arg payload).run s
  (t.link way.link).txq = (s.link way.link).txq ++ [{
    cls := cls, part := n, ts := ts, route := way.route, bytes := encodeMsg m, sent := 0, transit := false, hops := 0,
    alt := way.alt }] ∧
  nextSeq t.hub (dev % 65536) cls = (seq + 1) % 65536 ∧
  t = { s with hub := t.hub, links := t.links } ∧ ∀ l, linkIdx l ≠ linkIdx way.link → t.link l = s.link l

/-- The operation `o` of partition `n` has reached its visibility point (R88) and waits for nothing from outside: no bytes, no
chunks, no collective, no pass and no room in a snapshot buffer. It does not end a replay (R282). -/
def Claims.Due (s : State) (n : Nat) (o : Op) : Prop :=
  s.wf = true ∧ dueOp s n o.id = some o ∧ o.sid.part = n ∧ o.passesDone = true ∧ o.want = 0 ∧ o.coll = none ∧
  o.deferred = false ∧ opc o.word ≠ 0x79 ∧ chunksOf s n o.id = false ∧ (s.part n).snap.state ≠ .draining ∧
  (s.part n).recd.ending = false

/-- The operation has left, its stall has ended, and no other partition or domain has changed. -/
def Claims.Gone (s : State) (n : Nat) (o : Op) (t : State) : Prop :=
  (t.part n).run.ops = (s.part n).run.ops.filter (fun x => x.id != o.id) ∧ (∀ m, m ≠ n → t.part m = s.part m) ∧
  ∀ m, t.dom m = if m = n then
    { s.dom m with stalls := (s.dom m).stalls.filter (fun e => !(e.2 == o.id && ownStall e.1)) } else s.dom m

/-- What becomes of an operation that is due, whether at its visibility point, its reads having found no bad block (R181), or, if it
has been late, when it completes. -/
def Claims.Shows (s : State) (n : Nat) (o : Op) (P : State → Prop) : Prop :=
  (o.stallFrom = none → Claims.Answers (.operationVisibility n o.id ⟨true, []⟩) s (fun t => Claims.Gone s n o t ∧ P t)) ∧
  (o.stallFrom ≠ none → Claims.Answers (.operationLateComplete n o.id) s (fun t => Claims.Gone s n o t ∧ P t))

/-- The HDMA instructions (R391 to R393): HXFER IN asks for its chunks when it issues, HXFER OUT offers its chunks, HNOTE follows the
chunks of its stream's OUT transfers with its 16 byte note, HIRQ sends its interrupt at its visibility point, four cycles later. -/
def Obligations.HdmaInstructionsIssue : Prop := ∀ (s : State) (sid : StreamId) (w : InsnWord) (st : Stream),
  Ready s sid w st →
  let n := sid.part
  let p := s.part n
  let id := p.run.nextOp
  let dev := (fld w 64 40 * 16, (fld w 20 16 + 1) * 4096)
  let host := (hostLogical + fld w 36 28 * 4096, (fld w 20 16 + 1) * 4096)
  let k := windowPart p host.1 host.2
  let dur := 3200 + ceilDiv (dev.2 * 256) (fld w 0 16)
  let note := hostLogical + fld w 64 40 * 16
  let ports := match p.channel sid with
    | some ch => (Tab.get {} s.pcie.hdma ch).outPorts
    | none => 0
  (Claims.Inside s sid w st [host] → Claims.Inside s sid w st [dev] →
    Claims.Homes s sid (memRngs sid.own [host, dev]) → Claims.Homes s sid (memRngs sid.own [dev, host]) →
    (opc w = 0x7C → sub w = 0 → Claims.Moves (.hxferIn sid w) s sid w st [] (memRngs sid.own [dev]) dur []
      (if p.recd.replay then k else 0) (Act.guard (!p.recd.replay) (addChunks false n sid.own id host.1 k))) ∧
    (opc w = 0x7C → sub w = 1 → Claims.Moves (.hxferOut sid w) s sid w st
      (remoteParts p sid.own (engineOf p sid) [dev]) (memRngs sid.own [host]) dur
      [.mem sid.own host.1 (readL s n sid.own dev.1 dev.2)] 0 Act.skip)) ∧
  (opc w = 0x7D → Claims.Inside s sid w st [(note, 16)] → 0 < windowPart p note 16 →
    Claims.StartsThen (.hnote sid w) s sid w st 3200
      [.mem sid.own note (leBytes 4 (fld w 0 32) ++ leBytes 4 sid.unit ++ List.replicate 8 0)] 0 none
      (putChunks true n sid.own id (((if bit ports 0 then [(0, busOf p note, 0)] else []) ++
        (if bit ports 1 then [(1, busOf p note, 0)] else [])) ++ [(0, busOf p note, 16)]))) ∧
  (opc w = 0x7E → Claims.Runs (.hirq sid w) s sid w st 4 [.irq]) ∧
  (∀ t o, Claims.Due t n o → o.wait = .none → o.pend = [.irq] →
    Claims.Shows t n o (fun u => Claims.SentPart t u n 5 ∧ u.store = t.store))

/-- UCFG loads a rule or a combine slot in 160 + ceil(len / 64) + 4 cycles (R256, R258, R265), UBOR borrows cells and selects one, and
UBOR RETURN gives them back, in 4 (R264). UCHK writes the global flag when it decides to skip (R263); its decision is made once it
has read q, 184 cycles after its issue (R266, R267). -/
def Obligations.UpdateUnitSetupIssues : Prop := ∀ (s : State) (sid : StreamId) (w : InsnWord) (st : Stream),
  Ready s sid w st →
  let n := sid.part
  let p := s.part n
  let block (len : Nat) : List Byte := uuRead s n sid.own (fld w 64 40 * 16) len
  let b := Tab.get [] st.rules (fld w 61 3)
  let flag := fld w 64 40 * 16
  let d := normDecision s n sid.own b
  let q := ((s.part n).quarter sid.own sid.unit).getD 0
  (opc w = 0x50 → sub w = 0 → uuWard p sid.own [(fld w 64 40 * 16, 160)] = none → ruleBad (block 160) = false →
    Claims.Runs (.ucfgRule sid w) s sid w st 167 [.rule (fld w 61 3) (block 160)]) ∧
  (opc w = 0x50 → sub w = 1 → uuWard p sid.own [(fld w 64 40 * 16, 64)] = none → combBad (block 64) = none →
    Claims.Runs (.ucfgCombine sid w) s sid w st 165 [.comb (fld w 61 3) (block 64)]) ∧
  (opc w = 0x54 → sub w = 0 →
    (∀ o ∈ p.run.ops, ∀ j < 4, bit (BitVec.ofNat 4 (fld w 4 4)) j = true → bit st.bmask j = false →
      o.sid ≠ cellStreamOf sid j) →
    Claims.Runs (.ubor sid w) s sid w st 4 [.borrow (st.bmask ||| BitVec.ofNat 4 (fld w 4 4)) (BitVec.ofNat 2 (fld w 0 2))]) ∧
  (opc w = 0x54 → sub w = 1 → Claims.Runs (.uborReturn sid w) s sid w st 4 [.unborrow]) ∧
  (opc w = 0x52 → b ≠ [] →
    uuWard p sid.own (normRanges b false ++ (if d.dec = 2 then [(flag, 8)] else [])) = none →
    Claims.StartsThen (.uchk sid w) s sid w st 344
      (if d.dec = 2 then uuWrite p sid.own flag (leBytes 8 0x3FF0000000000000) else []) 0 none
      (later n (if rNorm b = 0 then 0 else 184) [.uuDec q {
        upd := false, dec := BitVec.ofNat 2 d.dec, sq := (readQ s n sid.own b).map (BitVec.ofNat 64) }]))

/-- UUPD updates the elements START to START + COUNT in ascending order by its slot's rule, or writes nothing where it decides to
skip; it takes 176 cycles, 184 more where it reads a norm or a flag, and its bytes at the slot's rate, and it decides once it has read
them (R259 to R261, R263, R266, R267).
UCOMB combines elements in ascending order, each read before it is written (R265). An element whose gradient is NaN or infinite is
left unchanged, in every array of every rule, and is counted (R260). -/
def Obligations.UpdatesIssue : Prop := ∀ (s : State) (sid : StreamId) (w : InsnWord) (st : Stream),
  (∀ (n own e : Nat) (b : List Byte) (sc : FV), let g := fT32.decode (uuNat s n own (rG b + 4 * e) 4)
    (g.nonFinite = true → updElem s n own b sc e = ([], true)) ∧ (g.nonFinite = false → (updElem s n own b sc e).2 = false)) ∧
  (Ready s sid w st →
  let n := sid.part
  let p := s.part n
  let b := Tab.get [] st.rules (fld w 61 3)
  let count := fld w 0 29 + 1
  let start := fld w 29 32
  let d := updDecision s n sid.own b
  let q := ((s.part n).quarter sid.own sid.unit).getD 0
  let es := (List.range count).map (fun i => updElem s n sid.own b d.scale (start + i))
  let bad := (es.filter (·.2)).length
  let dur := 176 + (if rNorm b = 0 ∧ rMode b = 0 then 0 else 184) + ceilDiv (count * ruleBytes b) (rUbw b)
  let decided := later n (if rNorm b = 0 ∧ rMode b ≠ 1 then 0 else 184) [.uuDec q {
    upd := true, dec := BitVec.ofNat 2 d.dec, sq := (readQ s n sid.own b).map (BitVec.ofNat 64) }]
  let c := Tab.get [] st.combs (fld w 61 3)
  let nt := fld w 59 2
  let k := cCount c
  (opc w = 0x51 → b ≠ [] → d.dec < 2 → uuWard p sid.own (normRanges b true ++ updRanges b start count) = none →
    Claims.StartsThen (.uupd sid w) s sid w st dur
      (es.flatMap (·.1) ++ [.uuUpd q { written := count - bad, nonfin := bad }]) 0 none decided) ∧
  (opc w = 0x51 → b ≠ [] → 2 ≤ d.dec → uuWard p sid.own (normRanges b true) = none →
    Claims.StartsThen (.uupd sid w) s sid w st dur [.uuUpd q { written := 0, nonfin := 0 }] 0 none decided) ∧
  (opc w = 0x53 → c ≠ [] →
    uuWard p sid.own ((([0x00, 0x08, 0x10].take nt).map (fun o => (leAt c o 8, fmtBytes (cFin c) * k))) ++
      [(leAt c 0x18 8, fmtBytes (cFout c) * k)]) = none →
    Claims.Runs (.ucomb sid w) s sid w st
      (160 + ceilDiv (k * (nt * fmtBytes (cFin c) + fmtBytes (cFout c))) (cUbw c))
      (combFuel n sid.own c nt k 0 s).flatten))

/-- CDESC acts once for each hosted rank, in its space (R247): it copies the block of 64 bytes that R227 and R228 accept into its slot
of the rank, 4 cycles after the access it plans (R228, R231); what of the blocks lies elsewhere it asks for first (R189, R192). -/
def Obligations.DescriptorsLoad : Prop := ∀ (s : State) (sid : StreamId) (w : InsnWord) (st : Stream) (o : Obj),
  Ready s sid w st → opc w = 0x70 → (s.part sid.part).obj = some o →
  let n := sid.part
  let p := s.part n
  let at? := fld w 64 40 * 16
  let os := List.range o.own.length
  let eng := engineOf p sid
  let fs := os.flatMap (fun own => remoteParts p own eng [(at?, 64)] ++ hostParts p own [(at?, 64)])
  (∀ own ∈ os, firstOut p own eng [(at?, 64)] = none) → Claims.Homes s sid (os.map (fun own => memRng own at? 64)) →
  (fs = [] → ∀ own ∈ os, descBad o.ranks (readL s n own at? 64) = false) →
  let lr := plan p sid.own eng [(at?, 64)]
  Claims.Moves (.cdesc sid w) s sid w st fs [] (lr.1 + ceilDiv (64 * 256) lr.2 + 4)
    (os.map (fun own => .desc own (fld w 56 8) (readL s n own at? 64))) 0 Act.skip

/-- A collective starts on every hosted rank with the stream's next tag, for the largest PLAN of their slots (DESIGN CHOICE, log entry
102), where R230 accepts every rank's slot, the ward lets it read and write what it reads and writes, its members and its homes can be
reached and its tumbler entries exist; the next tag, `LASTSLOT` and `SEQ` advance, and the steps that need no data go
forward (R229 to R233, R247, R250). The data phase of a CA2A UNEQUAL begins DPHASE cycles after its strike: the step of a hosted rank
whose counts have left is to send its rows, CAP of them in class 0 and the rest in class 1, and what has landed goes forward (R241);
before that point nothing happens. -/
def Obligations.CollectivesStart : Prop := ∀ (s : State) (sid : StreamId) (w : InsnWord) (st : Stream) (o : Obj),
  (∀ n id op c, (s.part n).run.ops.find? (fun x => x.id == id) = some op → op.coll = some c →
    c.opc = 0x73 → c.sub = 1 →
    let due (x : CollRank) : Prop := c.strike.toNat + dDphase x.desc * 10 ≤ (s.dom n).psc.toNat
    ((∃ x ∈ c.ranks, due x) → exec (.ca2aDataPhase n id) s =
      .next ((Act.all [progress (deliver n) n, retryLinks]).run s)) ∧
    ((∀ x ∈ c.ranks, ¬ due x) → exec (.ca2aDataPhase n id) s = .next s) ∧
    (∀ x ∈ c.ranks, due x → op.want = 0 → chunksOf s n op.id = false → x.asked = 2 → x.counts = true → x.data = false →
      ∃ a, collStep (deliver n) s n o op c x = some a ∧ a.run s = (rowSends (deliver n) s n o op c x).run s)) ∧
  (Ready s sid w st → (s.part sid.part).obj = some o →
  let n := sid.part
  let slot := fld w 32 8
  let root := fld w 16 16
  let desc (own : Nat) : List Byte := Tab.get [] st.descs (own * 256 + slot)
  let os := List.range o.own.length
  let c : Coll := {
    opc := opc w, sub := sub w, slot := slot, root := root, tag := st.collSeq,
    strike := if timed w then strikeOf (s.part n).run st w else pscOf s sid,
    ranks := os.map (fun own => {
      own := own, desc := desc own, up0 := false, up1 := false, down0 := false, down1 := false, sq := false, counts := false,
      data := false, applied := false }) }
  (∀ own ∈ os, desc own ≠ [] ∧ descDetail (opc w) (sub w) (desc own) = none ∧
    (opc w ≠ 0x73 → root < dGsize (desc own))) →
  (opc w = 0x75 → root ≠ 0) →
  unreached s n o c = false → slotsOk s n o c = true → (∀ x ∈ c.ranks, collOut s n o c x = none) →
  let reads := collRngs c (fun x => collHead c x ++ collReads s n o c x)
  let writes := collRngs c (collResults o c)
  Claims.Homes s sid (reads ++ writes) →
  let start : Act := Act.all [
    hostWrites n (s.part n).run.nextOp writes,
    modStream sid (fun t => { t with collSeq := t.collSeq + 1 }),
    modClx (sid.unit * 32 + n) (fun x => { x with lastSlot := BitVec.ofNat 8 slot, seq := st.collSeq + 1 }),
    progress (deliver n) n, retryLinks]
  let Starts (i : Instr) : Prop :=
    Claims.StartsThen i s sid w st ((os.map (fun own => dPlan (desc own))).foldl max 0) [] 0 (some c) start
  (opc w = 0x71 → sub w = 0 → Starts (.credReduce sid w)) ∧ (opc w = 0x71 → sub w = 1 → Starts (.credAllreduce sid w)) ∧
  (opc w = 0x72 → Starts (.cbc sid w)) ∧
  (opc w = 0x73 → sub w = 0 → Starts (.ca2aEqual sid w)) ∧ (opc w = 0x73 → sub w = 1 → Starts (.ca2aUnequal sid w)) ∧
  (opc w = 0x74 → sub w = 0 → Starts (.coaccSend sid w)) ∧ (opc w = 0x74 → sub w = 1 → Starts (.coaccApply sid w)) ∧
  (opc w = 0x75 → Starts (.cring sid w)))

/-- The double tree of a collective (R234, R235): in both trees every member but the root has exactly one parent, whose child it is on
its side, and the two trees share out the elements of a `CRED` and the bytes of a `CBC` without gap or overlap; with one member the
root has no parent and no child. -/
def Obligations.TreesShareTheWork : Prop :=
  (∀ n t p q side : Nat, t < 2 → p < n → parentPos n t p = some (q, side) →
    q < n ∧ (if side = 0 then (childPos n t q).1 = some p else (childPos n t q).2 = some p)) ∧
  (∀ n t p q : Nat, t < 2 → q < n → ((childPos n t q).1 = some p ∨ (childPos n t q).2 = some p) →
    p < n ∧ ∃ side, parentPos n t p = some (q, side)) ∧
  (∀ count, redRange count 0 = (0, (count + 1) / 2) ∧ redRange count 1 = ((count + 1) / 2, count - (count + 1) / 2) ∧
    (redRange count 0).2 + (redRange count 1).2 = count) ∧
  (∀ count, (bcRange count 0).1 = 0 ∧ (bcRange count 1).1 = (bcRange count 0).2 ∧
    (bcRange count 0).2 + (bcRange count 1).2 = count ∧
    (count % 256 = 0 → (bcRange count 0).2 = 256 * ((count + 511) / 512))) ∧
  (∀ t, t < 2 → parentPos 1 t 0 = none ∧ childPos 1 t 0 = (none, none))

/-! ### Time, the pintle tree and holds -/

/-- A function with the rights of the physical function reaches offset `a` of the map (R5, R36, R374). -/
def Claims.Serves (s : State) (fn : Fn) (a : Nat) : Prop := isPf fn = true ∧ reaches s fn a = true

/-- A TIM write is refused: CFG_ERR is set with its interrupt, and no register, table or memory changes (R36). -/
def Claims.TimRefused (s t : State) : Prop :=
  t.tim = { s.tim with int := s.tim.int ||| 1 } ∧ t = { s with tim := t.tim, out := t.out, pcie := t.pcie }

/-- The symbols `bs` enter the stream of every link that is UP except `but`, to be sent twice (R208); the links are otherwise what
they were. -/
def Claims.Flooded (s : State) (but : Option LinkId) (bs : List SymBody) (t : State) : Prop :=
  ∀ l : LinkId, l.wf = true → t.link l = if (s.link l).state = 2 ∧ some l ≠ but then
    { s.link l with sym := (s.link l).sym ++ bs.map (fun b => { body := b, left := 0, copies := 2 }) } else s.link l

/-- Writes to `TIM_HOLD_LEAD`, `TIM_HOLD_MAX` and `TIM_DOM[n].CTRL` are taken or refused as a whole (R31, R36, R37): a lead must
cover each active diameter and may not rise above the PLAN_LEAD of a loaded object, a deadline of 0 is refused, and ACTIVE is not
set with a diameter that the lead does not cover, nor DIAM changed under it. That a slot cannot become active in a state that serves
no time is R380; the PSC with which a schedule begins is the model's (log entry 67), and so is that a write which clears ACTIVE takes
its DIAM and DOMAIN, and that the counts go on over an activation (log entry 100). -/
def Obligations.HoldSettingsAreGuarded : Prop := ∀ (s : State) (fn : Fn) (v : Word),
  s.wf = true →
  (Claims.Serves s fn 0x100018 →
    let k := fld v 0 24
    let short : Prop := ∃ n < 32, (s.dom n).active = true ∧ k < (s.dom n).diam.toNat * 960 + 8000
    let high : Prop := ∃ n < 32, ∃ o, (s.part n).obj = some o ∧
      (s.part n).load.state ∈ [LoadState.loaded, .running, .done, .faulted] ∧ s.tim.lead.toNat < k ∧ o.planLead < k
    (¬ short → ¬ high → exec (.holdLeadWrite fn v) s = .next { s with tim := { s.tim with lead := BitVec.ofNat 24 k } }) ∧
    (short ∨ high → Claims.Answers (.holdLeadWrite fn v) s (Claims.TimRefused s))) ∧
  (Claims.Serves s fn 0x10001C →
    (fld v 0 20 ≠ 0 → exec (.holdMaxWrite fn v) s =
      .next { s with tim := { s.tim with maxMs := BitVec.ofNat 20 (fld v 0 20) } }) ∧
    (fld v 0 20 = 0 → Claims.Answers (.holdMaxWrite fn v) s (Claims.TimRefused s))) ∧
  (Claims.Serves s fn 0x101000 → ∀ n < 32,
    let d := s.dom n
    let diam := fld v 8 8
    let domain := BitVec.ofNat 12 (fld v 16 12)
    let bad : Prop := s.tim.lead.toNat < diam * 960 + 8000 ∨ (d.active = false ∧ timeRuns s.tim.state = false) ∨
      (d.active = true ∧ diam ≠ d.diam.toNat)
    let Becomes (c : Instr) (x : Dom) : Prop := Claims.Answers c s (fun t =>
      t = { s with doms := t.doms } ∧ ∀ m, t.dom m = if m = n then x else s.dom m)
    (bit v 31 = true →
      (bad → Claims.Answers (.domainActivate fn n v) s (Claims.TimRefused s)) ∧
      (¬ bad → d.active = true → Becomes (.domainActivate fn n v) { d with domain := domain }) ∧
      (¬ bad → d.active = false → Becomes (.domainActivate fn n v) { d with
        domain := domain, diam := BitVec.ofNat 8 diam, active := true, held := false, broken := false, heldTotal := 0,
        holds := [], holdMaxSent := false, lostRaises := 0, jump := none, psc := s.tim.hall })) ∧
    (bit v 31 = false →
      (d.active = false → Becomes (.domainDeactivate fn n v) { d with domain := domain, diam := BitVec.ofNat 8 diam }) ∧
      (d.active = true → (∀ h ∈ d.holds, h.source ≠ s.hub.devno) → Becomes (.domainDeactivate fn n v)
        { d with
          domain := domain, diam := BitVec.ofNat 8 diam, active := false, held := false, broken := false,
          heldTotal := d.heldNow s.tim.hall, holds := [], holdMaxSent := false, lostRaises := 0, jump := none }) ∧
      (∀ r, d.active = true → d.holds = [r] → r.source = s.hub.devno → r.release = false →
        Claims.Answers (.domainDeactivate fn n v) s (fun t => (t.dom n).active = false ∧ (t.dom n).held = false ∧
          (t.dom n).holds = [] ∧ (∀ m, m ≠ n → t.dom m = s.dom m) ∧
          Claims.Flooded s none [.hold {
            release := true, domain := d.domain, source := s.hub.devno, seq := s.tim.holdSeq,
            effect := s.tim.hall + BitVec.ofNat 64 s.tim.lead.toNat }] t ∧ t.store = s.store))))

/-- The record `r` enters the send queue of every link that is UP except `but` as one class 4 message (R211, R380); the links are
otherwise what they were. -/
def Claims.RecordSent (s : State) (but : Option LinkId) (r : TopoRec) (t : State) : Prop := ∀ k : LinkId, k.wf = true →
  ((s.link k).state = 2 → some k ≠ but → ∃ e q, t.link k = { s.link k with txq := (s.link k).txq ++ [e] } ∧ e.cls = 4 ∧
    e.route = 0 ∧ e.sent = 0 ∧ e.bytes = encodeMsg { topoMsg s k r with seq := q }) ∧
  (¬ ((s.link k).state = 2 ∧ some k ≠ but) → t.link k = s.link k)

/-- The first copy of a control symbol, whose check passes (R208), and the state in which link `l` has seen the copy `y` of `b`. -/
def Claims.firstCopy : SymCopy := { no := .first, ok := true }
def Claims.noted (s : State) (l : LinkId) (b : SymBody) (y : SymCopy) : State :=
  { s with links := Tab.set {} s.links (linkIdx l) ((s.link l).noteCopy b y s.tim.hall) }

/-- Hall time and its source (R16, R18, R36, R379, R400). The host sets hall time only in UNLOCKED with SRC = 1; a pintle that waits
starts from its oscillator once a start value is written (both halves, DEDUCED: log entry 66), is noted once a second, changes its
source to the time code when its residual is small, and to its oscillator when four frames in a row fail; three frames in a row that
pass make the code valid. Slewing gains or loses one unit in 63 frames, and hall time itself does not step (R16, R18). -/
def Obligations.HallTimeHasOneSource : Prop := ∀ (s : State) (fn : Fn) (v : Word) (target : BitVec 16) (f : BitVec 125),
  s.wf = true →
  let x := s.tim
  let hall := hi32 x.hall ++ v
  (Claims.Serves s fn 0x100008 →
    (¬ (x.state = .unlocked ∧ x.src = true) → Claims.Answers (.hallTimeWrite fn v) s (Claims.TimRefused s)) ∧
    (x.state = .unlocked → x.src = true → x.waiting = false → Claims.Answers (.hallTimeWrite fn v) s (fun t =>
      t.tim.hall = hall ∧ t.tim.state = .unlocked ∧ t.tim.startWritten = x.startWritten ||| 1 ∧
      t = { s with tim := t.tim, hub := t.hub, links := t.links, cols := t.cols })) ∧
    (x.state = .unlocked → x.src = true → x.waiting = true → x.startWritten = 2 →
      Claims.Answers (.hallTimeWrite fn v) s (fun t => t.tim.hall = hall ∧ t.tim.state = .pintleFree ∧ t.tim.depth = 0 ∧
        t.tim.waiting = false ∧ t.doms = s.doms ∧ t.parts = s.parts ∧ t.store = s.store))) ∧
  (Claims.Serves s fn 0x100010 →
    let src := bit v 8
    let pri := BitVec.ofNat 8 (fld v 0 8)
    (x.state ≠ .pintle → x.state ≠ .pintleFree → (x.state = .unlocked → x.settled = true) → x.waiting = false →
      exec (.pintleCfgWrite fn v) s = .next { s with tim := { x with src := src, pri := pri } }) ∧
    (x.state = .pintle → src = true → Claims.Answers (.pintleCfgWrite fn v) s (fun t =>
      t.tim = { x with src := true, pri := pri, state := .pintleFree, slewing := false, int := x.int ||| 2 } ∧
      t = { s with tim := t.tim, out := t.out, pcie := t.pcie, flt := t.flt, free := t.free }))) ∧
  (Claims.Serves s fn 0x100028 →
    ((∃ n < 32, (s.dom n).active = true) → Claims.Answers (.rejoin fn target) s (Claims.TimRefused s)) ∧
    ((∀ n < 32, (s.dom n).active = false) → exec (.rejoin fn target) s = .next { s with tim := { x with
      state := .unlocked, rejoin := some target, settled := false, waiting := false, slewing := false, depth := 0xF,
      pintlePri := 0xFF, pintleDev := 0xFFFF, pintleIdent := 0, idPri := 0xFF, idDev := 0xFFFF, tree := 0xFFFF,
      lastLower := x.hall } })) ∧
  (x.waiting = true → 16000000000 ≤ (x.hall - x.noticeAt).toNat → Claims.Answers .pintleWaitNotice s (fun t =>
    t.tim = { x with noticeAt := x.hall } ∧ t = { s with tim := t.tim, flt := t.flt, free := t.free })) ∧
  (x.state = .pintleFree → x.slewing = true → x.codeValid = true → x.codeOff.toInt ≤ 2 → -2 ≤ x.codeOff.toInt →
    Claims.Answers .pintleSlewDone s (fun t =>
      t.tim = { x with state := .pintle, slewing := false, int := x.int ||| 2 } ∧
      t = { s with tim := t.tim, out := t.out, pcie := t.pcie, flt := t.flt, free := t.free })) ∧
  (s.hub.stopped = false →
    let time := BitVec.ofNat 64 (fld f 45 64)
    let crc : Prop := fld f 21 16 = crc16 72 (fld f 37 72)
    let good : Prop := fld f 109 16 = 0xE2B5 ∧ crc ∧ fld f 37 1 = 1 ∧ time = x.codeT + 16000
    let off := time - x.hall - BitVec.ofInt 64 x.phase
    (good → (x.codeValid = true → x.slewing = false → exec (.timeCodeFrame f) s = .next { s with tim := { x with
        codeGood := x.codeGood + 1, codeBad := 0, codeT := time, codeOff := off } }) ∧
      (x.codeValid = true → x.slewing = true → x.slewFrames = 62 → 2 < off.toInt →
        exec (.timeCodeFrame f) s = .next { s with tim := { x with
          codeGood := x.codeGood + 1, codeBad := 0, codeT := time, codeOff := off - 1, slewFrames := 0, phase := x.phase + 1 } }) ∧
      (x.codeValid = true → x.slewing = true → x.slewFrames = 62 → off.toInt < -2 →
        exec (.timeCodeFrame f) s = .next { s with tim := { x with
          codeGood := x.codeGood + 1, codeBad := 0, codeT := time, codeOff := off + 1, slewFrames := 0, phase := x.phase - 1 } }) ∧
      (x.codeValid = false → x.codeGood < 2 → x.slewing = false → exec (.timeCodeFrame f) s = .next { s with tim := { x with
        codeGood := x.codeGood + 1, codeBad := 0, codeT := time, codeOff := off } }) ∧
      (x.codeValid = false → 2 ≤ x.codeGood → x.state = .pintleFree → x.src = false →
        exec (.timeCodeFrame f) s = .next { s with tim := { x with
          codeGood := x.codeGood + 1, codeBad := 0, codeT := time, codeOff := off, codeValid := true,
          slewing := true, slewFrames := 0 } }) ∧
      (x.codeValid = false → 2 ≤ x.codeGood → x.state = .unlocked → x.waiting = true → x.src = false →
        Claims.Answers (.timeCodeFrame f) s (fun t => t.tim.state = .pintle ∧ t.tim.hall = time ∧ t.tim.depth = 0 ∧
          t.tim.codeValid = true ∧ t.store = s.store ∧ t.parts = s.parts))) ∧
    (¬ good → (x.codeValid = false ∨ x.codeBad < 3 → Claims.Answers (.timeCodeFrame f) s (fun t =>
        t.tim = { x with codeGood := 0, codeBad := x.codeBad + 1, codeT := t.tim.codeT } ∧ t = { s with tim := t.tim })) ∧
      (x.codeValid = true → 3 ≤ x.codeBad → x.state = .pintle → Claims.Answers (.timeCodeFrame f) s (fun t =>
        t.tim.state = .pintleFree ∧ t.tim.codeValid = false ∧ t.tim.hall = x.hall ∧ t.tim.int = x.int ||| 2 ∧
        t = { s with tim := t.tim, out := t.out, pcie := t.pcie, flt := t.flt, free := t.free }))))

/-- The election (R17, R377, R378, R381) and the topology (R380): a lower candidate is adopted and announced on the other links, the
election settles 500 ms after the last lower one, a settled device names its pintle once a second; a topology record sets the
distance of its device and goes on, and the table settles after 1 s without a change. That the links' training must have ended is
DEDUCED (log entry 54). -/
def Obligations.ElectionsSettle : Prop := ∀ (s : State) (l : LinkId) (c : Candidate) (r : TopoRec),
  s.wf = true →
  let x := s.tim
  let lower (p d : Nat) : Prop := p < x.pintlePri.toNat ∨ (p = x.pintlePri.toNat ∧ d < x.pintleDev.toNat)
  (l.wf = true → (s.link l).state = 2 → electing s = true → c.settled = false → c.pri ≠ 0xFF → c.dev ≠ s.hub.devno →
    x.badCands.contains c.dev.toNat = false → x.settled = false →
    let seen : State := { s with links := Tab.set {} s.links (linkIdx l) { s.link l with nCand := some c } }
    (x.pintlePri = 0xFF ∨ lower c.pri.toNat c.dev.toNat → Claims.Answers (.electReceive l c) s (fun t =>
      t.tim = { x with pintlePri := c.pri, pintleDev := c.dev, pintleIdent := c.ident, lastLower := x.hall } ∧
      Claims.Flooded seen (some l) [.elect c, .electx c] t ∧ t = { s with tim := t.tim, links := t.links })) ∧
    (x.pintlePri ≠ 0xFF → ¬ lower c.pri.toNat c.dev.toNat → ¬ (c.pri = x.pintlePri ∧ c.dev = x.pintleDev) →
      exec (.electReceive l c) s = .next seen)) ∧
  (x.settled = true → x.pintlePri ≠ 0xFF → 16000000000 ≤ (x.hall - x.electAt).toNat → Claims.Answers .settledElectSend s (fun t =>
    t.tim = { x with electAt := x.hall } ∧ t = { s with tim := t.tim, links := t.links } ∧
    let own : Candidate := { pri := x.pintlePri, dev := x.pintleDev, ident := x.pintleIdent, settled := true }
    Claims.Flooded s none [.elect own, .electx own] t)) ∧
  (x.state = .unlocked → electing s = true → s.hub.stopped = false → linksReady s = true →
    8000000000 ≤ (x.hall - x.lastLower).toNat → x.pintlePri ≠ 0xFF →
    (eligible s = true → ¬ (x.pri.toNat < x.pintlePri.toNat ∨
      (x.pri = x.pintlePri ∧ s.hub.devno.toNat < x.pintleDev.toNat))) →
    (x.pintleDev ≠ s.hub.devno → exec .electionSettle s =
      .next { s with tim := { x with
        settled := true, state := .acquiring, tree := x.pintleDev, idPri := x.pintlePri, idDev := x.pintleDev } }) ∧
    (x.pintleDev = s.hub.devno → x.src = true → Claims.Answers .electionSettle s (fun t =>
      t.tim = { x with
        settled := true, state := .pintleFree, depth := 0, waiting := false, tree := s.hub.devno,
        idPri := x.pintlePri, idDev := x.pintleDev } ∧
      t.store = s.store ∧ t.parts = s.parts ∧ t.doms = s.doms)) ∧
    (x.pintleDev = s.hub.devno → x.src = false → x.codeValid = false → exec .electionSettle s =
      .next { s with tim := { x with
        settled := true, waiting := true, noticeAt := x.hall, idPri := x.pintlePri, idDev := x.pintleDev } })) ∧
  (l.wf = true → (s.link l).state = 2 → r.dev ≠ s.hub.devno → s.hub.dist r.dev.toNat = 255 →
    Tab.get 0 s.hub.topoSeq r.dev.toNat ≤ r.seq → (∀ e ∈ (s.link l).rxMsgs, e.1 ≠ 4) →
    let d := min (r.hops.toNat + 1) 254
    Claims.Answers (.topologyRecord l r) s (fun t =>
      t.hub = { s.hub with
        topo := Tab.set 0 s.hub.topo r.dev.toNat (BitVec.ofNat 8 (255 - d)), topoSettled := false, topoChange := x.hall,
        topoIdent := Tab.set 0 s.hub.topoIdent r.dev.toNat r.ident,
        topoSeq := Tab.set 0 s.hub.topoSeq r.dev.toNat (r.seq + 1), txSeq := t.hub.txSeq } ∧
      Claims.RecordSent s (some l) { r with hops := BitVec.ofNat 8 d } t ∧ t = { s with hub := t.hub, links := t.links })) ∧
  (l.wf = true → (s.link l).state = 2 → r.dev = s.hub.devno → r.ident ≠ s.fuses.identity →
    (∀ e ∈ (s.link l).rxMsgs, e.1 ≠ 4) →
    exec (.topologyRecord l r) s = .next { s with
      hub := { s.hub with dupnum := true, topoDup := true }, tim := { x with ineligible := true } }) ∧
  (s.hub.topoSettled = false → s.hub.topo ≠ [] → 16000000000 ≤ (x.hall - s.hub.topoChange).toNat →
    exec .topoSettle s = .next { s with hub := { s.hub with topoSettled := true } }) ∧
  (x.state = .locked → x.settled = true → x.pintlePri ≠ 0xFF → l.wf = true → (s.link l).state = 2 → c.settled = false →
    Claims.Answers (.electReceive l c) s (fun t => t.tim = x ∧ t = { s with links := t.links }))

/-- A parent gives its child hall time, depth and the pintle (R16, R19); a child that loses its parent's service holds over (R21);
after 10 ms without one it is LOST and raises a hold on every domain, and 1 ms after it has locked again it releases as many holds as
it has raised so. The hall time of a locked child does not step (R16): the offset disciplines its DPLL. Delay and offset follow from
what the two ends measured of a pair of exchanged symbols; how the second half of the exchange travels, and the rate of the discipline,
are the model's (log entry 99). -/
def Obligations.TimeIsTakenFromAParent : Prop := ∀ (s : State) (l : LinkId) (y : TimeSym),
  s.wf = true →
  let x := s.tim
  let got : Int := ((x.hall.toNat : Int) + x.phase - y.hall.toNat) * 125 / 2 + y.fine
  let trained : Int := (s.link l).delay.toNat * 125 / 2
  let way : Int := match y.back with
    | some b => if 32000 ≤ (x.hall - x.steppedAt).toNat ∧ 0 ≤ got + b then (got + b) / 2 else trained
    | none => trained
  let delay := delayUnits way
  (l.wf = true → upLinks s = [l] → y.depth.toNat < 15 → (s.link l).nCand = none → x.rejoin = none →
    y.state = .locked ∨ y.state = .pintle ∨ y.state = .pintleFree →
    let child (st : TimeState) (hall : BitVec 64) (z : Tim) : Prop := z.state = st ∧ z.hall = hall ∧
      z.parentDie.toNat = l.die ∧ z.parentLink.toNat = l.link ∧ z.depth = y.depth + 1 ∧ z.delay = delay ∧
      z.offset = offsetField (got - way) ∧ z.settled = true
    let Now (P : State → Prop) : Prop := Claims.Answers (.timeSymbolReceive l ⟨y, Claims.firstCopy⟩) s P
    ((x.state = .unlocked ∧ x.waiting = false ∨ x.state = .acquiring) → Now (fun t =>
      child .acquiring (y.hall + delay.setWidth 64) t.tim ∧ t.doms = s.doms ∧ t.parts = s.parts ∧ t.store = s.store)) ∧
    (x.state = .locked → Now (fun t => child .locked x.hall t.tim ∧ t.tim.phase = discipline (got - way) x.phase ∧
      t = { s with tim := t.tim, links := t.links })) ∧
    (x.state = .holdover → Now (fun t => child .locked x.hall t.tim ∧
      t.tim.lockedAt = x.hall ∧ t.doms = s.doms ∧ t.parts = s.parts ∧ t.store = s.store)) ∧
    (x.state = .lost → Now (fun t => child .locked (y.hall + delay.setWidth 64) t.tim ∧
      t.doms = s.doms ∧ t.parts = s.parts ∧ t.store = s.store))) ∧
  (∀ k, (s.link l).takesCopy (.time y) k = false → (s.link l).state = 2 →
    exec (.timeSymbolReceive l ⟨y, k⟩) s = .next (Claims.noted s l (.time y) k)) ∧
  (l.wf = true → upLinks s = [l] → x.state = .locked → x.parent = l → y.state = .lost ∨ y.state = .holdover →
    Claims.Answers (.timeSymbolReceive l ⟨y, Claims.firstCopy⟩) s (fun t => t.tim.state = .holdover ∧ t.tim.holdoverAt = x.hall ∧ t.tim.hall = x.hall ∧
      t.tim.int = x.int ||| 2 ∧ t.doms = s.doms ∧ t.parts = s.parts ∧ t.store = s.store)) ∧
  (x.state = .acquiring → x.depth ≠ 0xF → (parents s).any (fun e => e.1 == x.parent) = true →
    Claims.Answers .timeLockAcquired s (fun t => t.tim = { x with state := .locked, lockedAt := x.hall, rejoin := none } ∧
      t = { s with tim := t.tim, hub := t.hub, links := t.links } ∧ Claims.RecordSent s none {
        dev := s.hub.devno, ident := s.fuses.identity, depth := x.depth, upLinks := (upLinks s).length, hops := 0,
        seq := Tab.get 0 s.hub.topoSeq s.hub.devno.toNat } t)) ∧
  (x.state = .holdover → 160000000 ≤ (x.hall - x.holdoverAt).toNat → Claims.Answers .holdoverTimeout s (fun t =>
    t.tim.state = .lost ∧ t.tim.int = x.int ||| 4 ∧ t.tim.hall = x.hall ∧ t.store = s.store ∧ t.parts = s.parts ∧
    ∀ n < 32, ((s.dom n).active = false → t.dom n = s.dom n) ∧
      ((s.dom n).active = true → ∃ r, t.dom n = { s.dom n with
        holds := (s.dom n).holds ++ [r], holdCount := (s.dom n).holdCount + 1, lostRaises := (s.dom n).lostRaises + 1 } ∧
        r.source = s.hub.devno ∧ r.release = false ∧ r.taken = false ∧
        r.effect = x.hall + BitVec.ofNat 64 x.lead.toNat))) ∧
  (x.state = .locked → 16000000 ≤ (x.hall - x.lockedAt).toNat → Claims.Answers .lostRelockRelease s (fun t =>
    t.tim.state = .locked ∧ t.store = s.store ∧ t.parts = s.parts ∧
    ∀ n < 32, (s.dom n).active = true → ∃ rs, t.dom n = { s.dom n with
        holds := (s.dom n).holds ++ rs, lostRaises := 0 } ∧ rs.length = (s.dom n).lostRaises ∧
        ∀ r ∈ rs, r.source = s.hub.devno ∧ r.release = true ∧ r.taken = false ∧
          r.effect = x.hall + BitVec.ofNat 64 x.lead.toNat))

/-- Holds (R28 to R33). A dependent instruction that its stream reaches is armed, and its hold, if one was raised, is released; one not
armed at its hold point raises a hold for `TIM_HOLD_LEAD` later on every link. A record takes effect at its EFFECT time, and the
interval in which a source's raises outnumber its releases is held time. A held interval of `TIM_HOLD_MAX` is reported and the hold
stays. A hold symbol is forwarded once and taken for its EFFECT time, a repeat is dropped, and one that is late breaks the domain and
raises a hold. The receiver acts on the first copy whose CRC-16 passes and drops the others (R208). -/
def Obligations.HoldsAct : Prop := ∀ (s : State) (sid : StreamId) (st : Stream) (w : InsnWord) (n : Nat) (l : LinkId) (h : HoldSym),
  s.wf = true →
  let x := s.tim
  let d := s.dom n
  let effect := x.hall + BitVec.ofNat 64 x.lead.toNat
  let mine (release : Bool) : HoldRec :=
    { source := s.hub.devno, seq := x.holdSeq, release := release, effect := effect, taken := false }
  let sym (m : Nat) (release : Bool) : SymBody := .hold {
    release := release, domain := (s.dom m).domain, source := s.hub.devno, seq := x.holdSeq, effect := effect }
  let Now (c : Instr) (y : Dom) : Prop := Claims.Answers c s (fun t =>
    t = { s with doms := t.doms } ∧ ∀ m, t.dom m = if m = n then y else s.dom m)
  (stream s sid = some st → (s.part sid.part).load.state = .running → st.halted = false → st.stopped = false →
    ((s.queue st.queue).headWord s = some w → actsDep sid w = true → st.armed = false →
      (st.raised = false → Claims.Answers (.dependentArm sid) s (fun t =>
        Claims.StreamNow s sid (fun y => y = { st with armed := true }) t ∧ t = { s with parts := t.parts, pmc := t.pmc })) ∧
      (st.raised = true → (s.dom sid.part).active = true → Claims.Answers (.dependentArm sid) s (fun t =>
        Claims.StreamNow s sid (fun y => y = { st with armed := true, raised := false }) t ∧
        t.dom sid.part = { s.dom sid.part with holds := (s.dom sid.part).holds ++ [mine true] } ∧
        Claims.Flooded s none [sym sid.part true] t ∧ t.store = s.store ∧ ∀ m, m ≠ sid.part → t.dom m = s.dom m))) ∧
    (∀ dw k, st.raised = false → (s.dom sid.part).active = true → nextDep s st = some (dw, k) →
      k.toNat ≤ ((s.dom sid.part).hst x.hall).toNat + x.lead.toNat → Claims.Answers (.holdPointMissed sid) s (fun t =>
        Claims.StreamNow s sid (fun y => y = { st with raised := true }) t ∧
        t.dom sid.part = { s.dom sid.part with
          holds := (s.dom sid.part).holds ++ [mine false], holdCount := (s.dom sid.part).holdCount + 1 } ∧
        Claims.Flooded s none [sym sid.part false] t ∧ t.store = s.store ∧ ∀ m, m ≠ sid.part → t.dom m = s.dom m))) ∧
  (∀ r, d.holds = [r] → r.release = false → r.taken = false → r.effect ≤ x.hall → d.held = false →
      Now (.holdTakeEffect n) { d with holds := [{ r with taken := true }], held := true, heldSince := r.effect }) ∧
  (∀ r y, d.holds = [r, y] → r.source = y.source → r.release = false → r.taken = true → y.release = true → y.taken = false →
      y.effect ≤ x.hall → d.held = true → Now (.holdTakeEffect n)
        { d with
          holds := [r, { y with taken := true }], held := false, holdMaxSent := false,
          heldTotal := d.heldTotal + BitVec.ofNat 64 (y.effect.toNat - max d.heldSince.toNat d.origin.toNat) }) ∧
  (d.held = true → d.holdMaxSent = false → x.maxMs.toNat * 16000000 ≤ (x.hall - d.heldSince).toNat →
    Claims.Answers (.holdMaxExpiry n) s (fun t => t.dom n = { d with holdMaxSent := true } ∧
      (∀ m, m ≠ n → t.dom m = s.dom m) ∧ t.tim = { x with int := x.int ||| 8 } ∧
      t.hub = { s.hub with alert := s.hub.alert ||| 16 } ∧
      Claims.Sent s t 0 0 ∧ t = { s with doms := t.doms, tim := t.tim, hub := t.hub, out := t.out, pcie := t.pcie })) ∧
  (l.wf = true → (s.link l).state = 2 →
    let noted := Claims.noted s l (.hold h)
    (∀ k, (s.link l).takesCopy (.hold h) k = false → exec (.holdSymbolReceive l ⟨h, k⟩) s = .next (noted k)) ∧
    let Now (P : State → Prop) : Prop := Claims.Answers (.holdSymbolReceive l ⟨h, Claims.firstCopy⟩) s P
    (x.seen.contains (h.source.toNat, h.seq.toNat) = true →
      Now (fun t => t = { noted Claims.firstCopy with pmc := t.pmc })) ∧
    (x.seen.contains (h.source.toNat, h.seq.toNat) = false →
      let got (taken : Bool) : HoldRec :=
        { source := h.source, seq := h.seq, release := h.release, effect := h.effect, taken := taken }
      (x.hall ≤ h.effect → Now (fun t =>
        Claims.Flooded (noted Claims.firstCopy) (some l) [.hold h] t ∧ (h.source.toNat, h.seq.toNat) ∈ t.tim.seen ∧
        (∀ m < 32, t.dom m = if (s.dom m).active = true ∧ (s.dom m).domain = h.domain then
          { s.dom m with holds := (s.dom m).holds ++ [got false] } else s.dom m) ∧
        t = { s with tim := t.tim, pmc := t.pmc, links := t.links, doms := t.doms })) ∧
      (h.effect < x.hall → Now (fun t => t.store = s.store ∧ ∀ m < 32,
        (¬ ((s.dom m).active = true ∧ (s.dom m).domain = h.domain) → t.dom m = s.dom m) ∧
        ((s.dom m).active = true → (s.dom m).domain = h.domain → (t.dom m).broken = true ∧
          (∃ r, (t.dom m).holds = (s.dom m).holds ++ [got true, r] ∧ r.release = false ∧ r.effect = effect ∧
            r.source = s.hub.devno) ∧
          ((s.dom m).holds = [] → h.release = false → (s.dom m).held = false →
            (t.dom m).held = true ∧ (t.dom m).heldSince = x.hall) ∧ t.tim.int = x.int ||| 16)))))

/-! ### Visibility points, waits, DRAM and the keyway -/

/-- An operation becomes visible at once (R88), with exactly its effects on memory, total buffers, registers, latches (R150, R153),
pairs (R156), hasps (R163), generators, the registers of its stream and those of the update unit (R267); one that the hardware has not finished stalls its partition from there and
shows nothing (R25). -/
def Obligations.OperationsBecomeVisible : Prop := ∀ (s : State) (n : Nat) (o : Op),
  Claims.Due s n o → o.wait = .none →
  let r := (s.part n).run
  let Shows := Claims.Shows s n o
  (o.pend = [] → Shows (fun t => t.store = s.store ∧ t.queues = s.queues)) ∧
  (∀ own a x bs, o.pend = [.mem own a bs] → bs ≠ [] → a % 256 + bs.length ≤ 256 → (s.part n).reach own a = .loc x →
    (∀ i < bs.length, place s (x + i) = .dram (x + i)) → r.moves = [] →
    remoteParts (s.part n) own plainEngine [(a, bs.length)] = [] →
    Shows (fun t => t.store = { s.store with mem := t.store.mem } ∧ ∀ b, t.store.mem.read b =
      if x ≤ b ∧ b < x + bs.length then (bs[b - x]?).getD 0 else s.store.mem.read b)) ∧
  (∀ k i vs, o.pend = [.tb k i vs] →
    Shows (fun t => t.store = { s.store with tb := writeVals s.store.tb (k * 262144 + i) vs })) ∧
  (∀ q v vs, o.pend = [.vreg q v vs] →
    Shows (fun t => t.store = { s.store with vreg := writeVals s.store.vreg ((q * 32 + v) * 512) vs })) ∧
  (∀ q g, o.pend = [.gen q g] → Shows (fun t => t.store = { s.store with gen := Tab.set {} s.store.gen q g })) ∧
  (∀ l k, o.pend = [.latch l k] → r.pairs = [] → (s.latch l).toNat + k < 2 ^ 64 → s.hub.debugMode = false →
    Shows (fun t => t.store = { s.store with latch := Tab.set 0 s.store.latch l (s.latch l + BitVec.ofNat 64 k) } ∧
      t.latch l = s.latch l + BitVec.ofNat 64 k)) ∧
  (∀ f d k, o.pend = [.bind f d k] → k ≠ 0 → f ≠ d → r.pairs = [] → (s.latch d).toNat ≤ (s.latch f).toNat →
    (s.latch f).toNat ≤ (s.latch d).toNat + k → Shows (fun t => (t.part n).run.pairs = [(f, d, k)] ∧ t.store = s.store)) ∧
  (∀ st, stream s o.sid = some st →
    let Sets (y : Stream) : Prop := s.hub.debugMode = false → Shows (fun t => t.store = s.store ∧
      (∃ x, stream t o.sid = some x ∧ x = { y with tried := false }) ∧
      (t.part n).run.streams.filter (fun x => x.sid != o.sid) =
        (r.streams.filter (fun x => x.sid != o.sid)).map (fun x => { x with tried := false }))
    (∀ w m q k, o.pend = [.mask w m q k] → Sets { st with maskWindow := w, maskMode := m, maskQ := q, maskK := k }) ∧
    (∀ tag cls len, o.pend = [.lset tag cls len] → Sets { st with ltag := tag, lcls := cls, llen := len }) ∧
    (∀ own k b, o.pend = [.desc own k b] → Sets { st with descs := Tab.set [] st.descs (own * 256 + k) b }) ∧
    (∀ k b, o.pend = [.rule k b] → Sets { st with rules := Tab.set [] st.rules k b }) ∧
    (∀ k b, o.pend = [.comb k b] → Sets { st with combs := Tab.set [] st.combs k b }) ∧
    (∀ m k, o.pend = [.borrow m k] → Sets { st with bmask := m, bsel := k }) ∧
    (o.pend = [.unborrow] → Sets { st with bmask := 0, bsel := 0 })) ∧
  (∀ q d, o.pend = [.uuDec q d] → Shows (fun t => t.store = s.store ∧ t.uu q = { s.uu q with
    lastDec := d.dec, lastSq := d.sq.getD (s.uu q).lastSq,
    skip := if d.upd && 2 ≤ d.dec.toNat then satAdd (s.uu q).skip 1 else (s.uu q).skip,
    clip := if d.upd && d.dec == 1 then satAdd (s.uu q).clip 1 else (s.uu q).clip })) ∧
  (∀ q d, o.pend = [.uuUpd q d] → Shows (fun t => t.store = s.store ∧ t.uu q = { s.uu q with
    upd := satAdd (s.uu q).upd 1, nonfin := satAdd (s.uu q).nonfin d.nonfin })) ∧
  (∀ h kind rl k, o.pend = [.hcfg h kind rl k] → Shows (fun t => t.store = s.store ∧ ∀ j, t.hasp j = if j = h then
    { s.hasp h with
      configured := true, kind := kind, rlatch := rl, nslot := k, gen := 0, mask0 := 0, mask1 := 0, fullAt := none,
      sentUp := false, known0 := [], known1 := [] } else s.hasp j)) ∧
  (o.stallFrom = none → o.cause ≠ .snapshot → Claims.Answers (.operationVisibility n o.id ⟨false, []⟩) s (fun t =>
    (o.cause, o.id) ∈ (t.dom n).stalls ∧ t.store = s.store ∧ t.queues = s.queues ∧ (∀ m, m ≠ n → t.part m = s.part m) ∧
    (t.part n).run.ops = r.ops.map (fun x => if x.id == o.id then
      { x with stallFrom := some ((s.dom n).hst s.tim.hall) } else x)))

/-- A pass of a multiply ends (R70, R71, R122): one with no overflow gives way to the next, one with k repeats stalls the partition for
k pass times of hall time and counts each repeat in its cell. A shadow comparison ends (R309): it counts in both cells, and in the
spare the passes that it has repeated (R71), and a mismatch fences the
architected cell, makes the spare the witness, is captured if it is the column's first, and holds the domain with no release. -/
def Obligations.PassesAndComparisonsEnd : Prop :=
  (∀ (s : State) (n : Nat) (o : Op) (p : Passes) (k : Nat), s.wf = true →
    let after (t : BitVec 64) : BitVec 64 := t + BitVec.ofNat 64 (p.time * 10)
    let elapsed : Prop := p.endAt.toNat ≤ s.tim.hall.toNat
    (s.part n).run.ops.find? (fun x => x.id == o.id) = some o → o.passes = some p → p.repeats[p.idx]? = some k →
    o.issue.toNat + (p.idx + 1) * p.time * 10 ≤ (s.dom n).psc.toNat →
    let Now (q : Passes) (stalls : List (StallCause × Nat)) (rep : Bool) : Prop := Claims.Answers (.cellPassEnd n o.id) s (fun t =>
      (t.part n).run = { (s.part n).run with ops := (s.part n).run.ops.map (fun x =>
        if x.id == o.id then { x with passes := some q } else x) } ∧
      (∀ m, m ≠ n → t.part m = s.part m) ∧ (∀ m, t.dom m = if m = n then { s.dom m with stalls := stalls } else s.dom m) ∧
      (∀ c, t.cell c = if rep = true ∧ c = p.cell then { s.cell c with
        retryPass := satAdd (s.cell c).retryPass 1,
        maxRepeat := BitVec.ofNat 8 (max (s.cell c).maxRepeat.toNat k) } else s.cell c) ∧
      t = { s with parts := t.parts, doms := t.doms, cells := t.cells, pmc := t.pmc })
    let old := (s.dom n).stalls
    (p.owed = 0 → k = 0 → Now { p with idx := p.idx + 1 } old false) ∧
    (p.owed = 0 → k ≠ 0 → old.contains (.retry, o.id) = false →
      Now { p with owed := k, endAt := after s.tim.hall } (old ++ [(.retry, o.id)]) false) ∧
    (p.owed ≠ 0 → ¬ elapsed → exec (.cellPassEnd n o.id) s = .next s) ∧
    (p.owed = 1 → elapsed → Now { p with idx := p.idx + 1, owed := 0 } (old.filter (fun e => e != (.retry, o.id))) true) ∧
    (2 ≤ p.owed → elapsed → Now { p with owed := p.owed - 1, endAt := after p.endAt } old true)) ∧
  (∀ (s : State) (c spare : Nat) (r : ShadowRec), s.wf = true →
    let k := c * 18 + spare
    (s.cell k).shadowOf = some r → r.cell ≠ k → (s.part r.part).snap.state ≠ .draining →
    Claims.Answers (.shadowCompareEnd c spare false) s (fun t =>
      (∀ m, t.cell m = if m = k then { s.cell k with
          role := .unbound, shadowOf := none, shadowDone := satAdd (s.cell k).shadowDone 1,
          retryPass := satAdd (s.cell k).retryPass r.repeats.sum,
          maxRepeat := BitVec.ofNat 8 (max (s.cell k).maxRepeat.toNat (r.repeats.foldl max 0)) }
        else if m = r.cell then { s.cell m with shadowDone := satAdd (s.cell m).shadowDone 1 } else s.cell m) ∧
      t = { s with cells := t.cells, pmc := t.pmc }) ∧
    ((s.dom r.part).active = true → Claims.Answers (.shadowCompareEnd c spare true) s (fun t =>
      (t.cell r.cell).role = .fenced ∧ (t.cell k).witness = true ∧ bit (t.col c).fenced (r.cell % 18) = true ∧
      (t.col c).shadowMm = satAdd (s.col c).shadowMm 1 ∧ (t.col c).mmValid = true ∧
      ((s.col c).mmValid = false → (t.col c).mmPsc = r.psc ∧ (t.col c).mmQpos = r.qpos ∧
        (t.col c).mmSpare = BitVec.ofNat 5 spare) ∧
      ((s.col c).mmValid = true → (t.col c).mmPsc = (s.col c).mmPsc) ∧
      ∃ h, (t.dom r.part).holds = (s.dom r.part).holds ++ [h] ∧ h.release = false ∧ h.source = s.hub.devno)))

/-- What ends a wait. An LWAIT whose latch has its target leaves the head of its queue, one whose latch has not stalls its partition
(R154, R169); a deadline is captured and holds the domain, and the state stays RUNNING (R155, R173); a STRIKE hasp whose mask is full
goes to the next generation one cycle later and adds 1 to its release latch (R166); a hasp symbol reaches its partition 80 ns later;
an idle partition with lag jumps to the earliest strike at which a stream waits, or to hall schedule time (R26); in that clause no row
waits for its retirement at the refreshes passed (R305). -/
def Obligations.WaitsEnd : Prop := ∀ (s : State) (n : Nat) (o : Op) (l target dln : Nat),
  s.wf = true →
  (Claims.Due s n o → o.pend = [] → o.wait = .latch l target dln → s.hub.debugMode = false →
    (∀ st, stream s o.sid = some st → st.stopped = false → target ≤ (s.latch l).toNat → Claims.Shows s n o (fun t =>
      t.store = s.store ∧ ∀ k, t.queue k = if k = st.queue then { s.queue k with
        head := (s.queue k).head + 1, wait := if (s.queue k).head + 1 == (s.queue k).tail then 1 else 0,
        wpsc := (s.dom n).psc } else s.queue k)) ∧
    ((s.latch l).toNat < target → o.stallFrom = none → Claims.Answers (.operationVisibility n o.id ⟨true, []⟩) s (fun t =>
      (.latch, o.id) ∈ (t.dom n).stalls ∧ t.queues = s.queues ∧ t.store = s.store))) ∧
  (∀ since, (s.part n).run.ops.find? (fun x => x.id == o.id) = some o → o.wait = .latch l target dln → dln ≠ 0 →
    o.stallFrom = some since → o.expired = false → (s.latch l).toNat < target → (s.dom n).active = true →
    since.toNat + dln * 2 ^ 20 * 10 ≤ ((s.dom n).hst s.tim.hall).toNat →
    Claims.Answers (.lwaitDeadlineExpiry n o.id) s (fun t =>
      (t.part n).load = (s.part n).load ∧ (t.part n).sync.dlValid = true ∧
      ((s.part n).sync.dlValid = false → (t.part n).sync = { (s.part n).sync with
        dlValid := true, dlLqtr := BitVec.ofNat 8 o.sid.unit, dlKind := BitVec.ofNat 4 (kindNum o.sid.kind),
        dlLatch := BitVec.ofNat 19 l, dlTarget := BitVec.ofNat 64 target }) ∧
      ((s.part n).sync.dlValid = true → (t.part n).sync = (s.part n).sync) ∧
      (∃ h, (t.dom n).holds = (s.dom n).holds ++ [h] ∧ h.release = false ∧ h.source = s.hub.devno) ∧
      t.store = s.store ∧ t.queues = s.queues ∧ ∀ m, m ≠ n → t.part m = s.part m)) ∧
  (∀ h since, let x := s.hasp h
    x.owner = some n → x.fullAt = some since → x.kind = 2 → since.toNat + 10 ≤ (s.dom n).psc.toNat →
    x.mask1 ≠ fullMask x.nslot → (s.part n).run.pairs = [] → (s.latch x.rlatch).toNat + 1 < 2 ^ 64 →
    s.hub.debugMode = false → Claims.Answers (.haspStrikeComplete h) s (fun t =>
      t = { s with hasps := t.hasps, store := t.store, parts := t.parts } ∧ (∀ m, m ≠ n → t.part m = s.part m) ∧
      t.part n = { s.part n with run := { (s.part n).run with
        streams := (s.part n).run.streams.map (fun y => { y with tried := false }) } } ∧
      t.store = { s.store with latch := Tab.set 0 s.store.latch x.rlatch (s.latch x.rlatch + 1) } ∧
      ∀ k, t.hasp k = if k = h then { x with
        gen := x.gen + 1, mask0 := x.mask1, mask1 := 0, sentUp := false, fullAt := none,
        child0 := x.child0.filter (· != x.gen), child1 := x.child1.filter (· != x.gen), known0 := x.known1,
        known1 := [] } else s.hasp k)) ∧
  (∀ k y ob, (s.link k).state = 2 → n < 32 → (s.dom n).active = true → (s.dom n).domain = y.domain → (s.part n).obj = some ob →
    (∀ m < n, (s.dom m).active = true → (s.dom m).domain ≠ y.domain) → domainIndex s ob n = y.dst →
    exec (.haspSymbolReceive k ⟨y, Claims.firstCopy⟩) s = .next { Claims.noted s k (.hasp y) Claims.firstCopy with
      hub := { s.hub with haspDue := s.hub.haspDue ++ [(s.tim.hall + 1280, n, y)] } }) ∧
  ((s.part n).load.state = .running → (s.dom n).active = true → (s.dom n).jump = none → stalled s n = false →
    s.hub.deadboltPending = false → idlePart s n = true → timeRuns s.tim.state = true →
    (∀ e ∈ partChannels s n, (s.col e.1).pendingRows = []) →
    let target := catchTarget s n
    let time := ((partChannels s n).map (fun e =>
      192 * (passed s e.1 e.2 target).1 + 8 * (passed s e.1 e.2 target).2)).foldl max 0
    (s.dom n).psc.toNat < target → Claims.Answers (.idleCatchUp n) s (fun t =>
      t.parts = s.parts ∧ t.queues = s.queues ∧ t.tim = s.tim ∧
      ∀ m, t.dom m = if m = n then (if time = 0 then { s.dom n with psc := BitVec.ofNat 64 target } else { s.dom n with
        jump := some (BitVec.ofNat 64 target, s.tim.hall + BitVec.ofNat 64 (10 * time)) }) else s.dom m))

/-- Refresh and patrol scrub (R34, R35, R180, R181, R304, R305). Positions are the origin plus the channel's phase plus every multiple
of the interval; a refresh takes 192 busy cycles of its channel, a scrub 8; a row that needs correction twice in one pass is to be
retired, and so is the row of an uncorrectable block, which becomes POISON. -/
def Obligations.ChannelsRefreshAndScrub : Prop :=
  (∀ origin phase every t : Nat, 0 < every → t ≤ nextPos origin phase every t ∧ nextPos origin phase every t < t + every ∧
    nextPos origin phase every t % every = (origin + phase) % every) ∧
  ∀ (s : State) (c ch : Nat), s.wf = true → s.hub.stopped = false →
  let x := s.col c
  let now := (chanClock s c ch).1
  let origin := (chanClock s c ch).2
  let pos := nextPos origin (ch * 960 % 62400) 62400 (Tab.get 0 x.refreshFrom ch).toNat
  let spos := nextPos origin (ch * 160 % 10240) 10240 (Tab.get 0 x.scrubFrom ch).toNat
  let clean : Prop := ∀ e ∈ x.pendingRows, e.1 ≠ ch
  (clean → pos ≤ now → Claims.Answers (.refreshPosition c ch) s (fun t =>
    (∀ k, t.col k = if k = c then { x with
      refreshFrom := Tab.set 0 x.refreshFrom ch (BitVec.ofNat 64 (pos + 1)),
      lastRefresh := Tab.set 0 x.lastRefresh ch s.tim.hall } else s.col k) ∧
    t.pmc = (s.pmc.add (ctrCol c (0x4A + ch)) 192).add (ctrCol c 0x94) 1 ∧ t = { s with cols := t.cols, pmc := t.pmc })) ∧
  (now < pos → exec (.refreshPosition c ch) s = .next s) ∧
  (∀ n, chanPart s c ch = some n → frozen s n = true → (s.dom n).jump = none → clean →
    62400 ≤ (s.tim.hall - Tab.get 0 x.lastRefresh ch).toNat → Claims.Answers (.freezeRefresh c ch) s (fun t =>
      (∀ k, t.col k = if k = c then { x with
        lastRefresh := Tab.set 0 x.lastRefresh ch s.tim.hall,
        refreshDone := Tab.set 0 x.refreshDone ch (s.tim.hall + 1920) } else s.col k) ∧
      t = { s with cols := t.cols, pmc := t.pmc })) ∧
  (now < spos → exec (.scrubPosition c ch []) s = .next s) ∧
  (spos ≤ now → Tab.get 0 x.scrubPos ch + 1 < 2097152 →
    let done (y : Col) : Col := { y with
      scrubFrom := Tab.set 0 x.scrubFrom ch (BitVec.ofNat 64 (spos + 1)),
      scrubPos := Tab.set 0 x.scrubPos ch (Tab.get 0 x.scrubPos ch + 1) }
    (Claims.Answers (.scrubPosition c ch []) s (fun t =>
      (∀ k, t.col k = if k = c then done x else s.col k) ∧ t = { s with cols := t.cols, pmc := t.pmc })) ∧
    (∀ b i, foundIn s c b = .fixed i (storedWord s c b.addr) → Tab.get 0 x.passCe ch + 1 ≤ s.hub.ceMax.toNat / 16 →
      (x.passCe.map (·.2)).sum + 1 ≤ s.hub.ceMax.toNat →
      Claims.Answers (.scrubPosition c ch [b]) s (fun t =>
        (t.col c).eccCe = satAdd x.eccCe 1 ∧
        (t.col c).passCe = Tab.set 0 x.passCe ch (Tab.get 0 x.passCe ch + 1) ∧ (t.col c).scrubPos = (done x).scrubPos ∧
        (x.badRows.any (fun e => e.1 == ch && e.2.1 == b.row) = true → (ch, b.row) ∈ (t.col c).pendingRows) ∧
        (x.badRows.any (fun e => e.1 == ch && e.2.1 == b.row) = false →
          (t.col c).pendingRows = x.pendingRows ∧ (t.col c).badRows = x.badRows ++ [(ch, b.row, 0)]) ∧
        (∀ k, k ≠ c → t.col k = s.col k) ∧ t = { s with cols := t.cols, pmc := t.pmc })) ∧
    (∀ b, foundIn s c b = .bad → (usedFrames s).contains (b.addr / pageSize) = false →
      Claims.Answers (.scrubPosition c ch [b]) s (fun t =>
        (t.col c).eccUe = satAdd x.eccUe 1 ∧ b.addr ∈ (t.col c).poison ∧ (ch, b.row) ∈ (t.col c).pendingRows ∧
        t.hub.deadboltPending = s.hub.deadboltPending ∧ (∀ k, k ≠ c → t.col k = s.col k) ∧
        t = { s with cols := t.cols, pmc := t.pmc })) ∧
    (∀ b, foundIn s c b = .bad → (usedFrames s).contains (b.addr / pageSize) = true → s.hub.deadboltPending = false →
      (∀ m, (s.part m).snap.state ≠ .draining) →
      Claims.Answers (.scrubPosition c ch [b]) s (fun t =>
        t.hub.deadboltPending = true ∧ t.hub.dbCause = 1 ∧ t.hub.dbDie = BitVec.ofNat 8 c ∧
        t.hub.dbUnit = BitVec.ofNat 8 (0x40 + ch))))

/-- The keyway and what drains through it (R190, R204, R275 to R277, R281, R292 to R295, R306). A move is requested only for a MOVABLE
segment with another home that has room; a page copy leaves the source as it is; a host window takes a setting only in EMPTY, in range
and without overlap; a drained page is marked no more and its digest is kept; a page that cannot land ends the snapshot; an accepted
copy is logged; replay passes over outbound entries, and stops where data are missing or corrupt. -/
def Obligations.KeywayWorkIsDone : Prop := ∀ (s : State) (n : Nat) (fn : Fn),
  s.wf = true →
  let p := s.part n
  (∀ ch c j e pos, c < 20 → ch < 68 → (s.col c).chCopy = [e] → e.ch = ch → (s.col c).position ch = some pos →
    (∀ m, (s.part m).run.chDirty = []) → j < chanPages s →
    Claims.Answers (.keywayMoveCopyPage n (4096 + c * 68 + ch) j) s (fun t =>
      (∀ k, t.col k = if k = c then { s.col c with chCopy := [{ e with clean := j :: e.clean.erase j }] } else s.col k) ∧
      t = { s with cols := t.cols })) ∧
  (∀ o m pg f j, p.obj = some o → (∀ c, (s.col c).chCopy = []) → p.run.moves = [m] → m.seg < 4096 → m.frames[j]? = some f →
    let page := segBase o.segs m.seg / pageSize + j
    p.page m.own page = some pg → m.clean.contains page = false → pg.home = .loc → m.home = .neigh →
    place s (pg.frame * pageSize) = .dram (pg.frame * pageSize) → place s (f * pageSize) = .dram (f * pageSize) →
    pg.frame ≠ f → Claims.Answers (.keywayMoveCopyPage n m.seg j) s (fun t =>
      (∀ a, t.store.mem.read a = if f * pageSize ≤ a ∧ a < (f + 1) * pageSize then
        s.store.mem.read (pg.frame * pageSize + (a - f * pageSize)) else s.store.mem.read a) ∧
      t.store = { s.store with mem := t.store.mem } ∧
      (t.part n).run = { p.run with moves := [{ m with clean := page :: m.clean.erase page }] } ∧
      t = { s with parts := t.parts, store := t.store })) ∧
  (∀ part : BitVec 5, ∀ seg : BitVec 12, ∀ o g h fs, part.toNat = n → serving s = true → isPf fn = true → fnThere s fn = true →
    p.obj = some o → o.segs[seg.toNat]? = some g → o.own.length = 1 →
    (bit g.flags 1 = false → exec (.move fn part seg) s = .next s) ∧
    (bit g.flags 1 = true → p.run.moves = [] → homeNow s n 0 o seg.toNat = some (.loc, h) →
      (∀ y ∈ homeOpts s n 0 o g, y.home = .loc ∨ y.home = .host) → { cls := 4, home := .host, col := 0 } ∈ homeOpts s n 0 o g →
      (∀ y ∈ homeOpts s n 0 o g, y.home = .loc → (((lcolQuarters p 0 y.col).head?).map (· / 4)).getD 0 = h) →
      hostRoom s n (g.size / pageSize) = some fs → Claims.Answers (.move fn part seg) s (fun t =>
        (t.part n).run = { p.run with moves := [{ own := 0, seg := seg.toNat, home := .host, frames := fs, clean := [] }] } ∧
        t.kwy.busy = true ∧ t = { s with parts := t.parts, kwy := t.kwy }))) ∧
  (∀ v : Word, Claims.Serves s fn 0x300100 → n < 32 →
    let base := fld v 0 10
    let size := fld v 10 11
    let bad : Prop := bit v 31 = true ∧ (size = 0 ∨ 1024 < base + size ∨ winOverlap s n base size = true)
    (p.load.state = .empty → ¬ bad → Claims.Answers (.hostwinWrite fn n 0 v) s (fun t =>
      (t.part n).kwy = { p.kwy with winEn := bit v 31, winSize := BitVec.ofNat 11 size, winBase := BitVec.ofNat 10 base } ∧
      (∀ m, m ≠ n → t.part m = s.part m) ∧ t = { s with parts := t.parts })) ∧
    (p.load.state ≠ .empty ∨ bad → Claims.Answers (.hostwinWrite fn n 0 v) s (fun t =>
      t.kwy = { s.kwy with cfgErr := true } ∧ t = { s with kwy := t.kwy, out := t.out, pcie := t.pcie })) ∧
    (p.load.state = .empty → v.toNat % 4096 = 0 → Claims.Answers (.hostwinWrite fn n 1 v) s (fun t =>
      (t.part n).kwy = { p.kwy with haddr := hi32 p.kwy.haddr ++ v } ∧ t = { s with parts := t.parts }))) ∧
  (∀ col o own page y, p.obj = some o → p.snap.state = .draining → p.snap.reading = [(col, own, page, false), y] → y.1 ≠ col →
    p.snap.marked = [] → p.snap.pages = [] → Claims.NoneWaits s →
    (imageLost s n own (pageOff o page) pageSize = false → p.snap.dest = false →
      Claims.Answers (.snapshotDrainPage n col .landed) s (fun t =>
        (t.part n).snap = { p.snap with
          reading := [y], ranks := p.snap.ranks.map (fun r => if r.own == own then { r with
            digests := Tab.set 0 r.digests page (BitVec.ofNat 256 (beNat (sha256 (drainBytes s n own page false)))) } else r) } ∧
        (∀ m, m ≠ n → t.part m = s.part m))) ∧
    (∀ how, how ≠ .landed → Claims.Answers (.snapshotDrainPage n col how) s (fun t =>
      (t.part n).snap = { p.snap with
        state := .aborted, pages := [], marked := [], reading := [], ranks := [], ctxSent := false } ∧ t.store = s.store))) ∧
  (∀ c, p.recd.waiting = [c] → c.msg = none → c.op = none → c.units = 0 → (p.recd.logWr - p.recd.logRd).toNat < 2 ^ p.recd.log2.toNat →
    (p.recd.dataWr - p.recd.dataRd).toNat + (1 + (c.payload.length + 255) / 256) ≤ p.recd.dataSize.toNat * 4096 →
    Claims.Answers (.recordCopyAccepted n) s (fun t => (t.part n).recd = { p.recd with
        waiting := [], dataWr := p.recd.dataWr + BitVec.ofNat 32 (1 + (c.payload.length + 255) / 256),
        logWr := p.recd.logWr + 1, full := false } ∧ ∀ m, m ≠ n → t.part m = s.part m)) ∧
  (p.recd.replay = true → p.load.state = .running → p.recd.logRd ≠ p.recd.logWr →
    let e := fetchAt s (p.recd.logAddr p.recd.logRd) 32
    (leAt e 21 1 % 2 = 1 → Claims.Answers (.replayInject n) s (fun t =>
      (t.part n).recd = { p.recd with logRd := p.recd.logRd + 1 } ∧ t = { s with parts := t.parts })) ∧
    (leAt e 21 1 % 4 = 0 → ownEntry e = true → leAt e 20 1 ≠ 0x10 → leAt e 20 1 ≠ 0x20 → (s.dom n).active = true →
      Claims.Answers (.replayInject n) s (fun t =>
        (t.part n).recd = { p.recd with logRd := p.recd.logRd + 1, nodata := true } ∧ t.store = s.store ∧
        ∃ h, (t.dom n).holds = (s.dom n).holds ++ [h] ∧ h.release = false)))

/-! ### Links and messages -/

/-- At a flit boundary of a link that is UP exactly one flit leaves, and takes a position (R206, R207, R212): an idle flit when nothing
waits, the next flit of the message whose class has the turn, against one credit, or a flit that is to be sent again. ACK, TIME and
third copies enter the control stream when they are due (R19, R207, R208). The bits CTRL of an envelope are free values (log
entry 23), and what a TIME symbol carries beside R208's fields is the model's (log entry 99). -/
def Obligations.FlitsLeaveAtBoundaries : Prop := ∀ (s : State) (l : LinkId), s.wf = true → l.wf = true →
  let r := s.link l
  let now := s.tim.hall.toNat / 40
  let Sends (env : BitVec 64) (payload : List Byte) (P : LinkReg → Prop) : Prop := Claims.Answers (.flitSend l) s (fun t =>
    t.out.flits = s.out.flits ++ [(linkIdx l, { env := env, payload := payload, symErrs := 0 })] ∧
    (t.link l).txPos = r.txPos + 1 ∧ (t.link l).txFlit = now + 1 ∧ P (t.link l))
  (now < r.txFlit ∨ r.state ≠ 2 → exec (.flitSend l) s = .next s) ∧
  (r.state = 2 → r.txFlit ≤ now →
    (r.txq = [] → r.resend = [] → Sends (envelope s.free 6 0 0 false (List.replicate 256 0)) (List.replicate 256 0) (fun x =>
      x.buf = r.buf ∧ x.txq = [] ∧ x.credit1 = r.credit1 ∧ x.credit2 = r.credit2 ∧ x.credit3 = r.credit3)) ∧
    (∀ m c, r.txq = [m] → r.resend = [] → r.unacked = [] → m.cls = c → 1 ≤ c → c ≤ 3 → r.credit c ≠ 0 → r.buf.length < 1024 → r.wrrTurn = c →
      r.wrrCount < r.weight c →
      let payload := slice m.bytes (m.sent * 256) 256
      let env := envelope s.free c m.hops m.route false payload
      Sends env payload (fun x => x.credit c = r.credit c - 1 ∧ x.wrrCount = r.wrrCount + 1 ∧
        x.buf = r.buf ++ [{ pos := r.txPos, cls := c, env := env, payload := payload }] ∧
        x.txq = if m.sent + 1 = max 1 ((m.bytes.length + 255) / 256) then [] else [{ m with sent := m.sent + 1 }])) ∧
    (∀ f, r.txq = [] → r.resend = [f] → r.buf.length < 1024 → f.cls ≠ 0 → f ∈ r.buf →
      let env := envelope s.free f.cls (fld f.env 37 3) (fld f.env 24 12) true f.payload
      f.cls ≠ 6 → Sends env f.payload (fun x => x.resend = [] ∧ x.retx = satAdd r.retx 1 ∧
        x.buf = r.buf.erase f ++ [{ pos := r.txPos, cls := f.cls, env := env, payload := f.payload }]))) ∧
  (r.state = 2 → r.ackAt ≤ now → Claims.Answers (.ackSend l) s (fun t => t = { s with links := t.links } ∧
    ∀ k, k.wf = true → t.link k = if k = l then { r with
      ackAt := now + 64, freed1 := 0, freed2 := 0, freed3 := 0, freed4 := 0,
      sym := r.sym ++ [{ body := .ack r.rxPos [r.freed1, r.freed2, r.freed3, r.freed4], left := 0, copies := 2 }] } else s.link k)) ∧
  (r.state = 2 → 16000 ≤ (s.tim.hall - r.lastTime).toNat → Claims.Answers (.timeTransferSend l) s (fun t =>
    t = { s with links := t.links } ∧ ∀ k, k.wf = true → t.link k = if k = l then { r with
      lastTime := s.tim.hall, sym := r.sym ++ [{
        body := .time { hall := s.tim.hall, depth := s.tim.depth, state := s.tim.state, back := r.heard, fine := 0 },
        left := 0, copies := 2 }] } else s.link k)) ∧
  (r.state = 2 → Claims.Answers (.symbolThirdCopy l) s (fun t => t = { s with links := t.links } ∧
    ∀ k, k.wf = true → t.link k = if k = l then { r with
      sym := r.sym ++ (r.third.filter (fun e => decide (e.2 ≤ s.tim.hall))).map (fun e =>
        { body := e.1, left := 0, copies := 1 }),
      third := r.third.filter (fun e => !decide (e.2 ≤ s.tim.hall)) } else s.link k))

/-- A flit that FEC or its CRC rejects is named in a NAK and its place kept; a good one is handed on in the order of its class, and one
behind a missing flit waits until a retransmission, which stands for the oldest missing flit of its class, takes that flit's place (R206,
R207). An ACK frees what has arrived and no NAK names, and returns credits, up to 256 in a class; a copy of one that was taken does
nothing (R208); a NAK puts its flit up for sending again. That the class of a rejected flit is read from its envelope is the model's (log entry 53). -/
def Obligations.FlitsArriveInOrder : Prop := ∀ (s : State) (l : LinkId) (f : Flit), s.wf = true → l.wf = true →
  let r := s.link l
  r.state = 2 →
  let vc := fld f.env 41 3
  let retx := bit f.env 40
  let good : Prop := f.symErrs ≤ 15 ∧ fld f.env 0 24 = crc24 f.payload (fld f.env 24 40) ∧ vc ≠ 5 ∧ vc ≠ 7
  let flit : TxFlit := { pos := r.rxPos, cls := vc, env := f.env, payload := f.payload }
  let Becomes (c : Instr) (x : LinkReg) : Prop := Claims.Answers c s (fun t =>
    (∀ k, k.wf = true → t.link k = if k = l then x else s.link k) ∧ t = { s with links := t.links, pmc := t.pmc })
  (¬ good → vc ≤ 4 → retx = false → Becomes (.flitReceive l f) { r with
    rxPos := r.rxPos + 1, sym := r.sym ++ [{ body := .nak r.rxPos, left := 0, copies := 2 }],
    missing := r.missing ++ [(vc, r.rxPos)] }) ∧
  (good → vc = 6 → Becomes (.flitReceive l f) { r with rxPos := r.rxPos + 1, rxLast := s.tim.hall }) ∧
  (good → vc ≤ 4 → retx = false → (∃ x ∈ r.missing, x.1 = vc) → Becomes (.flitReceive l f) { r with
    rxPos := r.rxPos + 1, rxLast := s.tim.hall, rxHeld := r.rxHeld ++ [flit] }) ∧
  (∀ m, good → vc ≤ 4 → retx = false → (∀ x ∈ r.missing, x.1 ≠ vc) → fld f.env 24 12 = 0 → r.partials = [] →
    f.payload.length = 256 → leAt f.payload 7 1 % 64 = 0 → decodeMsg f.payload = some m → Becomes (.flitReceive l f) { r with
    rxPos := r.rxPos + 1, rxLast := s.tim.hall, rxMsgs := r.rxMsgs ++ [(vc, m)] }) ∧
  (∀ m p, good → vc ≤ 4 → retx = true → r.missing = [(vc, p)] → r.rxHeld = [] → fld f.env 24 12 = 0 → r.partials = [] →
    f.payload.length = 256 → leAt f.payload 7 1 % 64 = 0 → decodeMsg f.payload = some m → Becomes (.flitReceive l f) { r with
    rxPos := r.rxPos + 1, rxLast := s.tim.hall, missing := [], rxMsgs := r.rxMsgs ++ [(vc, m)] }) ∧
  (∀ p q, ¬ good → vc ≤ 4 → retx = true → r.missing = [(vc, p), (vc, q)] → Becomes (.flitReceive l f) { r with
    rxPos := r.rxPos + 1, sym := r.sym ++ [{ body := .nak r.rxPos, left := 0, copies := 2 }],
    missing := [(vc, q), (vc, p)] }) ∧
  (∀ (pos : BitVec 16) (credits : List Nat),
    let past (p : BitVec 16) : Prop := 0 < (pos - p).toNat ∧ (pos - p).toNat ≤ 32768
    Claims.Answers (.ackReceive l pos ⟨credits, Claims.firstCopy⟩) s (fun t =>
      (∀ x, x ∈ (t.link l).buf ↔ x ∈ r.buf ∧ (¬ past x.pos ∨ x ∈ r.resend)) ∧ (t.link l).resend = r.resend ∧
      (t.link l).credit1 = min 256 (r.credit1 + (credits[0]?).getD 0) ∧
      (t.link l).credit2 = min 256 (r.credit2 + (credits[1]?).getD 0) ∧
      (t.link l).credit3 = min 256 (r.credit3 + (credits[2]?).getD 0) ∧
      (t.link l).credit4 = min 256 (r.credit4 + (credits[3]?).getD 0) ∧ t = { s with links := t.links }) ∧
    (∀ k, r.takesCopy (.ack pos credits) k = false →
      exec (.ackReceive l pos ⟨credits, k⟩) s = .next (Claims.noted s l (.ack pos credits) k))) ∧
  (∀ (pos : BitVec 16) (x : TxFlit), r.buf.find? (fun y => y.pos == pos) = some x → r.resend.contains x = false → x.cls ≠ 0 →
    Becomes (.nakReceive l ⟨pos, Claims.firstCopy⟩) { r.noteCopy (.nak pos) Claims.firstCopy s.tim.hall with
      resend := r.resend ++ [x] })

/-- Links train, lose lanes and fail (R222, R223, R225, R365, R375, R376): at the end of a link die's adaptation its links train; one
that has trained is UP with full credits; its first failed lane gives way to the spare, its second, 1 µs without a good flit, or DISABLE
makes it FAILED, which sets the LINK reason for replacement (R319); weights take effect from the next round, and none may be zero. -/
def Obligations.LinksTrainAndFail : Prop := ∀ (s : State) (l : LinkId), s.wf = true → l.wf = true →
  let r := s.link l
  let Fails (c : Instr) : Prop := Claims.Answers c s (fun t => (t.link l).state = 3 ∧ (t.link l).txq = [] ∧ (t.link l).buf = [] ∧
    (t.link l).dataOk = false ∧ bit t.hub.repl 8 = true ∧ t.parts = s.parts)
  (∀ lane < 4, r.state = 2 → r.spareIn = false → r.spareBad = false →
    ∀ c ∈ [(Instr.laneFailure l lane, r), (.laneSymbolReceive l ⟨lane, Claims.firstCopy⟩, r.noteCopy (.lane lane) Claims.firstCopy s.tim.hall)],
    Claims.Answers c.1 s (fun t => t.link l = { c.2 with
      spareIn := true, spareFor := BitVec.ofNat 2 lane,
      sym := r.sym ++ [{ body := .lane lane, left := 0, copies := 2 }] } ∧ t.parts = s.parts)) ∧
  (r.state = 2 → r.spareIn = false → r.spareBad = false → Claims.Answers (.laneFailure l 4) s (fun t =>
    t.link l = { r with spareBad := true } ∧ t = { s with links := t.links })) ∧
  (∀ lane < 5, r.state = 2 → r.spareIn = true → r.spareFor.toNat ≠ lane → r.txq = [] → r.unacked = [] →
    Fails (.laneFailure l lane) ∧ Fails (.laneSymbolReceive l ⟨lane, Claims.firstCopy⟩)) ∧
  (r.state = 2 → 16000 ≤ (s.tim.hall - r.rxLast).toNat → r.txq = [] → r.unacked = [] → Fails (.linkSilenceTimeout l)) ∧
  (∀ (fn : Fn) (v : Word), Claims.Serves s fn 0x4001008 → s.fuses.linkPresent.getLsbD l.die = true →
    (bit v 31 = true → r.state ≠ 3 → r.txq = [] → r.unacked = [] → Fails (.linkDisable fn l v)) ∧
    (bit v 31 = false → Claims.Answers (.linkDisable fn l v) s (fun t => t.link l = { r with disable := false } ∧
      t = { s with links := t.links }))) ∧
  (∀ (fn : Fn) (v : Word), Claims.Serves s fn 0x400100C → s.fuses.linkPresent.getLsbD l.die = true →
    let zero : Prop := fld v 0 8 = 0 ∨ fld v 8 8 = 0 ∨ fld v 16 8 = 0
    (¬ zero → Claims.Answers (.wrrWrite fn l v) s (fun t => t.link l = { r with
      w1 := BitVec.ofNat 8 (fld v 0 8), w2 := BitVec.ofNat 8 (fld v 8 8), w3 := BitVec.ofNat 8 (fld v 16 8) } ∧
      t = { s with links := t.links })) ∧
    (zero → Claims.Answers (.wrrWrite fn l v) s (fun t => t.link l = { r with err := r.err ||| 1 } ∧
      t = { s with links := t.links, out := t.out, pcie := t.pcie }))) ∧
  (∀ (peer : BitVec 16) (pdie : BitVec 2) (plink : BitVec 5) (delay : BitVec 16), s.hub.stopped = false →
    s.fuses.linkPresent.getLsbD l.die = true → (s.die l.die).calDone = true → r.disable = false → r.state = 1 ∨ r.state = 3 →
    Claims.Answers (.linkTrained l peer pdie plink delay) s (fun t =>
      let x := t.link l
      x.state = 2 ∧ x.peerValid = true ∧ x.pdev = peer ∧ x.pdie = pdie ∧ x.plink = plink ∧ x.delay = delay ∧ x.spareIn = false ∧
      x.txPos = 0 ∧ x.rxPos = 0 ∧ x.credit1 = 256 ∧ x.credit2 = 256 ∧ x.credit3 = 256 ∧ x.credit4 = 256 ∧
      x.rxLast = s.tim.hall ∧ (r.state = 3 → x.dataOk = false) ∧ (r.state = 1 → x.dataOk = r.dataOk) ∧
      t.parts = s.parts ∧ t.doms = s.doms ∧ t.store = s.store)) ∧
  (∀ die < 4, s.hub.stopped = false → s.fuses.linkPresent.getLsbD die = true → (s.die die).calDone = false →
    (s.link ⟨die, 0⟩).state ≠ 3 → Claims.Answers (.serdesAdaptationEnd die) s (fun t =>
      t = { s with dies := t.dies, links := t.links, tim := t.tim } ∧
      (∀ d, t.die d = if d = die then { s.die die with calDone := true } else s.die d) ∧
      (∀ k, k.wf = true → t.link k = if k.die = die ∧ (s.link k).disable = false then { s.link k with state := 1 } else s.link k) ∧
      t.tim.hall = s.tim.hall ∧ t.tim.state = s.tim.state))

/-- A message for partition `n` is the one that waits on link `l` in class `cls`, was not accepted before (R210), and nothing else waits
on any link. -/
def Claims.Waits (s : State) (l : LinkId) (cls n : Nat) (m : Msg) : Prop :=
  s.wf = true ∧ l.wf = true ∧ (s.link l).rxMsgs = [(cls, m)] ∧ m.dstPart.toNat = n ∧ cls ≤ 4 ∧
  seqSeen s.hub m.srcDev.toNat cls m.seq.toNat = false ∧ Claims.NoneWaits s

/-- It may land: its partition holds an object, its epoch is the binding epoch and there is room (R160, R161), the window it names is
exported (R198), and the partition neither records nor replays nor holds transfers back for their copies. -/
def Claims.MayLand (s : State) (n : Nat) (m : Msg) (o : Obj) : Prop :=
  (s.part n).obj = some o ∧ judge s n m = .deliver ∧ accessOk o m = true ∧ (s.part n).recd.fp = false ∧
  (s.part n).recd.replay = false ∧ (s.part n).recd.waiting = [] ∧ s.hub.debugMode = false

/-- The message has been taken: it waits no more, and its SEQ is remembered. No other partition has changed. -/
def Claims.Taken (s : State) (l : LinkId) (cls n : Nat) (m : Msg) (t : State) : Prop :=
  (t.link l).rxMsgs = [] ∧ seqSeen t.hub m.srcDev.toNat cls m.seq.toNat = true ∧ (∀ k, k ≠ n → t.part k = s.part k) ∧
  t.tim = s.tim ∧ t.doms = s.doms

/-- The bytes `bs` have been written at local address `x` and nothing else in any memory. -/
def Claims.Stored (s : State) (x : Nat) (bs : List Byte) (t : State) : Prop :=
  t.store = { s.store with mem := t.store.mem } ∧ ∀ b, t.store.mem.read b =
    if x ≤ b ∧ b < x + bs.length then (bs[b - x]?).getD 0 else s.store.mem.read b

/-- The `len` bytes from partition-logical address `a` of hosted rank `own` lie from local address `x` on in DRAM, and neither a move,
a snapshot nor the copy of a channel is in progress. -/
def Claims.Plain (s : State) (n own a x len : Nat) : Prop :=
  (∀ i < len, (s.part n).reach own (a + i) = .loc (x + i) ∧ place s (x + i) = .dram (x + i)) ∧
  (s.part n).run.moves = [] ∧ (s.part n).snap.state ≠ .draining ∧ ∀ c, (s.col c).chCopy = []

/-- What messages do that carry bytes (R159, R199, R200, R239, R423, R425): the payload of a write lands and counts for its (source,
tag); a reply brings the bytes its operation waits for, and the old value of an atomic; a collective delivery lands with its record.
A repeat of a SEQ is dropped (R210). -/
def Obligations.BytesLand : Prop := ∀ (s : State) (l : LinkId) (cls n : Nat) (m : Msg) (o : Obj) (x : Nat),
  Claims.Waits s l cls n m → Claims.MayLand s n m o →
  let p := s.part n
  let own := ownOf o s.hub.devno.toNat n m.dstOwn.toNat
  let ident := BitVec.ofNat 16 (fld m.arg 16 16)
  (m.kind = .write → p.run.held = [] → Claims.Plain s n own m.addr.toNat x m.payload.length →
    Claims.Answers (.msgWrite l m) s (fun t => Claims.Taken s l cls n m t ∧ Claims.Stored s x m.payload t ∧
      let e := p.run.tag m.srcDev m.tag
      (t.part n).run = p.run.setTag { e with landed := e.landed + m.payload.length })) ∧
  (∀ q op, m.kind = .readReply → p.run.req ident = some q → q.op ≠ keywayOp → q.op ≠ receiptOp → p.run.outbox = [] →
    op ∈ p.run.ops → (∀ y ∈ p.run.ops, y.id = q.op → y = op) → (∀ y ∈ p.run.ops, y.coll = none) →
    Claims.Answers (.msgReadReply l m) s (fun t => Claims.Taken s l cls n m t ∧ t.store = s.store ∧
      (∀ y ∈ (t.part n).run.reqs, y.ident ≠ ident) ∧
      (t.part n).run.ops = p.run.ops.map (fun y => if y.id == q.op then
        { y with want := y.want - m.payload.length } else y) ∧
      (t.part n).run.remoteBuf =
        (q.op, q.own + (if opc op.word = 0x79 then 8 else 0), q.addr, m.payload) :: p.run.remoteBuf)) ∧
  (∀ q, m.kind = .atomicReply → p.run.req ident = some q →
    Claims.Answers (.msgAtomicReply l m) s (fun t => Claims.Taken s l cls n m t ∧ t.store = s.store ∧
      (t.part n).run.ops = p.run.ops.map (fun y => if y.id == q.op then
        { y with want := y.want - 8, pend := y.pend ++ [.mem q.own q.addr (slice m.payload 0 8)] } else y))) ∧
  (m.kind = .clx → fld m.arg 24 8 ≠ 0x73 → p.run.ops = [] → p.run.clxWait = [] →
    (firstOut p own plainEngine [(m.addr.toNat, m.payload.length)]).isNone = true →
    Claims.Plain s n own m.addr.toNat x m.payload.length →
    Claims.Answers (.msgClx l m) s (fun t => Claims.Taken s l cls n m t ∧ Claims.Stored s x m.payload t ∧
      (t.part n).run.clxIn = p.run.clxIn ++ [{
        own := own, tag := m.tag, src := m.srcDev, srcPart := m.srcPart, srcOwn := m.srcOwn, addr := m.addr.toNat,
        len := m.payload.length, slot := fld m.arg 16 8, tree := fld m.arg 8 1, phase := fld m.arg 0 8 }]))

/-- A message that has been accepted before (R210) is dropped, one of an earlier epoch is stale and only counted and logged (R161,
R162), and one of a later epoch waits (R161, R213). -/
def Obligations.MessagesThatDoNotLand : Prop := ∀ (s : State) (l : LinkId) (cls n : Nat) (m : Msg) (o : Obj),
  s.wf = true → l.wf = true → (s.link l).rxMsgs = [(cls, m)] → m.dstPart.toNat = n → 1 ≤ cls → cls ≤ 4 → m.kind ≠ .mgmt →
  Claims.NoneWaits s → (s.part n).obj = some o →
  let age := ((s.part n).run.bindingEpoch - m.epoch).toNat
  let c : Instr := match m.kind with
    | .write => .msgWrite l m
    | .readReq => .msgReadRequest l m
    | .readReply => .msgReadReply l m
    | .signal => .msgSignal l m
    | .ack => .msgAcknowledgement l m
    | .atomic => .msgAtomic l m
    | .atomicReply => .msgAtomicReply l m
    | .refusal => .msgRefusal l m
    | .clx => .msgClx l m
    | .mgmt => .msgManagement l m
  (seqSeen s.hub m.srcDev.toNat cls m.seq.toNat = true → Claims.Answers c s (fun t =>
    (t.link l).rxMsgs = [] ∧ t = { s with links := t.links })) ∧
  (seqSeen s.hub m.srcDev.toNat cls m.seq.toNat = false →
    (age ≠ 0 → age < 2 ^ 31 → Claims.Answers c s (fun t => (t.link l).rxMsgs = [] ∧ t.store = s.store ∧
      (t.part n) = { s.part n with sync := { (s.part n).sync with stale := satAdd (s.part n).sync.stale 1 } } ∧
      t.hub.staleWr = s.hub.staleWr + 1 ∧ t.queues = s.queues ∧ t.doms = s.doms)) ∧
    (2 ^ 31 ≤ age → Claims.Answers c s (fun t => (t.link l).rxMsgs = [] ∧ (t.link l).blocked = [(cls, m)] ∧
      t = { s with links := t.links })))

/-- What messages do that ask or tell (R158, R159, R198, R200, R211, R423): a read request is answered with the bytes, an atomic changes
one word and is answered with the old value, a signal whose bytes have landed adds its AMOUNT to its latch and one whose bytes have not
is held, an acknowledgement adds 1, a refusal is a WARD fault in the stream that sent the message, and a management message accesses
the register map (its format is the model's: log entry 74). -/
def Obligations.RequestsAndSignalsLand : Prop := ∀ (s : State) (l : LinkId) (cls n : Nat) (m : Msg) (o : Obj) (x : Nat),
  Claims.Waits s l cls n m →
  let p := s.part n
  let own := ownOf o s.hub.devno.toNat n m.dstOwn.toNat
  let a := m.addr.toNat
  (Claims.MayLand s n m o →
    (∀ way, (m.kind = .readReq ∨ m.kind = .atomic) → m.srcDev ≠ s.hub.devno →
      wayBack s o m.srcDev.toNat m.srcPart.toNat = some way → linkOut (s.link way.link) = false → 1 ≤ cls → way.link.wf = true →
      let reply (kind : MsgKind) (bytes : Nat) (payload : List Byte) : TxMsg := {
        cls := cls, part := n, ts := 0, route := way.route, sent := 0, transit := false, hops := 0, alt := way.alt,
        bytes := encodeMsg {
          dstDev := m.srcDev, srcDev := m.dstDev, dstPart := m.srcPart, srcPart := m.dstPart, dstOwn := m.srcOwn,
          srcOwn := m.dstOwn, kind := kind, epoch := p.run.bindingEpoch, tag := m.tag,
          seq := BitVec.ofNat 16 (nextSeq s.hub m.srcDev.toNat cls), addr := m.addr, bytes := BitVec.ofNat 32 bytes,
          arg := m.arg, payload := payload } }
      let k := fld m.arg 0 16
      let w := if fld m.arg 0 2 = 2 then 8 else 4
      let old := readLNat s n own a w
      (m.kind = .readReq → Claims.Answers (.msgReadRequest l m) s (fun t => Claims.Taken s l cls n m t ∧ t.store = s.store ∧
        t.parts = s.parts ∧
        (t.link way.link).txq = (s.link way.link).txq ++ [reply .readReply k (readL s n own a k)])) ∧
      (m.kind = .atomic → Claims.Plain s n own a x w → Claims.Answers (.msgAtomic l m) s (fun t =>
        Claims.Taken s l cls n m t ∧
        Claims.Stored s x (leBytes w (atomicNew (fld m.arg 8 3) (fld m.arg 0 2) old (leAt m.payload 0 w)
          (leAt m.payload 8 w))) t ∧
        (t.link way.link).txq = (s.link way.link).txq ++ [reply .atomicReply 8 (leBytes 8 old)]))) ∧
    (∀ lt, m.kind = .signal → p.run.held = [] → p.latchOf own (fld m.addr 0 19) = some lt → bit m.arg 3 = false →
      let e := p.run.tag m.srcDev m.tag
      let amount := fld m.arg 0 3 + 1
      (e.consumed + m.bytes.toNat ≤ e.landed → p.run.pairs = [] → (s.latch lt).toNat + amount < 2 ^ 64 →
        Claims.Answers (.msgSignal l m) s (fun t => Claims.Taken s l cls n m t ∧
          t.store = { s.store with latch := Tab.set 0 s.store.latch lt (s.latch lt + BitVec.ofNat 64 amount) } ∧
          (t.part n).run.held = [])) ∧
      (e.landed < e.consumed + m.bytes.toNat → Claims.Answers (.msgSignal l m) s (fun t =>
        Claims.Taken s l cls n m t ∧ t.store = s.store ∧ (t.part n).run.held = [{
          src := m.srcDev, tag := m.tag, msg := m, cls := cls, arrived := s.tim.hall, dead := false }]))) ∧
    (m.kind = .ack → p.hasLatch (fld m.addr 0 19) = true → p.run.pairs = [] →
      (s.latch (fld m.addr 0 19)).toNat + 1 < 2 ^ 64 → Claims.Answers (.msgAcknowledgement l m) s (fun t =>
        Claims.Taken s l cls n m t ∧ t.parts = s.parts ∧ t.store = { s.store with
          latch := Tab.set 0 s.store.latch (fld m.addr 0 19) (s.latch (fld m.addr 0 19) + 1) })) ∧
    (∀ e, m.kind = .refusal → p.run.sent.find? (fun y => kindCode y.kind == fld m.arg 24 8 &&
        y.cls == cls && y.seq == BitVec.ofNat 16 (fld m.arg 0 16) && y.dst == m.srcDev) = some e → e.sid.part = n → e.sid ≠ hardware n →
      Claims.Answers (.msgRefusal l m) s (fun t => (t.link l).rxMsgs = [] ∧ (t.part n).load.state = .faulted ∧
        (p.pfault.valid = false → (t.part n).pfault.valid = true ∧ (t.part n).pfault.code = 3 ∧
          (t.part n).pfault.qpos = e.qpos ∧ (t.part n).pfault.insn = e.word ∧ (t.part n).pfault.addr = m.addr) ∧
        ∀ k, k ≠ n → t.part k = s.part k))) ∧
  (∀ off, m.kind = .mgmt → m.arg = 0 → place s (m.addr.toNat % 2 ^ 48) = .reg off → m.payload.length = 4 →
    ∃ u, u = { s with links := u.links, hub := u.hub } ∧ (u.link l).rxMsgs = [] ∧
      seqSeen u.hub m.srcDev.toNat cls m.seq.toNat = true ∧ { u.hub with rxSeq := s.hub.rxSeq } = s.hub ∧
      exec (.msgManagement l m) s = .next ((Act.all [busWrite .peer off (BitVec.ofNat 32 (leNat m.payload)),
        freeCredits l cls 1]).run u))

/-! ### The register map -/

/-- Settings that the host writes (R94, R95, R278, R308, R319, R329): each is taken whole or refused whole, a refusal sets its error
bit and keeps the register. Debug mode changes, and a partition's settings are written, only while partitions are EMPTY. That a write
of HUB_DEBUG is a write to MODE whatever its value is the model's reading (log entry 112). -/
def Obligations.SettingsAreGuarded : Prop := ∀ (s : State) (fn : Fn) (v : Word), s.wf = true →
  (Claims.Serves s fn 0x80 →
    let may : Prop := s.fuses.debugOff = false ∧ ∀ n < 32, (s.part n).load.state = .empty
    (may → exec (.debugModeWrite fn v) s =
      .next { s with hub := { s.hub with debugMode := bit v 0, debugRefused := s.hub.debugRefused && !bit v 1 } }) ∧
    (¬ may → exec (.debugModeWrite fn v) s = .next { s with hub := { s.hub with debugRefused := true } })) ∧
  (∀ n < 32, let p := s.part n
    let Becomes (c : Instr) (x : Part) : Prop := Claims.Answers c s (fun t => t = { s with parts := t.parts } ∧
      ∀ m, t.part m = if m = n then x else s.part m)
    (Claims.Serves s fn 0x3000 →
      (bit v 31 = true → Becomes (.pfaultClear fn n v) { p with pfault := { p.pfault with valid := false, count := 0 } }) ∧
      (bit v 31 = false → exec (.pfaultClear fn n v) s = .next s)) ∧
    (mayPart fn n = true → reaches s fn 0x8000 = true →
      let Rec (off : Nat) (x : RecReg) : Prop := Becomes (.recConfigWrite fn n off v) { p with recd := x }
      let refused : RecReg := { p.recd with cfgErr := true }
      let size : Prop := 10 ≤ fld v 16 5 ∧ fld v 16 5 ≤ 26
      let ok : Prop := (bit v 31 = true → bit v 30 = false) ∧ (bit v 31 = true ∨ bit v 30 = true ∨ bit v 28 = true → size)
      (p.load.state = .empty →
        (ok → Rec 0 { p.recd with
          fp := bit v 31, replay := bit v 30, stopmm := bit v 29, trace := bit v 28, log2 := BitVec.ofNat 5 (fld v 16 5) }) ∧
        (¬ ok → Rec 0 refused) ∧
        (v.toNat % 4096 = 0 → Rec 8 { p.recd with logBase := hi32 p.recd.logBase ++ v } ∧
          Rec 0x10 { p.recd with dataBase := hi32 p.recd.dataBase ++ v }) ∧
        (v.toNat % 4096 ≠ 0 → Rec 8 refused ∧ Rec 0x10 refused) ∧
        Rec 0xC { p.recd with logBase := v ++ lo32 p.recd.logBase } ∧
        Rec 0x14 { p.recd with dataBase := v ++ lo32 p.recd.dataBase } ∧
        (1 ≤ v.toNat ∧ v.toNat ≤ 1048576 → Rec 0x18 { p.recd with dataSize := v }) ∧
        (¬ (1 ≤ v.toNat ∧ v.toNat ≤ 1048576) → Rec 0x18 refused)) ∧
      (p.load.state ≠ .empty → ∀ off ∈ [0, 8, 0xC, 0x10, 0x14, 0x18], Rec off refused) ∧
      Rec 0x1C { p.recd with winFirstNext := v } ∧ Rec 0x20 { p.recd with winLastNext := v } ∧
      (p.recd.fp = false → Rec 0x24 { p.recd with logWr := v } ∧ Rec 0x2C { p.recd with dataWr := v }) ∧
      (p.recd.replay = false → Rec 0x28 { p.recd with logRd := v } ∧ Rec 0x30 { p.recd with dataRd := v }) ∧
      Rec 4 { p.recd with
        cfgErr := p.recd.cfgErr && !bit v 31, ovf := p.recd.ovf && !bit v 30, mm := p.recd.mm && !bit v 29,
        corrupt := p.recd.corrupt && !bit v 27, nodata := p.recd.nodata && !bit v 26, endd := p.recd.endd && !bit v 25 }) ∧
    (Claims.Serves s fn 0xA000 →
      let Cfg (off : Nat) (x : PartCfg) : Prop := Becomes (.partitionConfigWrite fn n off v) { p with cfg := x }
      let refused : PartCfg := { p.cfg with cfgErr := true }
      let others : List Nat := (List.range 32).filter (fun m => m != n && (s.part m).cfg.en)
      let shared (mask : BitVec 80) : Prop := ∃ m ∈ others, (s.part m).cfg.qmask &&& mask ≠ 0
      let total (cap : BitVec 16) : Nat := (others.map (fun m => (s.part m).cfg.cap.toNat)).sum + cap.toNat
      let capOk (cap : BitVec 16) : Prop := 50 ≤ cap.toNat ∧ cap.toNat ≤ 3600
      let down (q : Nat) : Prop := (s.col (q / 4)).failed = true ∨ (s.col (q / 4)).qfail.getLsbD (q % 4) = true
      let cap := v.setWidth 16
      let mask := BitVec.ofNat 80 (p.cfg.qmask.toNat / 2 ^ 32 * 2 ^ 32 + v.toNat)
      (p.load.state = .empty → capOk p.cfg.cap →
        (bit v 31 = false → Cfg 0 { p.cfg with en := false, vfown := bit v 30 }) ∧
        (bit v 31 = true → ¬ shared p.cfg.qmask → total p.cfg.cap ≤ 3600 → Cfg 0 { p.cfg with en := true, vfown := bit v 30 }) ∧
        (bit v 31 = true → shared p.cfg.qmask ∨ 3600 < total p.cfg.cap → Cfg 0 refused) ∧
        (p.cfg.en = false → (∀ q < 32, bit v q = true → ¬ down q) → Cfg 8 { p.cfg with qmask := mask }) ∧
        ((∃ q < 32, bit v q = true ∧ down q) → Cfg 8 refused) ∧
        (p.cfg.en = true → shared mask → Cfg 8 refused)) ∧
      (p.load.state = .empty → p.cfg.en = false → capOk cap → Cfg 0x14 { p.cfg with cap := cap }) ∧
      (p.load.state = .empty → p.cfg.en = true → capOk cap → ¬ shared p.cfg.qmask → total cap ≤ 3600 →
        Cfg 0x14 { p.cfg with cap := cap }) ∧
      (¬ capOk cap ∨ (p.cfg.en = true ∧ 3600 < total cap) → Cfg 0x14 refused) ∧
      (p.load.state ≠ .empty → ∀ off ∈ [0, 8, 0xC, 0x10, 0x14], Cfg off refused) ∧
      (bit v 15 = true → Cfg 4 { p.cfg with cfgErr := false }))) ∧
  (Claims.Serves s fn 0x1010000 → ∀ c < 20,
    let x := s.col c
    Claims.Answers (.shadowRateWrite fn c v) s (fun t => t = { s with cols := t.cols } ∧ ∀ k, t.col k = if k = c then
      (if fld v 0 5 ≤ 16 then { x with rate := v.setWidth 5 } else { x with cfgErr := true }) else s.col k)) ∧
  (Claims.Serves s fn 0x64 →
    let bad : Prop := fld v 0 2 = 3 ∨ 4 < fld v 2 3 ∨ 96 < fld v 5 7
    (bad → exec (.replThrWrite fn v) s = .next s) ∧
    (¬ bad → Claims.Answers (.replThrWrite fn v) s (fun t =>
      t.hub.ceMax = BitVec.ofNat 12 (fld v 12 12) ∧ t.hub.laneMax = BitVec.ofNat 7 (fld v 5 7) ∧
      t.hub.chMin = BitVec.ofNat 3 (fld v 2 3) ∧ t.hub.cellMin = BitVec.ofNat 2 (fld v 0 2) ∧
      (∀ i, bit s.hub.repl i = true → bit t.hub.repl i = true) ∧
      (bit t.hub.repl 4 = true ↔ bit s.hub.repl 4 = true ∨ ∃ c < 20, (freeChannels (s.col c)).length < fld v 2 3) ∧
      (bit t.hub.repl 1 = true ↔ bit s.hub.repl 1 = true ∨
        fld v 5 7 < (allLinks.filter (fun l => (s.link l).spareIn)).length) ∧
      t.tim = s.tim ∧ t.parts = s.parts ∧ t.cols = s.cols ∧ t.links = s.links)))

/-- A doorbell of the ward's owner moves TAIL by R168 and wakes a queue that waited; any other TAIL sets DBERR, and another function's
write is counted in LKREJ (R167, R168, R331, R387). A stream whose queue was empty reaches its head at the doorbell's PSC (R27). -/
def Obligations.DoorbellsMoveTail : Prop := ∀ (s : State) (fn : Fn) (q : Nat) (tail : Word),
  s.wf = true → q < 65536 → isPf fn = true → reaches s fn 0x900010 = true →
  let x := s.queue q
  let p := s.part x.part.toNat
  let ok : Prop := (tail - x.tail).toNat < 2 ^ 31 ∧ (tail - x.head).toNat ≤ 2 ^ x.log2.toNat
  (x.en = false → exec (.doorbell fn q tail) s = .next s) ∧
  (x.en = true → p.cfg.vfown = true → Claims.Answers (.doorbell fn q tail) s (fun t => t = { s with parts := t.parts } ∧
    ∀ m, t.part m = if m = x.part.toNat then { p with cfg := { p.cfg with lkrej := satAdd p.cfg.lkrej 1 } } else s.part m)) ∧
  (x.en = true → p.cfg.vfown = false →
    (ok → Claims.Answers (.doorbell fn q tail) s (fun t => t = { s with parts := t.parts, queues := t.queues, pmc := t.pmc } ∧
      (∀ m, t.part m = if m = x.part.toNat ∧ x.head = x.tail then { p with run := { p.run with streams := p.run.streams.map (fun y =>
        if y.queue == q then { y with reached := (s.dom x.part.toNat).psc } else y) } } else s.part m) ∧
      t.pmc = s.pmc.add (ctrHub 0x14) 1 ∧ ∀ k, t.queue k = if k = q then { x with
        tail := tail, res := x.res && decide (tail.toNat ≤ 2 ^ x.log2.toNat),
        wait := if x.wait = 1 ∧ tail ≠ x.head then 0 else x.wait } else s.queue k)) ∧
    (¬ ok → Claims.Answers (.doorbell fn q tail) s (fun t =>
      t = { s with queues := t.queues, pmc := t.pmc, flt := t.flt, free := t.free, out := t.out, pcie := t.pcie } ∧
      ∀ k, t.queue k = if k = q then { x with dberr := true } else s.queue k))) ∧
  (∀ n j, reaches s (.vf n) 0x900010 = true → j < 65536 →
    (∀ k, bellQueue s n j = some k → (s.queue k).en = true → (s.queue k).part.toNat = n → p.cfg.vfown = true → k = q → ok →
      Claims.Answers (.doorbell (.vf n) j tail) s (fun t => (t.queue q).tail = tail)) ∧
    (bellQueue s n j = none → Claims.Answers (.doorbell (.vf n) j tail) s (fun t => t.queues = s.queues ∧
      (t.part n).cfg.lkrej = satAdd (s.part n).cfg.lkrej 1)))

/-- Settings of the host interface, the counters' filters and the flight recorder (R321, R356, R385, R388), and the register map as a
whole (R5, R36, R98, R401): a register's command and a write at its offset are one thing, a write to a read-only register and one that
is not 4-byte aligned do nothing, and W1C bits clear. -/
def Obligations.RegisterMapIsOne : Prop := ∀ (s : State) (fn : Fn) (v : Word), s.wf = true →
  (Claims.Serves s fn 0x400018 →
    let bad : Prop := bit v 31 = true ∧ (fld v 0 5 < 4 ∨ 16 < fld v 0 5)
    (bad → exec (.cperCfgWrite fn v) s = .next s) ∧
    (¬ bad → exec (.cperCfgWrite fn v) s =
      .next { s with flt := { s.flt with cperEn := bit v 31, cperLog2 := BitVec.ofNat 5 (fld v 0 5) } })) ∧
  (Claims.Serves s fn 0x90 →
    exec (.apertureBaseWrite fn true v) s = .next { s with hub := { s.hub with aper := v ++ lo32 s.hub.aper } } ∧
    (v = 0 → exec (.apertureBaseWrite fn false v) s = .next { s with hub := { s.hub with aper := hi32 s.hub.aper ++ v } }) ∧
    (v ≠ 0 → exec (.apertureBaseWrite fn false v) s = .next s)) ∧
  (Claims.Serves s fn 0x500800 → ∀ b < 24, (∀ d < 4, b = 20 + d → s.fuses.linkPresent.getLsbD d = true) →
    let f := Tab.get {} s.pmc.written b
    let Wrote (off : Nat) (x : Filter) : Prop := exec (.filterSetWrite fn b off v) s =
      .next { s with pmc := { s.pmc with written := Tab.set {} s.pmc.written b x } }
    Wrote 0 { f with fctl := v &&& 0xE01F0FFF } ∧ Wrote 4 { f with pmask := v } ∧
    Wrote 8 { f with alo := hi32 f.alo ++ v } ∧ Wrote 0xC { f with alo := v ++ lo32 f.alo } ∧
    Wrote 0x10 { f with ahi := hi32 f.ahi ++ v } ∧ Wrote 0x14 { f with ahi := v ++ lo32 f.ahi }) ∧
  (s.hub.stopped = false → ∀ b < 24, exec (.filterSetApply b) s = .next { s with pmc := { s.pmc with
    filters := Tab.set {} s.pmc.filters b (Tab.get {} s.pmc.written b) } }) ∧
  (∀ k, reaches s fn 0x6000000 = true → k < (if isPf fn = true then 64 else 8) →
    let i := fnIdx fn * 64 + k
    (i ∈ s.pcie.unmasked → exec (.msixUnmask fn k) s = .next s) ∧
    (i ∉ s.pcie.unmasked → i ∉ s.pcie.pendingBits → exec (.msixUnmask fn k) s =
      .next { s with pcie := { s.pcie with unmasked := s.pcie.unmasked ++ [i] } }) ∧
    (i ∉ s.pcie.unmasked → i ∈ s.pcie.pendingBits → exec (.msixUnmask fn k) s = .next { s with
      pcie := { s.pcie with
        unmasked := s.pcie.unmasked ++ [i], pendingBits := s.pcie.pendingBits.filter (fun e => e != i) },
      out := { s.out with irqs := s.out.irqs ++ [(fnIdx fn, k)] } })) ∧
  (s.hub.ready = true → Claims.Serves s fn 0 →
    exec (.registerWrite fn 0x80 v) s = exec (.debugModeWrite fn v) s ∧
    exec (.registerWrite fn 0x64 v) s = exec (.replThrWrite fn v) s ∧
    exec (.registerWrite fn 0x100018 v) s = exec (.holdLeadWrite fn v) s ∧
    exec (.registerWrite fn 0x10001C v) s = exec (.holdMaxWrite fn v) s ∧
    exec (.registerWrite fn 0x400018 v) s = exec (.cperCfgWrite fn v) s ∧
    exec (.registerWrite fn 0x98 v) s =
      .next { s with hub := { s.hub with alert := s.hub.alert &&& ~~~(v.setWidth 6) } } ∧
    exec (.registerWrite fn 0x100020 v) s = .next { s with tim := { s.tim with int := s.tim.int &&& ~~~(v.setWidth 5) } } ∧
    (∀ off ∈ [0#32, 4#32, 8#32, 0x60#32, 0x100000#32, 0x300104#32, 0x600000#32],
      exec (.registerWrite fn off v) s = .next s) ∧
    (∀ off : BitVec 32, off.toNat % 4 ≠ 0 → exec (.registerWrite fn off v) s = .next s) ∧
    (∀ n < 32, Claims.Answers (.registerWrite fn (BitVec.ofNat 32 (0x2008 + n * 0x40)) v) s (fun t =>
      t = { s with parts := t.parts } ∧ ∀ m, t.part m = if m = n then { s.part n with
        load := { (s.part n).load with param := hi32 (s.part n).load.param ++ v } } else s.part m)))

/-! ### Power, start-up, resets and tests -/

/-- Power and heat (R319, R323, R330, R336, R354, R360, R363, R408, R410, R411): each millisecond moves the duty of a partition by its cap, the
device's by 3,600 W and the thermal one by the hottest junction, 100 cycles at a time and at most 1,500; a power hold stalls the first D
cycles of a 1 µs frame; the meter of a partition takes its share of the shared units (R330), and VPWR shows its mean over the 100 ms
that have ended; worn cells are a reason for replacement (R319); a rail out of range or a junction above 110 °C stops the device; the delayed views change every 100 ms. -/
def Obligations.PowerAndHeatHold : Prop := ∀ s : State, s.wf = true → s.hub.stopped = false →
  let up (d : BitVec 11) : BitVec 11 := BitVec.ofNat 11 (min (d.toNat + 100) 1500)
  let down (d : BitVec 11) : BitVec 11 := BitVec.ofNat 11 (d.toNat - 100)
  let Stops (c : Instr) : Prop := Claims.Answers c s (fun t => t.hub.stopped = true ∧ t.hub.ready = false ∧
    t.pcie.up0 = false ∧ t.pcie.up1 = false ∧ (∀ l : LinkId, l.wf = true → t.link l = {}) ∧ t.parts = s.parts ∧ t.doms = s.doms ∧
    t.tim = s.tim)
  (∀ (parts shared : List Nat) (total : Nat), Claims.Answers (.powerMsCheck ⟨parts, shared⟩ total) s (fun t =>
    (∀ n < 32, t.part n = match parts[n]? with
      | none => s.part n
      | some own =>
        let c := (s.part n).cfg
        let w := metered s.pmc shared n own
        { s.part n with cfg := { c with
          pwr := BitVec.ofNat 16 w, meter := c.meter.add ((s.tim.hall.toNat - 1) / 1600000000) w,
          duty := if c.cap.toNat < w then up c.duty else if w * 100 < c.cap.toNat * 95 then down c.duty else c.duty } }) ∧
    t.pmc.used = [] ∧
    t.pmc.dutyE = (if 3600 < total then up s.pmc.dutyE else if total < 3420 then down s.pmc.dutyE else s.pmc.dutyE) ∧
    t.pmc.dutyT = s.pmc.dutyT ∧ t = { s with parts := t.parts, pmc := t.pmc, flt := t.flt, free := t.free })) ∧
  (∀ n < 32, let now := s.tim.hall.toNat
    let frame := now / 16000 + 1
    let duty := max (s.part n).cfg.duty.toNat (max s.pmc.dutyE.toNat s.pmc.dutyT.toNat)
    ((s.dom n).lastPowerFrame.toNat = frame → exec (.powerHoldFrame n) s = .next s) ∧
    ((s.dom n).lastPowerFrame.toNat ≠ frame → Claims.Answers (.powerHoldFrame n) s (fun t =>
      ((StallCause.power, 0) ∈ (t.dom n).stalls ↔ now % 16000 < duty * 10) ∧
      (∀ c i, (c, i) ≠ (StallCause.power, 0) → ((c, i) ∈ (t.dom n).stalls ↔ (c, i) ∈ (s.dom n).stalls)) ∧
      t.dom n = { s.dom n with lastPowerFrame := BitVec.ofNat 64 frame, stalls := (t.dom n).stalls } ∧
      (∀ m, m ≠ n → t.dom m = s.dom m) ∧ t = { s with doms := t.doms, pmc := t.pmc }))) ∧
  (∀ tcase tj : Nat, let hot : Prop := 1700 < tcase
    (tj ≤ 2100 → Claims.Answers (.thermalMsCheck tcase ⟨tj, true⟩) s (fun t =>
      bit t.hub.repl 0 = true ∧ (∀ i, bit s.hub.repl i = true → bit t.hub.repl i = true) ∧
      t.hub = { s.hub with alert := t.hub.alert, repl := t.hub.repl, healthSeq := t.hub.healthSeq } ∧
      t.pmc = { s.pmc with
        dutyT := if 2050 < tj then up s.pmc.dutyT else if tj < 2000 then down s.pmc.dutyT else s.pmc.dutyT })) ∧
    (tj ≤ 2100 → Claims.Answers (.thermalMsCheck tcase ⟨tj, false⟩) s (fun t =>
      t.pmc = { s.pmc with
        dutyT := if 2050 < tj then up s.pmc.dutyT else if tj < 2000 then down s.pmc.dutyT else s.pmc.dutyT } ∧
      t.hub = { s.hub with alert := t.hub.alert } ∧ t = { s with hub := t.hub, pmc := t.pmc, out := t.out, pcie := t.pcie } ∧
      (hot → t.hub.alert = s.hub.alert ||| 32) ∧ (¬ hot → t.hub.alert = s.hub.alert))) ∧
    (2100 < tj → ∀ wear, Stops (.thermalMsCheck tcase ⟨tj, wear⟩))) ∧
  (let now := s.tim.hall.toNat / 1600000000;
    (∀ k, k ≠ now ∨ k = s.pmc.vpwrInt → exec (.vpwrInterval k) s = .next s) ∧
    (now ≠ s.pmc.vpwrInt → Claims.Answers (.vpwrInterval now) s (fun t =>
    t = { s with parts := t.parts, pmc := { s.pmc with vpwrInt := now } } ∧
    ∀ n < 32, t.part n = { s.part n with cfg := { (s.part n).cfg with
      vpwr := BitVec.ofNat 16 ((s.part n).cfg.meter.mean (now - 1) / 50 * 50), vfStall := Tab.get 0 s.pmc.ctr (ctrBank n 0x01),
      vfPower := Tab.get 0 s.pmc.ctr (ctrBank n 0x08), vfFrames := Tab.get 0 s.pmc.ctr (ctrBank n 0x2B) } }))) ∧
  (Claims.Answers .cperEccSummary s (fun t =>
    (∀ c, t.col c = if c < 20 then { s.col c with eccReported := (s.col c).eccCe } else s.col c) ∧ t.hub = s.hub ∧
    t.parts = s.parts ∧ t.links = s.links ∧ (s.flt.cperEn = false → t = { s with cols := t.cols }))) ∧
  (∀ mv : Nat, s.hub.pwrOk = true →
    let Notes (c : Instr) : Prop := Claims.Answers c s (fun t => t = { s with flt := t.flt, free := t.free })
    (mv < 44000 ∨ 56000 < mv → Stops (.railFault .main mv)) ∧
    (44000 ≤ mv → mv < 46000 → Notes (.railFault .main mv) ∧ Notes (.mainRailLowNotice mv)) ∧
    (46000 ≤ mv → mv ≤ 56000 → exec (.railFault .main mv) s = .next s) ∧
    (46000 ≤ mv → exec (.mainRailLowNotice mv) s = .next s) ∧
    (mv < 10800 → Stops (.railFault .auxiliary mv)) ∧
    (10800 ≤ mv → mv ≤ 14000 → exec (.railFault .auxiliary mv) s = .next s) ∧
    (mv < 3135 ∨ 3465 < mv → Stops (.railFault .standby mv)) ∧
    (mv < 1710 ∨ 1890 < mv → Stops (.railFault .io mv)) ∧
    exec (.railFault .regulator mv) s = exec (.deadbolt 0x05 0x80 ⟨0, none⟩) s)

/-- The deadbolt (R181, R305, R307, R315, R316, R318, R344, R347): its cause is held, every partition freezes, keys are erased, a hold with no
release goes to every active domain; an uncorrectable block that a read found is POISON and its row is to be retired (R181, R305); 2 µs later the device resets, and what R420 keeps stays. A further fatal error is only
recorded. -/
def Obligations.DeadboltContainsAndResets : Prop := ∀ (s : State) (cause die unit : BitVec 8) (block : Option BadBlock), s.wf = true →
  (s.hub.stopped = true → exec (.deadbolt cause die ⟨unit, block⟩) s = .next s) ∧
  (s.hub.stopped = false → s.hub.deadboltPending = true → Claims.Answers (.deadbolt cause die ⟨unit, block⟩) s (fun t =>
    t = { s with flt := t.flt, free := t.free, store := t.store, pcie := t.pcie, out := t.out, kwy := t.kwy } ∧ t.flt.busy = true)) ∧
  (s.hub.stopped = false → s.hub.deadboltPending = false → (∀ n < 32, (s.part n).snap.state ≠ .draining) →
    Claims.Answers (.deadbolt cause die ⟨unit, block⟩) s (fun t =>
      t.hub.dbCount = satAdd s.hub.dbCount 1 ∧ t.hub.dbCause = cause ∧ t.hub.dbDie = die ∧ t.hub.dbUnit = unit ∧
      t.hub.deadboltPending = true ∧ t.hub.deadboltAt = s.tim.hall ∧ bit t.hub.alert 0 = true ∧ t.hub.ready = s.hub.ready ∧
      t.flt.busy = true ∧ (∀ n, frozen t n = true) ∧ t.tim.hall = s.tim.hall ∧
      (∀ c, t.col c = match block with
        | none => s.col c
        | some b => if cause = 1 ∧ c = die.toNat then { s.col c with
            eccUe := satAdd (s.col c).eccUe 1,
            poison := if b.addr ∈ (s.col c).poison then (s.col c).poison else (s.col c).poison ++ [b.addr],
            pendingRows := if (b.ch, b.row) ∈ (s.col c).pendingRows then (s.col c).pendingRows
              else (s.col c).pendingRows ++ [(b.ch, b.row)] } else s.col c) ∧ t.store.flash = s.store.flash ∧
      ∀ n < 32, (t.part n).key.slots = [] ∧ (t.part n).key.ecdh = none ∧ (t.part n).key.weights = [] ∧
        (t.part n).run = (s.part n).run ∧ (t.part n).load = (s.part n).load ∧
        ((s.dom n).active = true → ∃ h ∈ (t.dom n).holds, h.source = s.hub.devno ∧ h.release = false ∧ h.taken = false ∧
          h.effect = s.tim.hall + BitVec.ofNat 64 s.tim.lead.toNat) ∧
        ((s.dom n).active = false → t.dom n = s.dom n))) ∧
  exec .firmwareWatchdogExpiry s = exec (.deadbolt 0x06 0x80 ⟨0, none⟩) s ∧
  (s.hub.deadboltPending = false → exec .deadboltReset s = .next s) ∧
  (s.hub.deadboltPending = true → s.hub.stopped = false → s.hub.dbCause ≠ 2 → s.hub.dbCause ≠ 4 →
    Claims.Answers .deadboltReset s (fun t =>
      t.hub = { pwrOk := true, stopped := false, stage := 1, perst := s.hub.perst, repl := s.hub.repl,
                healthSeq := s.hub.healthSeq, warm := true, dbCount := s.hub.dbCount, dbCause := s.hub.dbCause,
                dbDie := s.hub.dbDie, dbUnit := s.hub.dbUnit } ∧
      t.tim = {} ∧ t.sec = {} ∧ t.kwy = {} ∧ t.pmc = {} ∧ t.mgmt = {} ∧ t.pcie = {} ∧
      t.flt.ring = s.flt.ring ∧ t.flt.wr = s.flt.wr ∧ t.store.flash = s.store.flash ∧ t.store.host = s.store.host ∧
      (∀ n, t.dom n = {} ∧ t.part n = {} ∧ t.hasp n = {} ∧ t.queue n = {} ∧ t.uu n = {} ∧ t.latch n = 0) ∧
      (∀ l : LinkId, t.link l = {}) ∧ (∀ a < 2 ^ 64, t.store.mem.read a = 0) ∧
      ∀ c, (t.col c).failed = (s.col c).failed ∧ (t.col c).qfail = (s.col c).qfail ∧ (t.col c).fenced = (s.col c).fenced ∧
        (t.col c).retired = (s.col c).retired ∧ (t.col c).eccCe = (s.col c).eccCe))

/-- Start-up (R362 to R374): a rising edge of PWR_OK resets the device into phase 1; each phase logs its milliseconds and gives way to
the next, the eighth to READY; a configuration record sets the device number and the pintle's source, memory initialisation zeroes
DRAM; a phase that passes its maximum stops start-up, or fails its column. The fall of PWR_OK stops the device at once, and PERST_N puts
the host interface in reset. What a delivered slot holds is the model's (log entry 62). -/
def Obligations.StartUpRunsInPhases : Prop := ∀ (s : State) (ms : BitVec 32), s.wf = true →
  let k := s.hub.stage.toNat
  let logged : Hub := { s.hub with bootlog := Tab.set 0xFFFFFFFF s.hub.bootlog k ms }
  let next : Hub := { logged with stage := s.hub.stage + 1 }
  let running : Prop := s.hub.pwrOk = true ∧ s.hub.stopped = false ∧ s.hub.bootFail = false ∧ s.hub.ready = false ∧ s.hub.stage ≠ 0
  let someColumn : Prop := ∃ c < 20, (s.col c).failed = false
  (s.hub.pwrOk = true → ∀ b, exec (.pwrOkRise b) s = .next s) ∧
  (s.hub.pwrOk = false → s.flt.busy = false → ∀ b, Claims.Answers (.pwrOkRise b) s (fun t =>
    t.hub = { pwrOk := true, stopped := false, stage := 1, perst := s.hub.perst, repl := s.hub.repl, healthSeq := s.hub.healthSeq,
              railsWait := !b } ∧ t.tim = {} ∧ t.sec = {} ∧ t.flt = {} ∧ t.pmc = {} ∧ t.pcie = {} ∧ t.mgmt = {} ∧
    (∀ n, t.dom n = {} ∧ t.part n = {} ∧ t.queue n = {} ∧ t.latch n = 0) ∧ t.store.flash = s.store.flash)) ∧
  (s.hub.pwrOk = true → Claims.Answers .pwrOkFall s (fun t =>
    t.hub = { s.hub with ready := false, stopped := true, pwrOk := false } ∧ t.pcie = { s.pcie with up0 := false, up1 := false } ∧
    (∀ l : LinkId, l.wf = true → t.link l = {}) ∧ t = { s with hub := t.hub, pcie := t.pcie, links := t.links })) ∧
  (¬ running → ∀ failed u c, exec (.startupPhaseEnd ms failed) s = .next s ∧ exec (.phaseWatchdogExpiry u c) s = .next s) ∧
  (running → someColumn →
    (∀ h l, k = 1 → bootImage s 1 = some (h, false) → bootImage s 2 = some (l, false) →
      exec (.startupPhaseEnd ms []) s = .next { s with
        hub := { next with railsWait := false }, sec := { s.sec with hubDigest := h, linkDigest := l } }) ∧
    (k = 1 → bootImage s 1 = none → Claims.Answers (.startupPhaseEnd ms []) s (fun t =>
      t.hub = { s.hub with bootFail := true, failcode := 1 } ∧ t.sec = s.sec ∧ t.tim = s.tim)) ∧
    (let b := flashRead s.store.flash 0xF50000 64
     let valid : Prop := b.take 4 = [0x43, 0x46, 0x47, 0x52] ∧ leAt b 4 2 = 1 ∧ leAt b 56 8 = (crc64 (b.take 56)).toNat
     k = 2 → s.hub.healthSeq ≠ 0 →
      (valid → exec (.startupPhaseEnd ms []) s = .next { s with
        hub := { next with devnoValid := true, devno := BitVec.ofNat 16 (leAt b 6 2) },
        tim := { s.tim with pri := BitVec.ofNat 8 (leAt b 8 1), src := bit (BitVec.ofNat 8 (leAt b 9 1)) 0 } }) ∧
      (¬ valid → exec (.startupPhaseEnd ms []) s = .next { s with hub := next })) ∧
    (k ∈ [3, 4, 7] → exec (.startupPhaseEnd ms []) s = .next { s with hub := next }) ∧
    (k = 5 → (∀ d < 4, s.fuses.linkPresent.getLsbD d = true ∧ (s.die d).calDone = false ∧ (s.link ⟨d, 0⟩).state ≠ 3) →
      Claims.Answers (.startupPhaseEnd ms []) s (fun t => t.hub = next ∧ (∀ d < 4, (t.die d).calDone = true) ∧
        (∀ l : LinkId, l.wf = true → (s.link l).disable = false → (t.link l).state = 1) ∧ t.cols = s.cols)) ∧
    (k = 6 → (∀ c < 20, (s.col c).pendingRows = []) → s.cols.all (fun e => e.2.pendingRows.isEmpty) = true →
      Claims.Answers (.startupPhaseEnd ms []) s (fun t => t.hub = next ∧ (∀ c < 20, t.col c = { s.col c with poison := [] }) ∧
        ∀ a, t.store.mem.read a = if a < 20 * dramSpan then 0 else s.store.mem.read a)) ∧
    (k = 8 → Claims.Answers (.startupPhaseEnd ms []) s (fun t =>
      t.hub = { logged with ready := true } ∧ t = { s with hub := t.hub, out := t.out, pcie := t.pcie }))) ∧
  (running → (∀ cause, k ≠ 1 ∨ s.hub.railsWait = false → Claims.Answers (.phaseWatchdogExpiry none cause) s (fun t =>
      t.hub.bootFail = true ∧ t.hub.failcode = BootFail.code cause ∧ t.hub.ready = false ∧ t.hub.stage = s.hub.stage)) ∧
    (∀ cause, k = 1 → s.hub.railsWait = true → Claims.Answers (.phaseWatchdogExpiry none cause) s (fun t =>
      t.hub.bootFail = true ∧ t.hub.failcode = 3)) ∧
    (∀ c cause, c < 20 → k = 5 ∨ k = 6 → (∃ d < 20, d ≠ c ∧ (s.col d).failed = false) →
      Claims.Answers (.phaseWatchdogExpiry (some (.column c)) cause) s (fun t => (t.col c).failed = true ∧
        t.hub.bootFail = false ∧ bit t.hub.repl 7 = true ∧ ∀ d, d ≠ c → t.col d = s.col d))) ∧
  (s.hub.perst = true → exec .perstNAssert s = .next s ∧ exec .perstNDeassert s =
    .next { s with hub := { s.hub with perst := false, perstSince := s.tim.hall } }) ∧
  (s.hub.perst = false → exec .perstNDeassert s = .next s) ∧
  (s.hub.perst = false → s.hub.ready = false → Claims.Answers .perstNAssert s (fun t =>
    t.hub = { s.hub with perst := true, aper := 0 } ∧ t.pcie.up0 = false ∧ t.pcie.up1 = false ∧ t.pcie.vfEnable = false ∧
    t.pcie.numVfs = 0 ∧ t.pcie.unmasked = [] ∧ t.pcie.pendingBits = [] ∧ t = { s with hub := t.hub, pcie := t.pcie }))

/-- Nothing that a reset of partitions must wait for: no operation is in flight, no snapshot drains, no message waits on a link or on
the device. -/
def Claims.Quiet (s : State) : Prop :=
  (∀ n < 32, (s.part n).run.ops = [] ∧ (s.part n).snap.state ≠ .draining) ∧ Claims.NoneWaits s

/-- The functions of the host and the board that give commands to the device as a whole (R5, R374, R394). -/
def Claims.Commands (s : State) (fn : Fn) : Prop := serving s = true ∧ isPf fn = true ∧ fnThere s fn = true

/-- Resets of functions (R332, R364, R384) leave a partition EMPTY with nothing bound and its domain slot inactive, and every other
partition as it was. Resets of units (R347, R349): a quarter or a link die that nothing uses is reset and counts as unmeasured until the
hub has verified it, which advances `MEPOCH` (R343); one in use is not, and the request is recorded. -/
def Obligations.ResetsEmptyWhatTheyName : Prop := ∀ s : State, s.wf = true →
  let Emptied (n : Nat) (t : State) : Prop := (t.part n).load.state = .empty ∧ (t.part n).obj = none ∧ (t.part n).run = {} ∧
    (t.part n).bind = {} ∧ (t.part n).key.slots = [] ∧ (t.part n).key.ecdh = none ∧ (t.part n).cfg.duty = 0 ∧
    (t.dom n).active = false ∧ (t.dom n).stalls = []
  let Noted (c : Instr) : Prop := Claims.Answers c s (fun t => t = { s with flt := t.flt, free := t.free })
  (∀ n, serving s = true → Claims.Quiet s → vfExists s.pcie n = true →
    ((s.part n).cfg.vfown = true → Claims.Answers (.vfFlr n) s (fun t => Emptied n t ∧ t.hub = s.hub ∧
      t.pcie.vfEnable = s.pcie.vfEnable ∧ (∀ e ∈ (s.part n).bind.queues, t.queue e.2 = {}) ∧
      ∀ m, m ≠ n → t.part m = s.part m)) ∧
    ((s.part n).cfg.vfown = false → exec (.vfFlr n) s = .next s)) ∧
  (serving s = true → Claims.Quiet s → Claims.Answers .pfReset s (fun t => t.hub = s.hub ∧ ∀ n < 32, Emptied n t)) ∧
  (∀ enable num, s.hub.stopped = false → s.hub.perst = false →
    let gone (n : Nat) : Prop := vfExists s.pcie n = true ∧ (enable = false ∨ num ≤ n) ∧ (s.part n).cfg.vfown = true
    ((∀ n < 32, ¬ gone n) ∨ s.hub.ready = false → exec (.vfEnableClear enable num) s =
      .next { s with pcie := { s.pcie with vfEnable := enable, numVfs := num } }) ∧
    (s.hub.ready = true → Claims.Quiet s → Claims.Answers (.vfEnableClear enable num) s (fun t =>
      t.pcie.vfEnable = enable ∧ t.pcie.numVfs = num ∧ ∀ n < 32, (gone n → Emptied n t) ∧ (¬ gone n → t.part n = s.part n)))) ∧
  (∀ fn, Claims.Commands s fn →
    (∀ q, let used : Prop := 80 ≤ q ∨ ∃ n < 32, q ∈ (s.part n).bind.quarters
      (used → Noted (.quarterReset fn q)) ∧
      (¬ used → Claims.Answers (.quarterReset fn q) s (fun t =>
        t.sec = { s.sec with unmeasured := s.sec.unmeasured ||| BitVec.ofNat 80 (2 ^ q) } ∧ t.uu q = {} ∧ t.gen q = {} ∧
        (∀ i, Tab.get 0 t.store.vreg i = if vregIdx q 0 0 ≤ i ∧ i < vregIdx (q + 1) 0 0 then 0 else Tab.get 0 s.store.vreg i) ∧
        (∀ n < 32, (bit (s.part n).cfg.qmask q = true → (t.part n).key.slots = []) ∧
          (bit (s.part n).cfg.qmask q = false → t.part n = s.part n)) ∧
        t.store = { s.store with vreg := t.store.vreg, gen := t.store.gen } ∧
        t = { s with sec := t.sec, uus := t.uus, parts := t.parts, store := t.store }))) ∧
    (∀ d, let used : Prop := 4 ≤ d ∨ s.fuses.linkPresent.getLsbD d = false ∨
        ∃ n < 32, ∃ o, (s.part n).obj = some o ∧ d ∈ o.dies
      (used → Noted (.linkDieReset fn d)) ∧
      (¬ used → Claims.Answers (.linkDieReset fn d) s (fun t => t = { s with dies := t.dies } ∧
        ∀ k, t.die k = if k = d then { s.die d with unmeasured := true } else s.die k)))) ∧
  (s.hub.stopped = false →
    (∀ q, bit s.sec.unmeasured q = true → exec (.unitResetDone (.quarter q)) s = .next { s with sec := { s.sec with
      unmeasured := s.sec.unmeasured &&& ~~~BitVec.ofNat 80 (2 ^ q), mepoch := s.sec.mepoch + 1 } }) ∧
    (∀ q, bit s.sec.unmeasured q = false → exec (.unitResetDone (.quarter q)) s = .next s) ∧
    (∀ d, (s.die d).unmeasured = true → Claims.Answers (.unitResetDone (.linkDie d)) s (fun t =>
      t.sec = { s.sec with mepoch := s.sec.mepoch + 1 } ∧ t = { s with sec := t.sec, dies := t.dies } ∧
      ∀ k, t.die k = if k = d then { s.die d with unmeasured := false } else s.die k)))

/-- The known-answer suites (R324 to R327): the short one begins only while every partition is EMPTY; the deep one takes the quarters of
its columns in turn and skips one that is bound; a run's end sets the quarter's result, fences a cell that failed and unfences one
that passed unless it was fenced twice; the suite's end sends its interrupt. -/
def Obligations.SuitesTestQuartersInTurn : Prop := ∀ (s : State) (fn : Fn), s.wf = true →
  let bound (q : Nat) : Prop := ∃ n < 32, q ∈ (s.part n).bind.quarters
  (Claims.Commands s fn →
    let blocked : Prop := s.hub.katBusy = true ∨ s.sec.fwState = .window
    let refused : State := { s with hub := { s.hub with katResult := 0x0F } }
    let begun (suite : BitVec 4) : Hub := { s.hub with katBusy := true, katSuite := suite, katResult := 0, katFail := 0 }
    (blocked ∨ (∃ n < 32, (s.part n).load.state ≠ .empty) → exec (.katShort fn) s = .next refused) ∧
    (¬ blocked → (∀ n < 32, (s.part n).load.state = .empty) → exec (.katShort fn) s = .next { s with hub := begun 1 }) ∧
    (∀ mask, (blocked → exec (.katDeep fn mask) s = .next refused) ∧
      (¬ blocked → Claims.Answers (.katDeep fn mask) s (fun t => t = { s with hub := begun 2, cols := t.cols } ∧
        ∀ c, (c < 20 ∧ mask.getLsbD c = true →
          (¬ bound (4 * c) → t.col c = { s.col c with kat := 0, katTurn := some 0 }) ∧
          (bound (4 * c) → ¬ bound (4 * c + 1) → t.col c = { s.col c with kat := 3, katTurn := some 1 }) ∧
          ((∀ q < 4, bound (4 * c + q)) → t.col c = { s.col c with kat := 0xFF, katTurn := none })) ∧
          (¬ (c < 20 ∧ mask.getLsbD c = true) → t.col c = s.col c))))) ∧
  (∀ c q, s.hub.katBusy = true → s.hub.stopped = false → c < 20 → q < 4 → (s.col c).katTurn = some q →
    (¬ bound (4 * c + q + 1) ∨ q = 3 → Claims.Answers (.quarterRunEnd c q []) s (fun t =>
      fld (t.col c).kat (2 * q) 2 = 1 ∧ (t.col c).katTurn = (if q = 3 then none else some (q + 1)) ∧
      (∀ p < 18, bit (t.col c).fenced p = true ↔ bit (s.col c).fenced p = true ∧
        (p / 4 ≠ q ∨ 2 ≤ (s.cell (c * 18 + p)).fences)) ∧
      (∀ d, d ≠ c → t.col d = s.col d) ∧ t.hub.katResult = s.hub.katResult ∧
      t = { s with cols := t.cols, cells := t.cells, hub := t.hub })) ∧
    (∀ p, p / 4 = q → Claims.Answers (.quarterRunEnd c q [.cell c p]) s (fun t =>
      fld (t.col c).kat (2 * q) 2 = 2 ∧ bit (t.col c).fenced p = true ∧ t.hub.katResult = 1 ∧
      (t.cell (c * 18 + p)).fences = (s.cell (c * 18 + p)).fences + 1 ∧ t.parts = s.parts))) ∧
  (∀ c q failed, (s.col c).katTurn ≠ some q → exec (.quarterRunEnd c q failed) s = .next s) ∧
  (s.hub.katBusy = true → s.hub.stopped = false → (∀ c < 20, (s.col c).katTurn = none) → Claims.Answers (.katDone []) s (fun t =>
    t.hub = { s.hub with katBusy := false } ∧ t = { s with hub := t.hub, out := t.out, pcie := t.pcie })) ∧
  (∀ failed, (∃ c < 20, (s.col c).katTurn ≠ none) → exec (.katDone failed) s = .next s)

/-! ### Commands to a partition -/

/-- A function that may command partition `n` of a device that serves commands (R98, R335, R374). -/
def Claims.MayCommand (s : State) (fn : Fn) (n : Nat) : Prop :=
  serving s = true ∧ n < 32 ∧ mayPart fn n = true ∧ fnThere s fn = true

/-- Partition `n` has become `x`; nothing but the components that `t` is said to share with `s` has changed elsewhere. -/
def Claims.Becomes (s : State) (n : Nat) (x : Part) (t : State) : Prop := ∀ m, t.part m = if m = n then x else s.part m

/-- The bytes `bs` written at the address `a` of a register lie in the host window, from bus address `h` on, and no sealed page has its
home there. -/
def Claims.InHost (s : State) (a h : Nat) (bs : List Byte) : Prop :=
  ∀ i < bs.length, place s (localOf s a + i) = .host (h + i) ∧ barred s (localOf s a + i) = false

/-- Host memory holds the bytes `bs` from bus address `h` on, and no other byte of any memory has changed. -/
def Claims.HostGets (s : State) (h : Nat) (bs : List Byte) (t : State) : Prop :=
  t.store = { s.store with host := t.store.host } ∧ ∀ x, t.store.host.read x =
    if h ≤ x ∧ x < h + bs.length then (bs[x - h]?).getD 0 else s.store.host.read x

/-- LOAD, START and UNLOAD (R98, R100): each is taken in its states and otherwise sets STATE_ERR and leaves STATE; a load clears the
partition's counters and duty and ends in LOADED, or in FAILED with nothing installed, and an access of the loader that no memory
answers is counted (R4, R175); START puts the streams to work against
START_TIME; an unload ends in EMPTY with everything released. -/
def Obligations.LoadsStartAndUnload : Prop := ∀ (s : State) (fn : Fn) (n : Nat), s.wf = true →
  let p := s.part n
  let free : Prop := p.load.state ≠ .loading ∧ p.load.unloading = false ∧ s.sec.fwState ≠ .window
  let Refused (c : Instr) : Prop := Claims.Answers c s (fun t => t = { s with parts := t.parts } ∧
    Claims.Becomes s n { p with load := { p.load with result := 0x0F } } t)
  (Claims.MayCommand s fn n →
    (let ok : Prop := free ∧ ¬ (s.hub.katBusy = true ∧ s.hub.katSuite = 1) ∧ (p.load.state = .empty ∨ p.load.state = .failed)
     (¬ ok → Refused (.load fn n)) ∧
     (ok → p.obj = none → Claims.Answers (.load fn n) s (fun t => t = { s with parts := t.parts, pmc := t.pmc } ∧
      Claims.Becomes s n { p with
        load := { p.load with state := .loading },
        cfg := { p.cfg with gen := p.cfg.gen + 1, tagged := true, duty := 0, vfStall := 0, vfPower := 0, vfFrames := 0 } } t ∧
      t.pmc.ctr = Tab.clear (ctrBank n 0) (ctrBank n 0x80) s.pmc.ctr))) ∧
    (let ok : Prop := free ∧ p.load.state = .loaded ∧ (s.dom n).active = true
     (¬ ok ∨ p.obj = none → Refused (.start fn n)) ∧
     (∀ o, ok → p.obj = some o → Claims.Answers (.start fn n) s (fun t =>
      t = { s with parts := t.parts, cols := t.cols, queues := t.queues } ∧ (∀ m, m ≠ n → t.part m = s.part m) ∧
      (t.part n).load = { p.load with state := .running, result := 0, unloading := false } ∧
      (t.part n).run = { p.run with
        curOrigin := o.startTime, prevOrigin := o.startTime, firstOrigin := o.startTime,
        streams := p.run.streams.map (fun x => { x with reached := (s.dom n).psc }) } ∧
      (t.part n).recd.winFirst = p.recd.winFirstNext ∧ (t.part n).recd.winLast = p.recd.winLastNext ∧
      ∀ k, t.queue k = { s.queue k with wait := (t.queue k).wait, wpsc := (t.queue k).wpsc }))) ∧
    (let ok : Prop := free ∧ (s.dom n).active = false ∧ p.load.state ≠ .empty
     (¬ ok → Refused (.unload fn n)) ∧
     (ok → p.load.state ≠ .running → Claims.Answers (.unload fn n) s (fun t => t = { s with parts := t.parts } ∧
      Claims.Becomes s n { p with load := { p.load with unloading := true }, cfg := { p.cfg with duty := 0 } } t)) ∧
     (ok → p.load.state = .running → Claims.Answers (.unload fn n) s (fun t =>
      t = { s with parts := t.parts, queues := t.queues } ∧ Claims.Becomes s n { p with
        load := { p.load with unloading := true }, cfg := { p.cfg with duty := 0 },
        run := { p.run with streams := p.run.streams.map (fun x => { x with stopped := true }) } } t)))) ∧
  (s.hub.stopped = false → n < 32 →
    let q := readParams s p.load.param.toNat
    let img := fetchAt s q.addr q.len
    let rc := checkObject s n q img
    let read := (accessed [(p.load.param.toNat, 80), (q.addr, q.len), (q.mapAddr, 8 * q.ranks)]).run s
    (p.load.unloading = false → p.load.state ≠ .loading → exec (.loadDone n) s = .next s) ∧
    (p.load.unloading = true → Claims.Quiet s → Claims.Answers (.loadDone n) s (fun t =>
      (t.part n).load = { p.load with state := .empty, result := 0, unloading := false } ∧ (t.part n).obj = none ∧
      (t.part n).run = {} ∧ (t.part n).bind = {} ∧ (t.part n).key.slots = [] ∧ (t.part n).cfg = p.cfg ∧
      (t.dom n).stalls = [] ∧ (∀ e ∈ p.bind.queues, t.queue e.2 = {}) ∧ ∀ m, m ≠ n → t.part m = s.part m)) ∧
    (p.load.unloading = false → p.load.state = .loading →
      (rc ≠ 0 → Claims.Answers (.loadDone n) s (fun t => t = { read with parts := t.parts, out := t.out, pcie := t.pcie } ∧
        Claims.Becomes s n { p with load := { p.load with state := .failed, result := BitVec.ofNat 8 rc } } t)) ∧
      (∀ r, rc = 0 → bindObject read n q img = .error r → Claims.Answers (.loadDone n) s (fun t =>
        t = { read with parts := t.parts, out := t.out, pcie := t.pcie } ∧
        Claims.Becomes s n { p with load := { p.load with state := .failed, result := BitVec.ofNat 8 r } } t)) ∧
      (∀ e, rc = 0 → bindObject read n q img = .ok e → Claims.Answers (.loadDone n) s (fun t =>
        (t.part n).load.state = .loaded ∧ (t.part n).load.result = 0 ∧ (t.part n).snap.restored = []))))

/-- Contexts, rewinds and snapshots of a partition (R170, R286, R299, R300, R302, R312): each command is taken in its states, and
otherwise answers STATE_ERR; a SAVE writes the image of the context and a RESTORE applies one, or fails with FORMAT; a rewind ends in
LOADED, its streams at their beginnings and nothing in flight; a restore of an image of another layout or digest leaves FAILED, and so
does one of a partition that is not LOADED or of a rank that is restored already, whose state is the last of the checks (R300). That a
second restore is refused while one runs is the model's (log entry 116). -/
def Obligations.ContextsAndRewinds : Prop := ∀ (s : State) (fn : Fn) (n : Nat), s.wf = true →
  let p := s.part n
  let free : Prop := p.load.state ≠ .loading ∧ p.load.unloading = false ∧ s.sec.fwState ≠ .window
  let Sets (c : Instr) (x : Part) : Prop := Claims.Answers c s (fun t => t = { s with parts := t.parts } ∧ Claims.Becomes s n x t)
  let Ends (c : Instr) (x : Part) : Prop := Claims.Answers c s (fun t =>
    t = { s with parts := t.parts, out := t.out, pcie := t.pcie } ∧ Claims.Becomes s n x t)
  (Claims.MayCommand s fn n →
    let started (restore : Bool) : Part := { p with ctx := { p.ctx with busy := true, restoring := restore } }
    let refused : Part := { p with ctx := { p.ctx with result := 0x0F } }
    (free → p.ctx.busy = false → p.load.state = .done ∨ p.load.state = .faulted → Sets (.save fn n) (started false)) ∧
    (p.load.state ∉ [LoadState.done, .faulted, .running] → Ends (.save fn n) refused) ∧
    (p.load.state = .running → (s.dom n).held = false → Ends (.save fn n) refused) ∧
    (free → p.ctx.busy = false → p.load.state = .loaded → Sets (.restore fn n) (started true)) ∧
    (¬ free ∨ p.ctx.busy = true ∨ p.load.state ≠ .loaded → Ends (.restore fn n) refused) ∧
    (let ok : Prop := free ∧ p.ctx.rwdBusy = false ∧ (s.dom n).active = false ∧ p.load.state ∈ [LoadState.loaded, .running, .done]
     (¬ ok → Sets (.rewind fn n) { p with ctx := { p.ctx with rwdResult := 0x0F } }) ∧
     (ok → Claims.Answers (.rewind fn n) s (fun t => t = { s with parts := t.parts, queues := t.queues } ∧ Claims.Becomes s n { p with
        ctx := { p.ctx with rwdBusy := true },
        run := { p.run with streams := p.run.streams.map (fun x => { x with stopped := true }) } } t))) ∧
    (p.snap.state ∈ [SnapState.idle, .done, .aborted] → Sets (.snapshotArm fn n) { p with snap := { p.snap with
      arm := true, state := .armed, bufmax := 0 } }) ∧
    (p.snap.state ∈ [SnapState.armed, .draining] → Sets (.snapshotArm fn n) { p with snap := { p.snap with arm := true } }) ∧
    (p.snap.rbusy = true → Sets (.snapshotRestore fn n) { p with snap := { p.snap with rresult := 0x0F } }) ∧
    (p.snap.rbusy = false → p.snap.fromPeer = false →
      Sets (.snapshotRestore fn n) { p with snap := { p.snap with rbusy := true } })) ∧
  (s.hub.stopped = false → n < 32 →
    let a := p.ctx.addr.toNat
    let ended (r : BitVec 8) (len : Nat) : CtxReg := { p.ctx with busy := false, result := r, len := BitVec.ofNat 32 len }
    (p.ctx.busy = false → exec (.ctxDone n) s = .next s) ∧
    (p.ctx.busy = true → p.ctx.restoring = false →
      (∀ b, let img := contextImage s n none
        p.load.state = .done ∨ p.load.state = .faulted → Claims.InHost s a b img →
        Claims.Answers (.ctxDone n) s (fun t =>
          t = { s with parts := t.parts, store := t.store, out := t.out, pcie := t.pcie } ∧
          Claims.Becomes s n { p with ctx := ended 0 img.length } t ∧ Claims.HostGets s b img t)) ∧
      (p.load.state ∉ [LoadState.done, .faulted, .running] →
        Ends (.ctxDone n) { p with ctx := { p.ctx with busy := false, result := 0x0F } })) ∧
    (p.ctx.busy = true → p.ctx.restoring = true →
      let bs := fetchAt s a (contextLen (fetchAt s a 64) p.bind.quarters.length)
      let read := (accessed [(a, bs.length)]).run s
      (p.load.state ≠ .loaded → Ends (.ctxDone n) { p with ctx := { p.ctx with busy := false, result := 0x0F } }) ∧
      (p.load.state = .loaded → applyContext s n bs = none → Claims.Answers (.ctxDone n) s (fun t =>
        t = { read with parts := t.parts, out := t.out, pcie := t.pcie } ∧
        Claims.Becomes s n { p with ctx := ended 1 bs.length } t)) ∧
      (∀ act, p.load.state = .loaded → applyContext s n bs = some act → Claims.Answers (.ctxDone n) s (fun t =>
        t.part n = { p with ctx := ended 0 bs.length, run := (t.part n).run } ∧ (∀ m, m ≠ n → t.part m = s.part m) ∧
        t.store.mem = s.store.mem ∧ t.tim = s.tim ∧ t.doms = s.doms))) ∧
    (p.ctx.rwdBusy = false → exec (.rewindDone n) s = .next s) ∧
    (p.ctx.rwdBusy = true → (s.dom n).active = true →
      Ends (.rewindDone n) { p with ctx := { p.ctx with rwdBusy := false, rwdResult := 0x0F } }) ∧
    (p.ctx.rwdBusy = true → (s.dom n).active = false → p.load.state ∈ [LoadState.loaded, .running, .done] → Claims.Quiet s →
      (substituteAll n s = none → Ends (.rewindDone n) { p with ctx := { p.ctx with rwdBusy := false, rwdResult := 0x0A } }) ∧
      (∀ e, substituteAll n s = some e → Claims.Answers (.rewindDone n) s (fun t =>
        (t.part n).load.state = .loaded ∧ (t.part n).ctx.rwdBusy = false ∧ (t.part n).ctx.rwdResult = 0 ∧
        (t.part n).obj = p.obj ∧ (t.part n).run.ops = [] ∧ (t.part n).run.held = [] ∧ (t.part n).run.bindingEpoch = 0 ∧
        (t.part n).snap.restored = [] ∧ ∀ m, m ≠ n → t.part m = s.part m))) ∧
    (p.snap.rbusy = true → p.snap.fromPeer = false → (∀ e ∈ p.run.reqs, e.op ≠ restoreOp) →
      let m := imageRead s n 0 (manifestLen (shardsOf p).length)
      let rc := manifestCheck p.obj p.snap.rown.toNat m
      let fit : Prop := p.load.state = .loaded ∧ p.snap.rown.toNat ∉ p.snap.restored
      (rc ≠ 0 → Claims.Answers (.snapshotRestoreDone n) s (fun t => (t.part n).snap.rbusy = false ∧
        (t.part n).snap.rresult = BitVec.ofNat 8 rc ∧ (t.part n).load.state = .failed ∧ t.store = s.store)) ∧
      (∀ o, rc = 0 → p.obj = some o → (∀ e ∈ p.run.pages, e.2.home ≠ .remote) →
        Claims.Answers (.snapshotRestoreDone n) s (fun t => (t.part n).snap.rbusy = false ∧
        (digestsOk s n o m = true → fit → (t.part n).snap.rresult = 0 ∧ (t.part n).load.state = .loaded ∧
          p.snap.rown.toNat ∈ (t.part n).snap.restored ∧ (t.part n).run.bindingEpoch = 0) ∧
        (digestsOk s n o m = true → ¬ fit → (t.part n).snap.rresult = 0x0F ∧ (t.part n).load.state = .failed) ∧
        (digestsOk s n o m = false → (t.part n).snap.rresult = 6 ∧ (t.part n).load.state = .failed)))) ∧
    (p.snap.rbusy = false → exec (.snapshotRestoreDone n) s = .next s))

/-! ### SEC and the boot flash -/

/-- The page entries `ps` after `f` on those of the range `len` bytes from `dst` on of hosted rank `own`. -/
def Claims.Paged (own dst len : Nat) (f : Page → Page) (ps : Tab Page) : Tab Page := ps.map (fun e =>
  if (pagesOf dst len).any (fun g => pageKey own g == e.1) then (e.1, f e.2) else e)

/-- The sealed path, keys, receipts, reports and dumps (R171, R284, R337 to R340, R342, R345, R346, R348): a message starts only in
LOADED; its pages are sealed and closed to the partition's engines from then on; the engine takes one segment of each ready lane in
turn; a message that ends with OK leaves its plaintext and opens its pages, and any other end leaves zeros; each ends with a weight
entry. A key enters its slot only if every check passes, and with the ward's tag (R333). A receipt is decided when it is asked for,
and each command ends with its RESULT. That a message goes to the first hosted rank, and that a receipt is judged again when it ends,
is the model's (log entries 59 and 123). -/
def Obligations.SealedPathAndReports : Prop := ∀ (s : State) (fn : Fn) (n : Nat), s.wf = true →
  let p := s.part n
  let KeyFrom (u : State) (c : Instr) (x : KeyReg) : Prop := Claims.Answers c s (fun t =>
    t = { u with parts := t.parts, pmc := t.pmc, out := t.out, pcie := t.pcie } ∧ Claims.Becomes s n { p with key := x } t)
  (Claims.MayCommand s fn n →
    let a := p.key.decAddr.toNat
    let b := fetchAt s a 64
    let read := (accessed [(a, 64)]).run s
    let shut := Claims.Paged 0 (leAt b 8 8) (leAt b 0x10 8) (fun g => { g with sealed := true, closed := true }) p.run.pages
    let ready : Prop := p.load.state = .loaded ∧ p.key.decBusy = false ∧ s.sec.fwState ≠ .window
    (¬ ready → KeyFrom s (.decStart fn n) { p.key with decResult := 0x0F }) ∧
    (ready → decCheck s n b ≠ 0 → KeyFrom read (.decStart fn n) { p.key with decResult := BitVec.ofNat 8 (decCheck s n b) }) ∧
    (ready → decCheck s n b = 0 → Claims.Answers (.decStart fn n) s (fun t => t = { read with parts := t.parts, sec := t.sec } ∧
      Claims.Becomes s n { p with
        key := { p.key with
          decBusy := true, count := p.key.count + 1, msg := some {
            src := BitVec.ofNat 64 (leAt b 0 8), own := 0, dst := leAt b 8 8, len := leAt b 0x10 8, slot := leAt b 0x18 1,
            iv := slice b 0x20 12, tag := slice b 0x30 16, pos := 0, result := 0, cipher := [] } },
        run := { p.run with pages := shut } } t ∧
      (s.sec.decCur ≠ none → t.sec = s.sec) ∧
      (s.sec.decCur = none → (∀ m, m ≠ n → decReady s m = false) → t.sec = { s.sec with decCur := some n }))) ∧
    (p.key.keyBusy = true → exec (.install fn n) s = .next s) ∧
    (p.key.keyBusy = false → KeyFrom s (.install fn n) { p.key with
      keyBusy := true, keyWindow := decide (s.sec.fwState = .window) })) ∧
  (s.hub.stopped = false →
    (s.sec.decCur = none → exec .decSegmentEnd s = .next s) ∧
    (∀ m, n < 32 → s.sec.decCur = some n → p.key.msg = some m → m.result = 0 →
      let k := min 65536 (m.len - m.pos)
      let read := (accessed [(m.src.toNat + m.pos, k)]).run s
      Claims.Answers .decSegmentEnd s (fun t => t = { read with parts := t.parts, sec := t.sec, pmc := t.pmc } ∧
        Claims.Becomes s n { p with key := { p.key with
          msg := some { m with pos := m.pos + k, cipher := m.cipher ++ fetchAt s (m.src.toNat + m.pos) k } } } t ∧
        t.sec.decLast = n ∧ ((∀ j, j ≠ n → decReady s j = false) →
          t.sec.decCur = if m.pos + k < m.len then some n else none))) ∧
    (n < 32 → p.key.msg = none → exec (.decMessageEnd n) s = .next s) ∧
    (∀ m, n < 32 → p.key.msg = some m →
      let key := Tab.get [] p.key.slots m.slot
      let plain := if key = [] then [] else gcmCrypt key m.iv 0 m.cipher
      let ended (rc : BitVec 8) : KeyReg := { p.key with
        decBusy := false, decResult := rc, msg := none, weights := p.key.weights ++ [{
          slot := BitVec.ofNat 8 m.slot, result := rc, len := BitVec.ofNat 64 m.len,
          cipher := BitVec.ofNat 256 (beNat (sha256 m.cipher)), plain := BitVec.ofNat 256 (beNat (sha256 plain)) }] }
      let opened := Claims.Paged m.own m.dst m.len (fun g => { g with closed := false }) p.run.pages
      let Spoilt (rc : BitVec 8) : Prop := Claims.Answers (.decMessageEnd n) s (fun t =>
        Claims.Becomes s n { p with key := ended rc, run := { p.run with chDirty := (t.part n).run.chDirty } } t ∧
        ∀ g ∈ pagesOf m.dst m.pos, ∀ pg a, p.page m.own g = some pg →
          place s (pg.frame * pageSize) = .dram a → ∀ i < pageSize, t.store.mem.read (a + i) = 0)
      (m.result = 0 → m.pos < m.len → exec (.decMessageEnd n) s = .next s) ∧
      (∀ x, m.result = 0 → m.len ≤ m.pos → gcmTag key m.iv [] m.cipher = m.tag →
        Claims.Plain ((openPages n m.own m.dst m.len).run s) n m.own m.dst x plain.length →
        Claims.Answers (.decMessageEnd n) s (fun t =>
          Claims.Becomes s n { p with key := ended 0, run := { p.run with pages := opened } } t ∧ Claims.Stored s x plain t)) ∧
      (m.result = 0 → m.len ≤ m.pos → gcmTag key m.iv [] m.cipher ≠ m.tag → Spoilt 4) ∧
      (m.result ≠ 0 → Spoilt m.result)) ∧
    (n < 32 → p.key.keyBusy = false → exec (.secCommandDone (.key n)) s = .next s) ∧
    (n < 32 → p.key.keyBusy = true →
      let a := p.key.keyAddr.toNat
      let b := fetchAt s a 232
      let read := (accessed [(a, 232)]).run s
      (∀ k, keyCheck s n b = (0, some k) → KeyFrom read (.secCommandDone (.key n)) { p.key with
        keyBusy := false, keyResult := 0, slots := Tab.set [] p.key.slots (leAt b 4 1) k,
        slotWard := Tab.set 0 p.key.slotWard (leAt b 4 1) (BitVec.ofNat 16 (p.tag n)) }) ∧
      (∀ r, keyCheck s n b = (r, none) → KeyFrom read (.secCommandDone (.key n)) { p.key with
        keyBusy := false, keyResult := BitVec.ofNat 8 r })) ∧
    (let b := s.sec.rcptBlock
     let m := leAt b 0 1
     let waits : Prop := ∃ q ∈ (s.part m).run.reqs, q.op = receiptOp
     let rc := if s.sec.rcptCode = 0 then rcptCheck s (s.sec.rcptFn.getD 0) b else s.sec.rcptCode.toNat
     let bs := signed s.free (rcptBody s b)
     let done (t : State) : Prop := t.sec = { s.sec with rcptBusy := false, rcptResult := BitVec.ofNat 8 rc } ∧
       ∀ j, t.part j = if j = m ∧ m < 32 then { s.part j with run := { (s.part j).run with
         remoteBuf := (s.part j).run.remoteBuf.filter (fun e => e.1 != receiptOp) } } else s.part j
     (s.sec.rcptBusy = false ∨ waits → exec (.secCommandDone .receipt) s = .next s) ∧
     (s.sec.rcptBusy = true → ¬ waits → rc ≠ 0 → Claims.Answers (.secCommandDone .receipt) s (fun t =>
      done t ∧ t.store = s.store)) ∧
     (∀ h, s.sec.rcptBusy = true → ¬ waits → rc = 0 → Claims.InHost s s.sec.rcptOut.toNat h bs →
      Claims.Answers (.secCommandDone .receipt) s (fun t => done t ∧ Claims.HostGets s h bs t))) ∧
    (let b := fetchAt s s.sec.attReq.toNat 64
     let rc := reportCheck (s.sec.attFn.getD 0) b
     let bs := signed s.free (reportBody s b)
     let done (t : State) : Prop := t.sec = { s.sec with attBusy := false, attResult := BitVec.ofNat 8 rc } ∧ t.parts = s.parts
     (s.sec.attBusy = false → exec (.secCommandDone .report) s = .next s) ∧
     (s.sec.attBusy = true → rc ≠ 0 → Claims.Answers (.secCommandDone .report) s (fun t => done t ∧ t.store = s.store)) ∧
     (∀ h, s.sec.attBusy = true → rc = 0 → Claims.InHost s s.sec.attOut.toNat h bs →
      Claims.Answers (.secCommandDone .report) s (fun t => done t ∧ Claims.HostGets s h bs t))) ∧
    (s.sec.dumpBusy = false → exec .dumpDone s = .next s) ∧
    (∀ h, s.sec.dumpBusy = true → Claims.InHost s s.sec.dumpAddr.toNat h (dumpImage s) → Claims.Answers .dumpDone s (fun t =>
      t.sec = { s.sec with dumpBusy := false, dumpLen := BitVec.ofNat 32 (dumpImage s).length } ∧
      Claims.HostGets s h (dumpImage s) t ∧ t.parts = s.parts))) ∧
  (serving s = true → fnThere s fn = true →
    let who : Option Nat := if fnIdx fn = 0 then none else some (fnIdx fn)
    (s.sec.rcptBusy = true → exec (.issue fn) s = .next s) ∧
    (s.sec.rcptBusy = false →
      let a := s.sec.rcptReq.toNat
      let b := fetchAt s a 320
      let rc := if s.sec.fwState = .window then 0x0F else rcptCheck s (fnIdx fn) b
      let far := remoteParts (s.part (leAt b 0 1)) (leAt b 1 1) plainEngine (rcptRanges b (leAt b 2 1))
      Claims.Answers (.issue fn) s (fun t =>
        t.sec = { s.sec with rcptBusy := true, rcptFn := who, rcptBlock := b, rcptCode := BitVec.ofNat 8 rc } ∧
        (rc ≠ 0 ∨ (s.part (leAt b 0 1)).recd.replay = true ∨ far = [] →
          t = { (accessed [(a, 0x40 + 16 * min 16 (leAt b 2 1))]).run s with sec := t.sec }))) ∧
    (s.sec.attBusy = true → exec (.report fn) s = .next s) ∧
    (s.sec.attBusy = false → exec (.report fn) s = .next { s with sec := { s.sec with attBusy := true, attFn := who } }) ∧
    (isPf fn = true → exec (.dump fn) s = .next { s with sec := { s.sec with dumpBusy := true } }) ∧
    (isPf fn = false → exec (.dump fn) s = .next s))

/-- The bytes `bs` have been written at flash address `a`, and nothing else in any memory. -/
def Claims.Flashed (s : State) (a : Nat) (bs : List Byte) (t : State) : Prop :=
  t.store = { s.store with flash := t.store.flash } ∧ ∀ x, Tab.get flashDefault t.store.flash x =
    if a ≤ x ∧ x < a + bs.length then (bs[x - a]?).getD 0 else Tab.get flashDefault s.store.flash x

/-- Firmware (R343, R347, R348), the flight recorder's flush (R321, R322) and the boot flash (R398): an image is staged in the inactive
slot, activated at ACT_TIME at least 10 ms ahead, and cancelled before it; the window erases every key slot and its close makes
the pending image the active one. One flush runs at a time, and a fatal event during one asks for another. A sector other than 0xF50
cannot be written. That staging is abandoned on a bad image with its RESULT is DEDUCED (log entry 60). -/
def Obligations.FirmwareAndFlash : Prop := ∀ (s : State) (fn : Fn) (target : BitVec 2), s.wf = true →
  let x := s.sec
  let refused : State := { s with sec := { x with fwResult := 0x0F } }
  (Claims.Commands s fn →
    (let ok : Prop := x.fwState ≠ .staging ∧ x.fwState ≠ .window ∧ x.actAt = none
     (ok → exec (.stage fn target) s = .next { s with sec := { x with
      fwState := .staging, fwTarget := target, pendHub := 0, pendLink := 0 } }) ∧
     (¬ ok → exec (.stage fn target) s = .next refused)) ∧
    (let ok : Prop := x.fwState = .staged ∧ x.fwTarget = target ∧ s.tim.hall.toNat + 160000000 ≤ x.actTime.toNat
     (ok → exec (.activate fn target) s = .next { s with sec := { x with actAt := some x.actTime, fwResult := 0 } }) ∧
     (¬ ok → exec (.activate fn target) s = .next refused)) ∧
    (let ok : Prop := x.fwState = .staged ∧ x.fwTarget = target
     (ok → exec (.cancel fn target) s = .next { s with sec := { x with
      fwState := .none, fwResult := 0, actAt := none, pendHub := 0, pendLink := 0 } }) ∧
     (¬ ok → exec (.cancel fn target) s = .next refused)) ∧
    (s.flt.busy = true → exec (.fltFlush fn) s = .next s) ∧
    (s.flt.busy = false → exec (.fltFlush fn) s = .next { s with flt := { s.flt with
      busy := true, flushWr := s.flt.wr, flushHall := s.tim.hall } })) ∧
  (s.hub.stopped = false →
    let t := x.fwTarget.toNat
    let head := fetchAt s x.fwAddr.toNat 256
    let len := leAt head 8 4
    let body := fetchAt s (x.fwAddr.toNat + 256) len
    let Done (y : Sec) (P : State → Prop) (c : Instr) : Prop := Claims.Answers c s (fun u => u.sec = y ∧ P u ∧
      u = { s with sec := u.sec, store := u.store, out := u.out, pcie := u.pcie, kwy := u.kwy })
    (x.fwState ≠ .staging → exec .stageDone s = .next s) ∧
    (x.fwState = .staging → t = 1 ∨ t = 2 → len ≤ 3997440 →
      (imageCheck s t head body = 0 → Done { x with
        fwState := .staged, fwResult := 0, pendHub := if t = 1 then imageDigest head body else 0,
        pendLink := if t = 1 then 0 else imageDigest head body }
        (Claims.Flashed s (slotBase t (1 - activeSlot s t)) (head ++ body)) .stageDone) ∧
      (imageCheck s t head body ≠ 0 → Done { x with
        fwState := .none, fwResult := BitVec.ofNat 8 (imageCheck s t head body) } (fun u => u.store = s.store) .stageDone)) ∧
    (x.fwState = .staging → 3997440 < len → Done { x with fwState := .none, fwResult := 1 }
      (fun u => u.store = s.store) .stageDone) ∧
    (x.actAt = none → exec .activationWindowOpen s = .next s) ∧
    (∀ at?, x.actAt = some at? → x.fwState = .staged →
      (s.tim.hall < at? → exec .activationWindowOpen s = .next s) ∧
      (at? ≤ s.tim.hall → Claims.Answers .activationWindowOpen s (fun u => u = { s with sec := u.sec, parts := u.parts } ∧
        u.sec = { x with fwState := .window, transition := true, actAt := none } ∧
        ∀ n < 32, (u.part n).key.slots = [] ∧ (u.part n).run = (s.part n).run))) ∧
    (x.fwState ≠ .window → exec .activationWindowClose s = .next s) ∧
    (x.fwState = .window → Done { x with
      hubDigest := if t = 1 then x.pendHub else x.hubDigest, linkDigest := if t = 1 then x.linkDigest else x.pendLink,
      pendHub := 0, pendLink := 0, fwState := .none, transition := false, mepoch := x.mepoch + 1 }
      (Claims.Flashed s (bootDir s).2 (newDir (bootDir s).1 t (1 - activeSlot s t))) .activationWindowClose)) ∧
  (∀ ok, s.flt.busy = false → exec (.fltFlushDone ok) s = .next s) ∧
  (s.flt.busy = true → s.flt.again = false → Claims.Answers (.fltFlushDone true) s (fun u =>
    u.flt = { s.flt with busy := false, again := false, err := false } ∧
    Claims.Flashed s (fltSlot (flushTarget s).1) (flushBytes s (flushTarget s).2) u ∧
    u = { s with flt := u.flt, store := u.store })) ∧
  (s.flt.busy = true → s.flt.again = false → Claims.Answers (.fltFlushDone false) s (fun u =>
    u.flt = { s.flt with busy := false, again := false, err := true } ∧
    u = { s with flt := u.flt, store := u.store, free := u.free } ∧
    Claims.Flashed s (fltSlot (flushTarget s).1) (leBytes 64 (Config.freeNat s.free)) u)) ∧
  (s.flt.busy = true → s.flt.again = true → ∀ ok, Claims.Answers (.fltFlushDone ok) s (fun u =>
    u.flt = { s.flt with busy := true, again := false, err := !ok, flushWr := s.flt.wr, flushHall := s.tim.hall })) ∧
  (s.hub.stopped = false → (s.hub.ready = true ∧ isPf fn = true ∧ fnThere s fn = true) ∨ (fn = .mgmt ∧ 3 ≤ s.hub.stage.toNat) →
    ∀ sector : BitVec 12,
    let m := s.mgmt
    let result (r : BitVec 8) : State := { s with mgmt := { m with flashResult := r } }
    let started (op : BitVec 2) : State := { s with mgmt := { m with flashBusy := true, flashOp := op, flashSector := sector } }
    (m.flashBusy = true → ∀ c ∈ [Instr.flashRead fn sector, .flashErase fn sector, .flashProgram fn sector],
      exec c s = .next (result 0x0F)) ∧
    (m.flashBusy = false → exec (.flashRead fn sector) s = .next (started 1)) ∧
    (m.flashBusy = false → sector ≠ 0xF50 → exec (.flashErase fn sector) s = .next (result 3) ∧
      exec (.flashProgram fn sector) s = .next (result 3)) ∧
    (m.flashBusy = false → sector = 0xF50 → x.fwState = .window → exec (.flashErase fn sector) s = .next (result 0x0F) ∧
      exec (.flashProgram fn sector) s = .next (result 0x0F)) ∧
    (m.flashBusy = false → sector = 0xF50 → x.fwState ≠ .window → exec (.flashErase fn sector) s = .next (started 2) ∧
      exec (.flashProgram fn sector) s = .next (started 3))) ∧
  (s.hub.stopped = false →
    let m := s.mgmt
    let a := m.flashSector.toNat * 4096
    let idle : Prop := s.flt.busy = false ∧ x.fwState ≠ .staging
    (m.flashBusy = false ∨ ¬ idle → exec .flashCmdDone s = .next s) ∧
    (m.flashBusy = true → idle → m.flashOp = 1 → m.flashSector.toNat < 0xF51 ∨ 0xF7F < m.flashSector.toNat →
      Claims.Answers .flashCmdDone s (fun u => u.mgmt = { m with flashBusy := false, flashResult := 0, flashBuf := u.mgmt.flashBuf } ∧
        (∀ i < 4096, u.mgmt.flashBuf.read i = Tab.get flashDefault s.store.flash (a + i)) ∧ u = { s with mgmt := u.mgmt })) ∧
    (m.flashBusy = true → idle → m.flashOp = 2 → Claims.Answers .flashCmdDone s (fun u =>
      u.mgmt = { m with flashBusy := false, flashResult := 0 } ∧ Claims.Flashed s a (List.replicate 4096 0xFF) u)) ∧
    (m.flashBusy = true → idle → m.flashOp = 3 → Claims.Answers .flashCmdDone s (fun u =>
      u.mgmt = { m with flashBusy := false, flashResult := 0 } ∧ Claims.Flashed s a (m.flashBuf.readN 0 4096) u)))

/-! ### The host interface -/

/-- Host traffic in chunks and its ports (R389, R390, R401): a chunk that ends lands its bytes and frees its port; one that times out or
loses its port passes to the other; a port that leaves L0 while READY sets the alert PCIE_DOWN, and one that reaches it takes what
waits. -/
def Obligations.HostTrafficMovesInChunks : Prop := ∀ (s : State) (port : Nat) (c : Chunk), s.wf = true → port < 2 →
  let other := 1 - port
  let up := portUp s port
  let down (p : Pcie) : Pcie := if port = 0 then { p with up0 := false } else { p with up1 := false }
  (activeChunk s port = none → exec (.hdmaChunkComplete port) s = .next s ∧ exec (.hdmaChunkTimeout port) s = .next s) ∧
  (s.pcie.chunks = [c] → c.active = true → c.port = port → c.requester < 33 →
    (portUp s other = true → Claims.Answers (.hdmaChunkTimeout port) s (fun t => t = { s with pcie := t.pcie } ∧
      t.pcie.chunks = [{ c with port := other }])) ∧
    (portUp s other = false → up = true → Claims.Answers (.hdmaChunkTimeout port) s (fun t => t = { s with pcie := t.pcie } ∧
      t.pcie.chunks = [c])) ∧
    (portUp s other = false → up = false → Claims.Answers (.hdmaChunkTimeout port) s (fun t => t = { s with pcie := t.pcie } ∧
      t.pcie.chunks = [{ c with port := other, active := false }])) ∧
    (chunkOp s c = none → Claims.Answers (.hdmaChunkComplete port) s (fun t => t = { s with pcie := t.pcie, pmc := t.pmc } ∧
      t.pcie.chunks = [])) ∧
    (∀ o x, let p := s.part c.requester
      chunkOp s c = some o → o.id = c.op → landsChunks o = true → c.out = false → p.recd.fp = false → p.recd.replay = false →
      s.hub.debugMode = false → Claims.Plain s c.requester c.own (chunkAddr p o c) x c.len →
      Claims.Answers (.hdmaChunkComplete port) s (fun t => t.pcie.chunks = [] ∧ (∀ m, t.part m = s.part m) ∧
        Claims.Stored s x (s.store.host.readN c.addr c.len) t)) ∧
    (up = true → portUp s other = true → Claims.Answers (.pciePortDown port) s (fun t =>
      t.pcie.chunks = [{ c with port := other }] ∧ portUp t port = false ∧ t.parts = s.parts ∧
      (s.hub.ready = true → bit t.hub.alert 2 = true) ∧ (s.hub.ready = false → t.hub = s.hub)))) ∧
  (up = false → exec (.pciePortDown port) s = .next s) ∧
  (up = true → s.pcie.chunks = [] →
    (s.hub.ready = false → exec (.pciePortDown port) s = .next { s with pcie := down s.pcie }) ∧
    (s.hub.ready = true → Claims.Answers (.pciePortDown port) s (fun t => portUp t port = false ∧
      portUp t other = portUp s other ∧ t.hub = { s.hub with alert := s.hub.alert ||| 4 } ∧
      t = { s with pcie := t.pcie, hub := t.hub, out := t.out }))) ∧
  (up = true ∨ s.hub.stopped = true ∨ s.hub.perst = true → exec (.pciePortUp port) s = .next s) ∧
  (up = false → s.hub.stopped = false → s.hub.perst = false →
    (s.pcie.chunks = [] → Claims.Answers (.pciePortUp port) s (fun t => t = { s with pcie := t.pcie } ∧ portUp t port = true ∧
      portUp t other = portUp s other ∧ t.pcie.chunks = [])) ∧
    (s.pcie.chunks = [c] → c.active = false → c.requester < 33 → c.port < 2 → portUp s other = false →
      Claims.Answers (.pciePortUp port) s (fun t => t.pcie.chunks = [{ c with active := true, port := port }] ∧
        portUp t port = true)))

/-- Accesses from outside (R175, R374, R382, R385, R417): a configuration request is answered with Request Retry Status for one second;
an access of another size or alignment completes with Unsupported Request and has no effect; the aperture reaches local addresses:
DRAM reads and takes bytes, an address where nothing is mapped reads zeros, drops writes and is counted, and a register is the
register itself. -/
def Obligations.OuterAccessesReachTheMap : Prop := ∀ (s : State) (fn : Fn) (v : BitVec 64), s.wf = true →
  (∀ port, s.hub.stopped = true ∨ s.hub.perst = true → exec (.configRequest port fn) s = .next s) ∧
  (∀ port, s.hub.stopped = false → s.hub.perst = false → isPf fn = true → exec (.configRequest port fn) s =
    .next { s with out := { s.out with
      retry := decide ((s.tim.hall - s.hub.perstSince).toNat < 16000000000), unsupported := false, data := 0 } }) ∧
  (∀ port k, s.hub.stopped = false → s.hub.perst = false → exec (.configRequest port (.vf k)) s =
    .next { s with out := { s.out with
      retry := decide ((s.tim.hall - s.hub.perstSince).toNat < 16000000000),
      unsupported := !(port == 0 && vfExists s.pcie k), data := 0 } }) ∧
  (∀ (off : BitVec 64) (size : Nat) (w : Bool), s.hub.stopped = false →
    let refused : State := { s with out := { s.out with unsupported := true, data := 0 } }
    (size = 4 ∨ size = 8 → off.toNat % size = 0 → exec (.unsupportedAccess fn off size w) s = .next s) ∧
    (size = 4 ∨ size = 8 → off.toNat % size ≠ 0 → exec (.unsupportedAccess fn off size w) s = .next refused) ∧
    (size ∉ [1, 2, 4, 8] → exec (.unsupportedAccess fn off size w) s = .next refused) ∧
    (size = 1 ∨ size = 2 → byteRegion fn off.toNat = false → exec (.unsupportedAccess fn off size w) s = .next refused) ∧
    (byteRegion fn off.toNat = true → exec (.unsupportedAccess fn off 1 w) s = .next s)) ∧
  (Claims.Commands s .pf → ∀ (off : BitVec 32) (size : Nat), 1 ≤ size → size ≤ 8 →
    let a := localOf s (s.hub.aper.toNat + off.toNat)
    let memory : Prop := ∀ i < size, place s (a + i) = .dram (a + i) ∧ sealedAt s (a + i) = false
    let nothing : Prop := ∀ i < size, place s (a + i) = .bad
    (memory → Claims.Answers (.apertureAccess off size none) s (fun t =>
      t.out = { s.out with data := BitVec.ofNat 64 (leNat (s.store.mem.readN a size)), unsupported := false } ∧
      t = { s with out := t.out, pmc := t.pmc })) ∧
    (memory → (∀ n, (s.part n).run.pages = []) → Claims.Answers (.apertureAccess off size (some v)) s (fun t =>
      Claims.Stored s a (leBytes size v.toNat) t ∧ t = { s with out := t.out, pmc := t.pmc, store := t.store })) ∧
    (nothing → Claims.Answers (.apertureAccess off size none) s (fun t => t.out.data = 0 ∧
      t.kwy = { s.kwy with badaddr := satAdd s.kwy.badaddr 1 } ∧ t = { s with out := t.out, kwy := t.kwy })) ∧
    (nothing → Claims.Answers (.apertureAccess off size (some v)) s (fun t =>
      t.kwy = { s.kwy with badaddr := satAdd s.kwy.badaddr 1 } ∧ t = { s with out := t.out, kwy := t.kwy })) ∧
    (∀ r < 2 ^ 32, size = 4 → r % 4 = 0 → place s a = .reg r → exec (.apertureAccess off 4 (some v)) s =
      exec (.registerWrite .pf (BitVec.ofNat 32 r) (lo32 v)) { s with out := { s.out with unsupported := false } }) ∧
    (∀ r, place s a = .reg r → sizeOk .pf r size = false → Claims.Answers (.apertureAccess off size (some v)) s (fun t =>
      t = { s with out := { s.out with unsupported := true } })))

/-- Reads that do more than return their value (R5, R36, R37, R350, R358): the low word of a 64 bit register latches its high word for the
reading function, a counter's read stamps the hall time at which it is sampled, and a read of `MGMT_ERR` clears it. -/
def Obligations.ReadsLatchStampAndClear : Prop := ∀ (s : State) (fn : Fn), s.wf = true → s.hub.stopped = false →
  let Reads (c : Instr) (data : BitVec 32) (high : Nat × BitVec 32) (P : State → Prop) : Prop := Claims.Answers c s (fun t =>
    t.out = { s.out with data := data.setWidth 64, unsupported := false } ∧
    t.pcie = { s.pcie with latches := Tab.set 0 s.pcie.latches (latchKey fn high.1) high.2 } ∧ P t)
  let Rest (t : State) : Prop := t = { s with out := t.out, pcie := t.pcie }
  (isPf fn = false → exec (.hallTimeRead fn) s = .next s) ∧
  (Claims.Serves s fn 0x100008 → Reads (.hallTimeRead fn) (lo32 s.tim.hall) (0x10000C, hi32 s.tim.hall) Rest) ∧
  (∀ n < 32, let d := s.dom n
    let off (r : Nat) : Nat := 0x101000 + n * 0x40 + r
    (Claims.Serves s fn (off 8) → Reads (.lowWordRead fn (BitVec.ofNat 32 (off 8))) (lo32 d.origin) (off 0xC, hi32 d.origin) Rest) ∧
    (Claims.Serves s fn (off 0x10) → Reads (.lowWordRead fn (BitVec.ofNat 32 (off 0x10))) (lo32 (d.heldNow s.tim.hall))
      (off 0x14, hi32 (d.heldNow s.tim.hall)) Rest) ∧
    (Claims.Serves s fn (off 0x18) → Reads (.lowWordRead fn (BitVec.ofNat 32 (off 0x18))) (lo32 d.psc) (off 0x1C, hi32 d.psc) Rest)) ∧
  (∀ (off : BitVec 32) (k far : Nat), Claims.Serves s fn off.toNat → off.toNat % 8 = 0 → counterHere s off.toNat = some (k, far) →
    let x := counterVal s false k
    Reads (.pmcCounterRead fn off) (x.setWidth 32) (off.toNat + 4, (x >>> 32).setWidth 32) (fun t =>
      t.pmc = { s.pmc with rstamp := Tab.set 0 s.pmc.rstamp (fnLatch fn) (s.tim.hall + BitVec.ofNat 64 ((24 + 12 * far) * 16)) } ∧
      t = { s with out := t.out, pcie := t.pcie, pmc := t.pmc })) ∧
  (∀ e < 256, counterHere s (0x580000 + 8 * e) = some (ctrHub e, 0)) ∧
  (∀ c < 20, ∀ e < 0xC0, ∃ far, counterHere s (0x500000 + c * 0x1000 + 8 * e) = some (ctrCol c e, far)) ∧
  (Claims.Serves s fn 0x5000000 → Claims.Answers (.rcRegisterRead fn 0x5000000) s (fun t =>
    t.mgmt = { s.mgmt with frame := 0, short := 0, overrun := 0, badcmd := 0 } ∧ t.out = { s.out with
      data := BitVec.ofNat 64 (s.mgmt.frame.toNat * 2 ^ 24 + s.mgmt.short.toNat * 2 ^ 16 + s.mgmt.overrun.toNat * 2 ^ 8 +
        s.mgmt.badcmd.toNat), unsupported := false } ∧ t = { s with out := t.out, mgmt := t.mgmt }))

/-! ### The management port and JTAG -/

/-- The SPI target (R394 to R397): a READ carries its words and then all ones, a WRITE is a register or memory write of each word, a
STATUS frame carries the status word, an unknown command nothing; each framing error is counted where R396 says, and saturates. -/
def Obligations.ManagementFrames : Prop := ∀ (s : State) (addr : BitVec 24) (v : Word) (extra : Nat), s.wf = true →
  let A := addr.toNat
  let m := s.mgmt
  let ones (k : Nat) : List Word := List.replicate k 0xFFFFFFFF
  let counted : Mgmt := if extra = 0 then m else { m with overrun := satAdd m.overrun 1 }
  (s.hub.stopped = true → ∀ c ∈ [Instr.spiRead addr 1 extra, .spiWrite addr [v], .spiStatus extra, .spiFrameError true,
    .spiUnknownCommand v v 3], exec c s = .next s) ∧
  (s.hub.stopped = false →
    (∀ count, Claims.Answers (.spiRead addr count extra) s (fun t => t.out.miso.length = count + extra ∧
      t.out.miso.drop count = ones extra ∧ (0 < count → t.out.miso.head? = some (spiWord s A)))) ∧
    (let r := m.bank.toNat * 0x2000000 + A * 4
     A < 0x7FF800 → spiWord s A = busRead s .mgmt r ∧
      (latchHigh s .mgmt r = none → (r % 8 = 0 → counterHere s r = none) → r ≠ 0x5000000 →
        Claims.Answers (.spiRead addr 1 extra) s (fun t =>
          t = { s with out := { s.out with miso := busRead s .mgmt r :: ones extra }, mgmt := counted })) ∧
      exec (.spiWrite addr [v]) s = exec (.registerWrite .mgmt (BitVec.ofNat 32 r) v) s) ∧
    (let r := 0x5000000 + (A - 0x7FF800) * 4
     0x7FF800 ≤ A → A < 0x800000 → spiWord s A = busRead s .mgmt r ∧
      exec (.spiWrite addr [v]) s = exec (.registerWrite .mgmt (BitVec.ofNat 32 r) v) s) ∧
    (let a := localOf s (m.aper.toNat + (A - 0x800000) * 4)
     0x800000 ≤ A → (∀ i < 4, place s (a + i) = .dram (a + i) ∧ sealedAt s (a + i) = false) →
      spiWord s A = BitVec.ofNat 32 (leNat (s.store.mem.readN a 4)) ∧
      ((∀ n, (s.part n).run.pages = []) → Claims.Answers (.spiWrite addr [v]) s (fun t =>
        Claims.Stored s a (leBytes 4 v.toNat) t ∧ t = { s with store := t.store, pmc := t.pmc, out := t.out }))) ∧
    (∀ (u : State) (w : Word), exec (.spiWrite addr [v]) s = .next u → u.hub.stopped = false →
      exec (.spiWrite addr [v, w]) s = exec (.spiWrite (addr + 1) [w]) u) ∧
    (exec (.spiStatus extra) s = .next { s with
      out := { s.out with miso := BitVec.ofNat 32 (
        (if s.hub.ready then 2 ^ 31 else 0) + (if s.hub.bootFail then 2 ^ 30 else 0) + (if s.pcie.up0 then 2 ^ 29 else 0) +
        (if s.pcie.up1 then 2 ^ 28 else 0) + (if alertLow s then 2 ^ 27 else 0) + (if s.hub.repl = 0 then 0 else 2 ^ 26) +
        s.hub.stage.toNat * 2 ^ 16) :: ones extra }, mgmt := counted }) ∧
    (∀ w0 w1 : Word, ∀ words,
      let known : Prop := ((fld w0 24 8 = 0x0B ∨ fld w0 24 8 = 0x02) ∧ fld w1 16 16 = 0) ∨ (w0 = 0x05000000 ∧ w1 = 0)
      (known → exec (.spiUnknownCommand w0 w1 words) s = .next s) ∧
      (¬ known → exec (.spiUnknownCommand w0 w1 words) s = .next { s with
        out := { s.out with miso := ones words }, mgmt := { m with badcmd := satAdd m.badcmd 1 } })) ∧
    exec (.spiFrameError true) s = .next { s with mgmt := { m with frame := satAdd m.frame 1, short := satAdd m.short 1 } } ∧
    exec (.spiFrameError false) s = .next { s with mgmt := { m with frame := satAdd m.frame 1 } })

/-- The JTAG port (R399): IDCODE shifts out the identification, EXTEST drives the pins only in STAGE 2 or below or after BOOT_FAIL and
otherwise acts as BYPASS, SAMPLE/PRELOAD leaves the pins to the device, and a private instruction outside debug mode acts as BYPASS. -/
def Obligations.JtagInstructions : Prop := ∀ (s : State) (pins : List Bool) (ir : Nat),
  let bypass : State := { s with mgmt := { s.mgmt with ir := irBypass, bypassBit := false, pinsDriven := false } }
  let open? : Prop := s.hub.stage.toNat ≤ 2 ∨ s.hub.bootFail = true
  exec .bypass s = .next bypass ∧
  Claims.Answers .idcode s (fun t => t.out = { s.out with tdo := t.out.tdo } ∧ fld t.out.tdo 0 1 = 1 ∧
    fld t.out.tdo 12 16 = 0x2596 ∧ fld t.out.tdo 28 4 = (s.fuses.revMajor - 9).toNat ∧
    t.mgmt = { s.mgmt with ir := irIdcode, idcode := t.out.tdo, pinsDriven := false } ∧ t = { s with mgmt := t.mgmt, out := t.out }) ∧
  Claims.Answers (.samplePreload pins) s (fun t => t.mgmt = { s.mgmt with ir := irSample, bsr := pins, pinsDriven := false } ∧
    t = { s with mgmt := t.mgmt, out := { s.out with scan := t.out.scan }, free := s.free + 1 }) ∧
  (open? → exec (.extest pins) s = .next { s with mgmt := { s.mgmt with ir := irExtest, bsr := pins, pinsDriven := true } }) ∧
  (¬ open? → exec (.extest pins) s = .next bypass) ∧
  (s.hub.debugMode = false → exec (.jtagPrivate ir) s = .next bypass)
end

