-- ==== Sys2Proof/Laws/State.lean ====
section
/-! SUPPORT. The fields of State after each elementary effect: one lemma per field per effect, true by computation. -/
namespace Sys2Proof.Machine

variable (s : State)

@[simp] theorem apply_hub_fuses (h : Hub) : ((Eff.hub h).apply s).fuses = s.fuses := rfl
@[simp] theorem apply_hub_hub (h : Hub) : ((Eff.hub h).apply s).hub = h := rfl
@[simp] theorem apply_hub_tim (h : Hub) : ((Eff.hub h).apply s).tim = s.tim := rfl
@[simp] theorem apply_hub_kwy (h : Hub) : ((Eff.hub h).apply s).kwy = s.kwy := rfl
@[simp] theorem apply_hub_sec (h : Hub) : ((Eff.hub h).apply s).sec = s.sec := rfl
@[simp] theorem apply_hub_flt (h : Hub) : ((Eff.hub h).apply s).flt = s.flt := rfl
@[simp] theorem apply_hub_pmc (h : Hub) : ((Eff.hub h).apply s).pmc = s.pmc := rfl
@[simp] theorem apply_hub_mgmt (h : Hub) : ((Eff.hub h).apply s).mgmt = s.mgmt := rfl
@[simp] theorem apply_hub_pcie (h : Hub) : ((Eff.hub h).apply s).pcie = s.pcie := rfl
@[simp] theorem apply_hub_store (h : Hub) : ((Eff.hub h).apply s).store = s.store := rfl
@[simp] theorem apply_hub_out (h : Hub) : ((Eff.hub h).apply s).out = s.out := rfl
@[simp] theorem apply_hub_doms (h : Hub) : ((Eff.hub h).apply s).doms = s.doms := rfl
@[simp] theorem apply_hub_parts (h : Hub) : ((Eff.hub h).apply s).parts = s.parts := rfl
@[simp] theorem apply_hub_hasps (h : Hub) : ((Eff.hub h).apply s).hasps = s.hasps := rfl
@[simp] theorem apply_hub_queues (h : Hub) : ((Eff.hub h).apply s).queues = s.queues := rfl
@[simp] theorem apply_hub_cells (h : Hub) : ((Eff.hub h).apply s).cells = s.cells := rfl
@[simp] theorem apply_hub_uus (h : Hub) : ((Eff.hub h).apply s).uus = s.uus := rfl
@[simp] theorem apply_hub_cols (h : Hub) : ((Eff.hub h).apply s).cols = s.cols := rfl
@[simp] theorem apply_hub_links (h : Hub) : ((Eff.hub h).apply s).links = s.links := rfl
@[simp] theorem apply_hub_dies (h : Hub) : ((Eff.hub h).apply s).dies = s.dies := rfl
@[simp] theorem apply_hub_clxs (h : Hub) : ((Eff.hub h).apply s).clxs = s.clxs := rfl
@[simp] theorem apply_hub_free (h : Hub) : ((Eff.hub h).apply s).free = s.free := rfl
@[simp] theorem apply_hub_pending (h : Hub) : ((Eff.hub h).apply s).pending = s.pending := rfl
@[simp] theorem apply_tim_fuses (t : Tim) : ((Eff.tim t).apply s).fuses = s.fuses := rfl
@[simp] theorem apply_tim_hub (t : Tim) : ((Eff.tim t).apply s).hub = s.hub := rfl
@[simp] theorem apply_tim_tim (t : Tim) : ((Eff.tim t).apply s).tim = t := rfl
@[simp] theorem apply_tim_kwy (t : Tim) : ((Eff.tim t).apply s).kwy = s.kwy := rfl
@[simp] theorem apply_tim_sec (t : Tim) : ((Eff.tim t).apply s).sec = s.sec := rfl
@[simp] theorem apply_tim_flt (t : Tim) : ((Eff.tim t).apply s).flt = s.flt := rfl
@[simp] theorem apply_tim_pmc (t : Tim) : ((Eff.tim t).apply s).pmc = s.pmc := rfl
@[simp] theorem apply_tim_mgmt (t : Tim) : ((Eff.tim t).apply s).mgmt = s.mgmt := rfl
@[simp] theorem apply_tim_pcie (t : Tim) : ((Eff.tim t).apply s).pcie = s.pcie := rfl
@[simp] theorem apply_tim_store (t : Tim) : ((Eff.tim t).apply s).store = s.store := rfl
@[simp] theorem apply_tim_out (t : Tim) : ((Eff.tim t).apply s).out = s.out := rfl
@[simp] theorem apply_tim_doms (t : Tim) : ((Eff.tim t).apply s).doms = s.doms := rfl
@[simp] theorem apply_tim_parts (t : Tim) : ((Eff.tim t).apply s).parts = s.parts := rfl
@[simp] theorem apply_tim_hasps (t : Tim) : ((Eff.tim t).apply s).hasps = s.hasps := rfl
@[simp] theorem apply_tim_queues (t : Tim) : ((Eff.tim t).apply s).queues = s.queues := rfl
@[simp] theorem apply_tim_cells (t : Tim) : ((Eff.tim t).apply s).cells = s.cells := rfl
@[simp] theorem apply_tim_uus (t : Tim) : ((Eff.tim t).apply s).uus = s.uus := rfl
@[simp] theorem apply_tim_cols (t : Tim) : ((Eff.tim t).apply s).cols = s.cols := rfl
@[simp] theorem apply_tim_links (t : Tim) : ((Eff.tim t).apply s).links = s.links := rfl
@[simp] theorem apply_tim_dies (t : Tim) : ((Eff.tim t).apply s).dies = s.dies := rfl
@[simp] theorem apply_tim_clxs (t : Tim) : ((Eff.tim t).apply s).clxs = s.clxs := rfl
@[simp] theorem apply_tim_free (t : Tim) : ((Eff.tim t).apply s).free = s.free := rfl
@[simp] theorem apply_tim_pending (t : Tim) : ((Eff.tim t).apply s).pending = s.pending := rfl
@[simp] theorem apply_kwy_fuses (k : Kwy) : ((Eff.kwy k).apply s).fuses = s.fuses := rfl
@[simp] theorem apply_kwy_hub (k : Kwy) : ((Eff.kwy k).apply s).hub = s.hub := rfl
@[simp] theorem apply_kwy_tim (k : Kwy) : ((Eff.kwy k).apply s).tim = s.tim := rfl
@[simp] theorem apply_kwy_kwy (k : Kwy) : ((Eff.kwy k).apply s).kwy = k := rfl
@[simp] theorem apply_kwy_sec (k : Kwy) : ((Eff.kwy k).apply s).sec = s.sec := rfl
@[simp] theorem apply_kwy_flt (k : Kwy) : ((Eff.kwy k).apply s).flt = s.flt := rfl
@[simp] theorem apply_kwy_pmc (k : Kwy) : ((Eff.kwy k).apply s).pmc = s.pmc := rfl
@[simp] theorem apply_kwy_mgmt (k : Kwy) : ((Eff.kwy k).apply s).mgmt = s.mgmt := rfl
@[simp] theorem apply_kwy_pcie (k : Kwy) : ((Eff.kwy k).apply s).pcie = s.pcie := rfl
@[simp] theorem apply_kwy_store (k : Kwy) : ((Eff.kwy k).apply s).store = s.store := rfl
@[simp] theorem apply_kwy_out (k : Kwy) : ((Eff.kwy k).apply s).out = s.out := rfl
@[simp] theorem apply_kwy_doms (k : Kwy) : ((Eff.kwy k).apply s).doms = s.doms := rfl
@[simp] theorem apply_kwy_parts (k : Kwy) : ((Eff.kwy k).apply s).parts = s.parts := rfl
@[simp] theorem apply_kwy_hasps (k : Kwy) : ((Eff.kwy k).apply s).hasps = s.hasps := rfl
@[simp] theorem apply_kwy_queues (k : Kwy) : ((Eff.kwy k).apply s).queues = s.queues := rfl
@[simp] theorem apply_kwy_cells (k : Kwy) : ((Eff.kwy k).apply s).cells = s.cells := rfl
@[simp] theorem apply_kwy_uus (k : Kwy) : ((Eff.kwy k).apply s).uus = s.uus := rfl
@[simp] theorem apply_kwy_cols (k : Kwy) : ((Eff.kwy k).apply s).cols = s.cols := rfl
@[simp] theorem apply_kwy_links (k : Kwy) : ((Eff.kwy k).apply s).links = s.links := rfl
@[simp] theorem apply_kwy_dies (k : Kwy) : ((Eff.kwy k).apply s).dies = s.dies := rfl
@[simp] theorem apply_kwy_clxs (k : Kwy) : ((Eff.kwy k).apply s).clxs = s.clxs := rfl
@[simp] theorem apply_kwy_free (k : Kwy) : ((Eff.kwy k).apply s).free = s.free := rfl
@[simp] theorem apply_kwy_pending (k : Kwy) : ((Eff.kwy k).apply s).pending = s.pending := rfl
@[simp] theorem apply_sec_fuses (x : Sec) : ((Eff.sec x).apply s).fuses = s.fuses := rfl
@[simp] theorem apply_sec_hub (x : Sec) : ((Eff.sec x).apply s).hub = s.hub := rfl
@[simp] theorem apply_sec_tim (x : Sec) : ((Eff.sec x).apply s).tim = s.tim := rfl
@[simp] theorem apply_sec_kwy (x : Sec) : ((Eff.sec x).apply s).kwy = s.kwy := rfl
@[simp] theorem apply_sec_sec (x : Sec) : ((Eff.sec x).apply s).sec = x := rfl
@[simp] theorem apply_sec_flt (x : Sec) : ((Eff.sec x).apply s).flt = s.flt := rfl
@[simp] theorem apply_sec_pmc (x : Sec) : ((Eff.sec x).apply s).pmc = s.pmc := rfl
@[simp] theorem apply_sec_mgmt (x : Sec) : ((Eff.sec x).apply s).mgmt = s.mgmt := rfl
@[simp] theorem apply_sec_pcie (x : Sec) : ((Eff.sec x).apply s).pcie = s.pcie := rfl
@[simp] theorem apply_sec_store (x : Sec) : ((Eff.sec x).apply s).store = s.store := rfl
@[simp] theorem apply_sec_out (x : Sec) : ((Eff.sec x).apply s).out = s.out := rfl
@[simp] theorem apply_sec_doms (x : Sec) : ((Eff.sec x).apply s).doms = s.doms := rfl
@[simp] theorem apply_sec_parts (x : Sec) : ((Eff.sec x).apply s).parts = s.parts := rfl
@[simp] theorem apply_sec_hasps (x : Sec) : ((Eff.sec x).apply s).hasps = s.hasps := rfl
@[simp] theorem apply_sec_queues (x : Sec) : ((Eff.sec x).apply s).queues = s.queues := rfl
@[simp] theorem apply_sec_cells (x : Sec) : ((Eff.sec x).apply s).cells = s.cells := rfl
@[simp] theorem apply_sec_uus (x : Sec) : ((Eff.sec x).apply s).uus = s.uus := rfl
@[simp] theorem apply_sec_cols (x : Sec) : ((Eff.sec x).apply s).cols = s.cols := rfl
@[simp] theorem apply_sec_links (x : Sec) : ((Eff.sec x).apply s).links = s.links := rfl
@[simp] theorem apply_sec_dies (x : Sec) : ((Eff.sec x).apply s).dies = s.dies := rfl
@[simp] theorem apply_sec_clxs (x : Sec) : ((Eff.sec x).apply s).clxs = s.clxs := rfl
@[simp] theorem apply_sec_free (x : Sec) : ((Eff.sec x).apply s).free = s.free := rfl
@[simp] theorem apply_sec_pending (x : Sec) : ((Eff.sec x).apply s).pending = s.pending := rfl
@[simp] theorem apply_flt_fuses (f : Flt) : ((Eff.flt f).apply s).fuses = s.fuses := rfl
@[simp] theorem apply_flt_hub (f : Flt) : ((Eff.flt f).apply s).hub = s.hub := rfl
@[simp] theorem apply_flt_tim (f : Flt) : ((Eff.flt f).apply s).tim = s.tim := rfl
@[simp] theorem apply_flt_kwy (f : Flt) : ((Eff.flt f).apply s).kwy = s.kwy := rfl
@[simp] theorem apply_flt_sec (f : Flt) : ((Eff.flt f).apply s).sec = s.sec := rfl
@[simp] theorem apply_flt_flt (f : Flt) : ((Eff.flt f).apply s).flt = f := rfl
@[simp] theorem apply_flt_pmc (f : Flt) : ((Eff.flt f).apply s).pmc = s.pmc := rfl
@[simp] theorem apply_flt_mgmt (f : Flt) : ((Eff.flt f).apply s).mgmt = s.mgmt := rfl
@[simp] theorem apply_flt_pcie (f : Flt) : ((Eff.flt f).apply s).pcie = s.pcie := rfl
@[simp] theorem apply_flt_store (f : Flt) : ((Eff.flt f).apply s).store = s.store := rfl
@[simp] theorem apply_flt_out (f : Flt) : ((Eff.flt f).apply s).out = s.out := rfl
@[simp] theorem apply_flt_doms (f : Flt) : ((Eff.flt f).apply s).doms = s.doms := rfl
@[simp] theorem apply_flt_parts (f : Flt) : ((Eff.flt f).apply s).parts = s.parts := rfl
@[simp] theorem apply_flt_hasps (f : Flt) : ((Eff.flt f).apply s).hasps = s.hasps := rfl
@[simp] theorem apply_flt_queues (f : Flt) : ((Eff.flt f).apply s).queues = s.queues := rfl
@[simp] theorem apply_flt_cells (f : Flt) : ((Eff.flt f).apply s).cells = s.cells := rfl
@[simp] theorem apply_flt_uus (f : Flt) : ((Eff.flt f).apply s).uus = s.uus := rfl
@[simp] theorem apply_flt_cols (f : Flt) : ((Eff.flt f).apply s).cols = s.cols := rfl
@[simp] theorem apply_flt_links (f : Flt) : ((Eff.flt f).apply s).links = s.links := rfl
@[simp] theorem apply_flt_dies (f : Flt) : ((Eff.flt f).apply s).dies = s.dies := rfl
@[simp] theorem apply_flt_clxs (f : Flt) : ((Eff.flt f).apply s).clxs = s.clxs := rfl
@[simp] theorem apply_flt_free (f : Flt) : ((Eff.flt f).apply s).free = s.free := rfl
@[simp] theorem apply_flt_pending (f : Flt) : ((Eff.flt f).apply s).pending = s.pending := rfl
@[simp] theorem apply_pmc_fuses (p : Pmc) : ((Eff.pmc p).apply s).fuses = s.fuses := rfl
@[simp] theorem apply_pmc_hub (p : Pmc) : ((Eff.pmc p).apply s).hub = s.hub := rfl
@[simp] theorem apply_pmc_tim (p : Pmc) : ((Eff.pmc p).apply s).tim = s.tim := rfl
@[simp] theorem apply_pmc_kwy (p : Pmc) : ((Eff.pmc p).apply s).kwy = s.kwy := rfl
@[simp] theorem apply_pmc_sec (p : Pmc) : ((Eff.pmc p).apply s).sec = s.sec := rfl
@[simp] theorem apply_pmc_flt (p : Pmc) : ((Eff.pmc p).apply s).flt = s.flt := rfl
@[simp] theorem apply_pmc_pmc (p : Pmc) : ((Eff.pmc p).apply s).pmc = p := rfl
@[simp] theorem apply_pmc_mgmt (p : Pmc) : ((Eff.pmc p).apply s).mgmt = s.mgmt := rfl
@[simp] theorem apply_pmc_pcie (p : Pmc) : ((Eff.pmc p).apply s).pcie = s.pcie := rfl
@[simp] theorem apply_pmc_store (p : Pmc) : ((Eff.pmc p).apply s).store = s.store := rfl
@[simp] theorem apply_pmc_out (p : Pmc) : ((Eff.pmc p).apply s).out = s.out := rfl
@[simp] theorem apply_pmc_doms (p : Pmc) : ((Eff.pmc p).apply s).doms = s.doms := rfl
@[simp] theorem apply_pmc_parts (p : Pmc) : ((Eff.pmc p).apply s).parts = s.parts := rfl
@[simp] theorem apply_pmc_hasps (p : Pmc) : ((Eff.pmc p).apply s).hasps = s.hasps := rfl
@[simp] theorem apply_pmc_queues (p : Pmc) : ((Eff.pmc p).apply s).queues = s.queues := rfl
@[simp] theorem apply_pmc_cells (p : Pmc) : ((Eff.pmc p).apply s).cells = s.cells := rfl
@[simp] theorem apply_pmc_uus (p : Pmc) : ((Eff.pmc p).apply s).uus = s.uus := rfl
@[simp] theorem apply_pmc_cols (p : Pmc) : ((Eff.pmc p).apply s).cols = s.cols := rfl
@[simp] theorem apply_pmc_links (p : Pmc) : ((Eff.pmc p).apply s).links = s.links := rfl
@[simp] theorem apply_pmc_dies (p : Pmc) : ((Eff.pmc p).apply s).dies = s.dies := rfl
@[simp] theorem apply_pmc_clxs (p : Pmc) : ((Eff.pmc p).apply s).clxs = s.clxs := rfl
@[simp] theorem apply_pmc_free (p : Pmc) : ((Eff.pmc p).apply s).free = s.free := rfl
@[simp] theorem apply_pmc_pending (p : Pmc) : ((Eff.pmc p).apply s).pending = s.pending := rfl
@[simp] theorem apply_mgmt_fuses (m : Mgmt) : ((Eff.mgmt m).apply s).fuses = s.fuses := rfl
@[simp] theorem apply_mgmt_hub (m : Mgmt) : ((Eff.mgmt m).apply s).hub = s.hub := rfl
@[simp] theorem apply_mgmt_tim (m : Mgmt) : ((Eff.mgmt m).apply s).tim = s.tim := rfl
@[simp] theorem apply_mgmt_kwy (m : Mgmt) : ((Eff.mgmt m).apply s).kwy = s.kwy := rfl
@[simp] theorem apply_mgmt_sec (m : Mgmt) : ((Eff.mgmt m).apply s).sec = s.sec := rfl
@[simp] theorem apply_mgmt_flt (m : Mgmt) : ((Eff.mgmt m).apply s).flt = s.flt := rfl
@[simp] theorem apply_mgmt_pmc (m : Mgmt) : ((Eff.mgmt m).apply s).pmc = s.pmc := rfl
@[simp] theorem apply_mgmt_mgmt (m : Mgmt) : ((Eff.mgmt m).apply s).mgmt = m := rfl
@[simp] theorem apply_mgmt_pcie (m : Mgmt) : ((Eff.mgmt m).apply s).pcie = s.pcie := rfl
@[simp] theorem apply_mgmt_store (m : Mgmt) : ((Eff.mgmt m).apply s).store = s.store := rfl
@[simp] theorem apply_mgmt_out (m : Mgmt) : ((Eff.mgmt m).apply s).out = s.out := rfl
@[simp] theorem apply_mgmt_doms (m : Mgmt) : ((Eff.mgmt m).apply s).doms = s.doms := rfl
@[simp] theorem apply_mgmt_parts (m : Mgmt) : ((Eff.mgmt m).apply s).parts = s.parts := rfl
@[simp] theorem apply_mgmt_hasps (m : Mgmt) : ((Eff.mgmt m).apply s).hasps = s.hasps := rfl
@[simp] theorem apply_mgmt_queues (m : Mgmt) : ((Eff.mgmt m).apply s).queues = s.queues := rfl
@[simp] theorem apply_mgmt_cells (m : Mgmt) : ((Eff.mgmt m).apply s).cells = s.cells := rfl
@[simp] theorem apply_mgmt_uus (m : Mgmt) : ((Eff.mgmt m).apply s).uus = s.uus := rfl
@[simp] theorem apply_mgmt_cols (m : Mgmt) : ((Eff.mgmt m).apply s).cols = s.cols := rfl
@[simp] theorem apply_mgmt_links (m : Mgmt) : ((Eff.mgmt m).apply s).links = s.links := rfl
@[simp] theorem apply_mgmt_dies (m : Mgmt) : ((Eff.mgmt m).apply s).dies = s.dies := rfl
@[simp] theorem apply_mgmt_clxs (m : Mgmt) : ((Eff.mgmt m).apply s).clxs = s.clxs := rfl
@[simp] theorem apply_mgmt_free (m : Mgmt) : ((Eff.mgmt m).apply s).free = s.free := rfl
@[simp] theorem apply_mgmt_pending (m : Mgmt) : ((Eff.mgmt m).apply s).pending = s.pending := rfl
@[simp] theorem apply_pcie_fuses (p : Pcie) : ((Eff.pcie p).apply s).fuses = s.fuses := rfl
@[simp] theorem apply_pcie_hub (p : Pcie) : ((Eff.pcie p).apply s).hub = s.hub := rfl
@[simp] theorem apply_pcie_tim (p : Pcie) : ((Eff.pcie p).apply s).tim = s.tim := rfl
@[simp] theorem apply_pcie_kwy (p : Pcie) : ((Eff.pcie p).apply s).kwy = s.kwy := rfl
@[simp] theorem apply_pcie_sec (p : Pcie) : ((Eff.pcie p).apply s).sec = s.sec := rfl
@[simp] theorem apply_pcie_flt (p : Pcie) : ((Eff.pcie p).apply s).flt = s.flt := rfl
@[simp] theorem apply_pcie_pmc (p : Pcie) : ((Eff.pcie p).apply s).pmc = s.pmc := rfl
@[simp] theorem apply_pcie_mgmt (p : Pcie) : ((Eff.pcie p).apply s).mgmt = s.mgmt := rfl
@[simp] theorem apply_pcie_pcie (p : Pcie) : ((Eff.pcie p).apply s).pcie = p := rfl
@[simp] theorem apply_pcie_store (p : Pcie) : ((Eff.pcie p).apply s).store = s.store := rfl
@[simp] theorem apply_pcie_out (p : Pcie) : ((Eff.pcie p).apply s).out = s.out := rfl
@[simp] theorem apply_pcie_doms (p : Pcie) : ((Eff.pcie p).apply s).doms = s.doms := rfl
@[simp] theorem apply_pcie_parts (p : Pcie) : ((Eff.pcie p).apply s).parts = s.parts := rfl
@[simp] theorem apply_pcie_hasps (p : Pcie) : ((Eff.pcie p).apply s).hasps = s.hasps := rfl
@[simp] theorem apply_pcie_queues (p : Pcie) : ((Eff.pcie p).apply s).queues = s.queues := rfl
@[simp] theorem apply_pcie_cells (p : Pcie) : ((Eff.pcie p).apply s).cells = s.cells := rfl
@[simp] theorem apply_pcie_uus (p : Pcie) : ((Eff.pcie p).apply s).uus = s.uus := rfl
@[simp] theorem apply_pcie_cols (p : Pcie) : ((Eff.pcie p).apply s).cols = s.cols := rfl
@[simp] theorem apply_pcie_links (p : Pcie) : ((Eff.pcie p).apply s).links = s.links := rfl
@[simp] theorem apply_pcie_dies (p : Pcie) : ((Eff.pcie p).apply s).dies = s.dies := rfl
@[simp] theorem apply_pcie_clxs (p : Pcie) : ((Eff.pcie p).apply s).clxs = s.clxs := rfl
@[simp] theorem apply_pcie_free (p : Pcie) : ((Eff.pcie p).apply s).free = s.free := rfl
@[simp] theorem apply_pcie_pending (p : Pcie) : ((Eff.pcie p).apply s).pending = s.pending := rfl
@[simp] theorem apply_out_fuses (o : Out) : ((Eff.out o).apply s).fuses = s.fuses := rfl
@[simp] theorem apply_out_hub (o : Out) : ((Eff.out o).apply s).hub = s.hub := rfl
@[simp] theorem apply_out_tim (o : Out) : ((Eff.out o).apply s).tim = s.tim := rfl
@[simp] theorem apply_out_kwy (o : Out) : ((Eff.out o).apply s).kwy = s.kwy := rfl
@[simp] theorem apply_out_sec (o : Out) : ((Eff.out o).apply s).sec = s.sec := rfl
@[simp] theorem apply_out_flt (o : Out) : ((Eff.out o).apply s).flt = s.flt := rfl
@[simp] theorem apply_out_pmc (o : Out) : ((Eff.out o).apply s).pmc = s.pmc := rfl
@[simp] theorem apply_out_mgmt (o : Out) : ((Eff.out o).apply s).mgmt = s.mgmt := rfl
@[simp] theorem apply_out_pcie (o : Out) : ((Eff.out o).apply s).pcie = s.pcie := rfl
@[simp] theorem apply_out_store (o : Out) : ((Eff.out o).apply s).store = s.store := rfl
@[simp] theorem apply_out_out (o : Out) : ((Eff.out o).apply s).out = o := rfl
@[simp] theorem apply_out_doms (o : Out) : ((Eff.out o).apply s).doms = s.doms := rfl
@[simp] theorem apply_out_parts (o : Out) : ((Eff.out o).apply s).parts = s.parts := rfl
@[simp] theorem apply_out_hasps (o : Out) : ((Eff.out o).apply s).hasps = s.hasps := rfl
@[simp] theorem apply_out_queues (o : Out) : ((Eff.out o).apply s).queues = s.queues := rfl
@[simp] theorem apply_out_cells (o : Out) : ((Eff.out o).apply s).cells = s.cells := rfl
@[simp] theorem apply_out_uus (o : Out) : ((Eff.out o).apply s).uus = s.uus := rfl
@[simp] theorem apply_out_cols (o : Out) : ((Eff.out o).apply s).cols = s.cols := rfl
@[simp] theorem apply_out_links (o : Out) : ((Eff.out o).apply s).links = s.links := rfl
@[simp] theorem apply_out_dies (o : Out) : ((Eff.out o).apply s).dies = s.dies := rfl
@[simp] theorem apply_out_clxs (o : Out) : ((Eff.out o).apply s).clxs = s.clxs := rfl
@[simp] theorem apply_out_free (o : Out) : ((Eff.out o).apply s).free = s.free := rfl
@[simp] theorem apply_out_pending (o : Out) : ((Eff.out o).apply s).pending = s.pending := rfl
@[simp] theorem apply_mem_fuses (a : Nat) (bs : List Byte) : ((Eff.mem a bs).apply s).fuses = s.fuses := rfl
@[simp] theorem apply_mem_hub (a : Nat) (bs : List Byte) : ((Eff.mem a bs).apply s).hub = s.hub := rfl
@[simp] theorem apply_mem_tim (a : Nat) (bs : List Byte) : ((Eff.mem a bs).apply s).tim = s.tim := rfl
@[simp] theorem apply_mem_kwy (a : Nat) (bs : List Byte) : ((Eff.mem a bs).apply s).kwy = s.kwy := rfl
@[simp] theorem apply_mem_sec (a : Nat) (bs : List Byte) : ((Eff.mem a bs).apply s).sec = s.sec := rfl
@[simp] theorem apply_mem_flt (a : Nat) (bs : List Byte) : ((Eff.mem a bs).apply s).flt = s.flt := rfl
@[simp] theorem apply_mem_pmc (a : Nat) (bs : List Byte) : ((Eff.mem a bs).apply s).pmc = s.pmc := rfl
@[simp] theorem apply_mem_mgmt (a : Nat) (bs : List Byte) : ((Eff.mem a bs).apply s).mgmt = s.mgmt := rfl
@[simp] theorem apply_mem_pcie (a : Nat) (bs : List Byte) : ((Eff.mem a bs).apply s).pcie = s.pcie := rfl
@[simp] theorem apply_mem_out (a : Nat) (bs : List Byte) : ((Eff.mem a bs).apply s).out = s.out := rfl
@[simp] theorem apply_mem_doms (a : Nat) (bs : List Byte) : ((Eff.mem a bs).apply s).doms = s.doms := rfl
@[simp] theorem apply_mem_parts (a : Nat) (bs : List Byte) : ((Eff.mem a bs).apply s).parts = s.parts := rfl
@[simp] theorem apply_mem_hasps (a : Nat) (bs : List Byte) : ((Eff.mem a bs).apply s).hasps = s.hasps := rfl
@[simp] theorem apply_mem_queues (a : Nat) (bs : List Byte) : ((Eff.mem a bs).apply s).queues = s.queues := rfl
@[simp] theorem apply_mem_cells (a : Nat) (bs : List Byte) : ((Eff.mem a bs).apply s).cells = s.cells := rfl
@[simp] theorem apply_mem_uus (a : Nat) (bs : List Byte) : ((Eff.mem a bs).apply s).uus = s.uus := rfl
@[simp] theorem apply_mem_cols (a : Nat) (bs : List Byte) : ((Eff.mem a bs).apply s).cols = s.cols := rfl
@[simp] theorem apply_mem_links (a : Nat) (bs : List Byte) : ((Eff.mem a bs).apply s).links = s.links := rfl
@[simp] theorem apply_mem_dies (a : Nat) (bs : List Byte) : ((Eff.mem a bs).apply s).dies = s.dies := rfl
@[simp] theorem apply_mem_clxs (a : Nat) (bs : List Byte) : ((Eff.mem a bs).apply s).clxs = s.clxs := rfl
@[simp] theorem apply_mem_free (a : Nat) (bs : List Byte) : ((Eff.mem a bs).apply s).free = s.free := rfl
@[simp] theorem apply_mem_pending (a : Nat) (bs : List Byte) : ((Eff.mem a bs).apply s).pending = s.pending := rfl
@[simp] theorem apply_mem_store_mem (a : Nat) (bs : List Byte) : ((Eff.mem a bs).apply s).store.mem = s.store.mem.write a bs := rfl
@[simp] theorem apply_mem_store_host (a : Nat) (bs : List Byte) : ((Eff.mem a bs).apply s).store.host = s.store.host := rfl
@[simp] theorem apply_mem_store_flash (a : Nat) (bs : List Byte) : ((Eff.mem a bs).apply s).store.flash = s.store.flash := rfl
@[simp] theorem apply_mem_store_tb (a : Nat) (bs : List Byte) : ((Eff.mem a bs).apply s).store.tb = s.store.tb := rfl
@[simp] theorem apply_mem_store_vreg (a : Nat) (bs : List Byte) : ((Eff.mem a bs).apply s).store.vreg = s.store.vreg := rfl
@[simp] theorem apply_mem_store_latch (a : Nat) (bs : List Byte) : ((Eff.mem a bs).apply s).store.latch = s.store.latch := rfl
@[simp] theorem apply_mem_store_gen (a : Nat) (bs : List Byte) : ((Eff.mem a bs).apply s).store.gen = s.store.gen := rfl
@[simp] theorem apply_host_fuses (a : Nat) (bs : List Byte) : ((Eff.host a bs).apply s).fuses = s.fuses := rfl
@[simp] theorem apply_host_hub (a : Nat) (bs : List Byte) : ((Eff.host a bs).apply s).hub = s.hub := rfl
@[simp] theorem apply_host_tim (a : Nat) (bs : List Byte) : ((Eff.host a bs).apply s).tim = s.tim := rfl
@[simp] theorem apply_host_kwy (a : Nat) (bs : List Byte) : ((Eff.host a bs).apply s).kwy = s.kwy := rfl
@[simp] theorem apply_host_sec (a : Nat) (bs : List Byte) : ((Eff.host a bs).apply s).sec = s.sec := rfl
@[simp] theorem apply_host_flt (a : Nat) (bs : List Byte) : ((Eff.host a bs).apply s).flt = s.flt := rfl
@[simp] theorem apply_host_pmc (a : Nat) (bs : List Byte) : ((Eff.host a bs).apply s).pmc = s.pmc := rfl
@[simp] theorem apply_host_mgmt (a : Nat) (bs : List Byte) : ((Eff.host a bs).apply s).mgmt = s.mgmt := rfl
@[simp] theorem apply_host_pcie (a : Nat) (bs : List Byte) : ((Eff.host a bs).apply s).pcie = s.pcie := rfl
@[simp] theorem apply_host_out (a : Nat) (bs : List Byte) : ((Eff.host a bs).apply s).out = s.out := rfl
@[simp] theorem apply_host_doms (a : Nat) (bs : List Byte) : ((Eff.host a bs).apply s).doms = s.doms := rfl
@[simp] theorem apply_host_parts (a : Nat) (bs : List Byte) : ((Eff.host a bs).apply s).parts = s.parts := rfl
@[simp] theorem apply_host_hasps (a : Nat) (bs : List Byte) : ((Eff.host a bs).apply s).hasps = s.hasps := rfl
@[simp] theorem apply_host_queues (a : Nat) (bs : List Byte) : ((Eff.host a bs).apply s).queues = s.queues := rfl
@[simp] theorem apply_host_cells (a : Nat) (bs : List Byte) : ((Eff.host a bs).apply s).cells = s.cells := rfl
@[simp] theorem apply_host_uus (a : Nat) (bs : List Byte) : ((Eff.host a bs).apply s).uus = s.uus := rfl
@[simp] theorem apply_host_cols (a : Nat) (bs : List Byte) : ((Eff.host a bs).apply s).cols = s.cols := rfl
@[simp] theorem apply_host_links (a : Nat) (bs : List Byte) : ((Eff.host a bs).apply s).links = s.links := rfl
@[simp] theorem apply_host_dies (a : Nat) (bs : List Byte) : ((Eff.host a bs).apply s).dies = s.dies := rfl
@[simp] theorem apply_host_clxs (a : Nat) (bs : List Byte) : ((Eff.host a bs).apply s).clxs = s.clxs := rfl
@[simp] theorem apply_host_free (a : Nat) (bs : List Byte) : ((Eff.host a bs).apply s).free = s.free := rfl
@[simp] theorem apply_host_pending (a : Nat) (bs : List Byte) : ((Eff.host a bs).apply s).pending = s.pending := rfl
@[simp] theorem apply_host_store_mem (a : Nat) (bs : List Byte) : ((Eff.host a bs).apply s).store.mem = s.store.mem := rfl
@[simp] theorem apply_host_store_host (a : Nat) (bs : List Byte) : ((Eff.host a bs).apply s).store.host = s.store.host.write a bs := rfl
@[simp] theorem apply_host_store_flash (a : Nat) (bs : List Byte) : ((Eff.host a bs).apply s).store.flash = s.store.flash := rfl
@[simp] theorem apply_host_store_tb (a : Nat) (bs : List Byte) : ((Eff.host a bs).apply s).store.tb = s.store.tb := rfl
@[simp] theorem apply_host_store_vreg (a : Nat) (bs : List Byte) : ((Eff.host a bs).apply s).store.vreg = s.store.vreg := rfl
@[simp] theorem apply_host_store_latch (a : Nat) (bs : List Byte) : ((Eff.host a bs).apply s).store.latch = s.store.latch := rfl
@[simp] theorem apply_host_store_gen (a : Nat) (bs : List Byte) : ((Eff.host a bs).apply s).store.gen = s.store.gen := rfl
@[simp] theorem apply_flash_fuses (a : Nat) (bs : List Byte) : ((Eff.flash a bs).apply s).fuses = s.fuses := rfl
@[simp] theorem apply_flash_hub (a : Nat) (bs : List Byte) : ((Eff.flash a bs).apply s).hub = s.hub := rfl
@[simp] theorem apply_flash_tim (a : Nat) (bs : List Byte) : ((Eff.flash a bs).apply s).tim = s.tim := rfl
@[simp] theorem apply_flash_kwy (a : Nat) (bs : List Byte) : ((Eff.flash a bs).apply s).kwy = s.kwy := rfl
@[simp] theorem apply_flash_sec (a : Nat) (bs : List Byte) : ((Eff.flash a bs).apply s).sec = s.sec := rfl
@[simp] theorem apply_flash_flt (a : Nat) (bs : List Byte) : ((Eff.flash a bs).apply s).flt = s.flt := rfl
@[simp] theorem apply_flash_pmc (a : Nat) (bs : List Byte) : ((Eff.flash a bs).apply s).pmc = s.pmc := rfl
@[simp] theorem apply_flash_mgmt (a : Nat) (bs : List Byte) : ((Eff.flash a bs).apply s).mgmt = s.mgmt := rfl
@[simp] theorem apply_flash_pcie (a : Nat) (bs : List Byte) : ((Eff.flash a bs).apply s).pcie = s.pcie := rfl
@[simp] theorem apply_flash_out (a : Nat) (bs : List Byte) : ((Eff.flash a bs).apply s).out = s.out := rfl
@[simp] theorem apply_flash_doms (a : Nat) (bs : List Byte) : ((Eff.flash a bs).apply s).doms = s.doms := rfl
@[simp] theorem apply_flash_parts (a : Nat) (bs : List Byte) : ((Eff.flash a bs).apply s).parts = s.parts := rfl
@[simp] theorem apply_flash_hasps (a : Nat) (bs : List Byte) : ((Eff.flash a bs).apply s).hasps = s.hasps := rfl
@[simp] theorem apply_flash_queues (a : Nat) (bs : List Byte) : ((Eff.flash a bs).apply s).queues = s.queues := rfl
@[simp] theorem apply_flash_cells (a : Nat) (bs : List Byte) : ((Eff.flash a bs).apply s).cells = s.cells := rfl
@[simp] theorem apply_flash_uus (a : Nat) (bs : List Byte) : ((Eff.flash a bs).apply s).uus = s.uus := rfl
@[simp] theorem apply_flash_cols (a : Nat) (bs : List Byte) : ((Eff.flash a bs).apply s).cols = s.cols := rfl
@[simp] theorem apply_flash_links (a : Nat) (bs : List Byte) : ((Eff.flash a bs).apply s).links = s.links := rfl
@[simp] theorem apply_flash_dies (a : Nat) (bs : List Byte) : ((Eff.flash a bs).apply s).dies = s.dies := rfl
@[simp] theorem apply_flash_clxs (a : Nat) (bs : List Byte) : ((Eff.flash a bs).apply s).clxs = s.clxs := rfl
@[simp] theorem apply_flash_free (a : Nat) (bs : List Byte) : ((Eff.flash a bs).apply s).free = s.free := rfl
@[simp] theorem apply_flash_pending (a : Nat) (bs : List Byte) : ((Eff.flash a bs).apply s).pending = s.pending := rfl
@[simp] theorem apply_flash_store_mem (a : Nat) (bs : List Byte) : ((Eff.flash a bs).apply s).store.mem = s.store.mem := rfl
@[simp] theorem apply_flash_store_host (a : Nat) (bs : List Byte) : ((Eff.flash a bs).apply s).store.host = s.store.host := rfl
@[simp] theorem apply_flash_store_flash (a : Nat) (bs : List Byte) : ((Eff.flash a bs).apply s).store.flash = flashWrite s.store.flash a bs := rfl
@[simp] theorem apply_flash_store_tb (a : Nat) (bs : List Byte) : ((Eff.flash a bs).apply s).store.tb = s.store.tb := rfl
@[simp] theorem apply_flash_store_vreg (a : Nat) (bs : List Byte) : ((Eff.flash a bs).apply s).store.vreg = s.store.vreg := rfl
@[simp] theorem apply_flash_store_latch (a : Nat) (bs : List Byte) : ((Eff.flash a bs).apply s).store.latch = s.store.latch := rfl
@[simp] theorem apply_flash_store_gen (a : Nat) (bs : List Byte) : ((Eff.flash a bs).apply s).store.gen = s.store.gen := rfl
@[simp] theorem apply_tb_fuses (i : Nat) (vs : List (BitVec 64)) : ((Eff.tb i vs).apply s).fuses = s.fuses := rfl
@[simp] theorem apply_tb_hub (i : Nat) (vs : List (BitVec 64)) : ((Eff.tb i vs).apply s).hub = s.hub := rfl
@[simp] theorem apply_tb_tim (i : Nat) (vs : List (BitVec 64)) : ((Eff.tb i vs).apply s).tim = s.tim := rfl
@[simp] theorem apply_tb_kwy (i : Nat) (vs : List (BitVec 64)) : ((Eff.tb i vs).apply s).kwy = s.kwy := rfl
@[simp] theorem apply_tb_sec (i : Nat) (vs : List (BitVec 64)) : ((Eff.tb i vs).apply s).sec = s.sec := rfl
@[simp] theorem apply_tb_flt (i : Nat) (vs : List (BitVec 64)) : ((Eff.tb i vs).apply s).flt = s.flt := rfl
@[simp] theorem apply_tb_pmc (i : Nat) (vs : List (BitVec 64)) : ((Eff.tb i vs).apply s).pmc = s.pmc := rfl
@[simp] theorem apply_tb_mgmt (i : Nat) (vs : List (BitVec 64)) : ((Eff.tb i vs).apply s).mgmt = s.mgmt := rfl
@[simp] theorem apply_tb_pcie (i : Nat) (vs : List (BitVec 64)) : ((Eff.tb i vs).apply s).pcie = s.pcie := rfl
@[simp] theorem apply_tb_out (i : Nat) (vs : List (BitVec 64)) : ((Eff.tb i vs).apply s).out = s.out := rfl
@[simp] theorem apply_tb_doms (i : Nat) (vs : List (BitVec 64)) : ((Eff.tb i vs).apply s).doms = s.doms := rfl
@[simp] theorem apply_tb_parts (i : Nat) (vs : List (BitVec 64)) : ((Eff.tb i vs).apply s).parts = s.parts := rfl
@[simp] theorem apply_tb_hasps (i : Nat) (vs : List (BitVec 64)) : ((Eff.tb i vs).apply s).hasps = s.hasps := rfl
@[simp] theorem apply_tb_queues (i : Nat) (vs : List (BitVec 64)) : ((Eff.tb i vs).apply s).queues = s.queues := rfl
@[simp] theorem apply_tb_cells (i : Nat) (vs : List (BitVec 64)) : ((Eff.tb i vs).apply s).cells = s.cells := rfl
@[simp] theorem apply_tb_uus (i : Nat) (vs : List (BitVec 64)) : ((Eff.tb i vs).apply s).uus = s.uus := rfl
@[simp] theorem apply_tb_cols (i : Nat) (vs : List (BitVec 64)) : ((Eff.tb i vs).apply s).cols = s.cols := rfl
@[simp] theorem apply_tb_links (i : Nat) (vs : List (BitVec 64)) : ((Eff.tb i vs).apply s).links = s.links := rfl
@[simp] theorem apply_tb_dies (i : Nat) (vs : List (BitVec 64)) : ((Eff.tb i vs).apply s).dies = s.dies := rfl
@[simp] theorem apply_tb_clxs (i : Nat) (vs : List (BitVec 64)) : ((Eff.tb i vs).apply s).clxs = s.clxs := rfl
@[simp] theorem apply_tb_free (i : Nat) (vs : List (BitVec 64)) : ((Eff.tb i vs).apply s).free = s.free := rfl
@[simp] theorem apply_tb_pending (i : Nat) (vs : List (BitVec 64)) : ((Eff.tb i vs).apply s).pending = s.pending := rfl
@[simp] theorem apply_tb_store_mem (i : Nat) (vs : List (BitVec 64)) : ((Eff.tb i vs).apply s).store.mem = s.store.mem := rfl
@[simp] theorem apply_tb_store_host (i : Nat) (vs : List (BitVec 64)) : ((Eff.tb i vs).apply s).store.host = s.store.host := rfl
@[simp] theorem apply_tb_store_flash (i : Nat) (vs : List (BitVec 64)) : ((Eff.tb i vs).apply s).store.flash = s.store.flash := rfl
@[simp] theorem apply_tb_store_tb (i : Nat) (vs : List (BitVec 64)) : ((Eff.tb i vs).apply s).store.tb = writeVals s.store.tb i vs := rfl
@[simp] theorem apply_tb_store_vreg (i : Nat) (vs : List (BitVec 64)) : ((Eff.tb i vs).apply s).store.vreg = s.store.vreg := rfl
@[simp] theorem apply_tb_store_latch (i : Nat) (vs : List (BitVec 64)) : ((Eff.tb i vs).apply s).store.latch = s.store.latch := rfl
@[simp] theorem apply_tb_store_gen (i : Nat) (vs : List (BitVec 64)) : ((Eff.tb i vs).apply s).store.gen = s.store.gen := rfl
@[simp] theorem apply_vreg_fuses (i : Nat) (vs : List (BitVec 64)) : ((Eff.vreg i vs).apply s).fuses = s.fuses := rfl
@[simp] theorem apply_vreg_hub (i : Nat) (vs : List (BitVec 64)) : ((Eff.vreg i vs).apply s).hub = s.hub := rfl
@[simp] theorem apply_vreg_tim (i : Nat) (vs : List (BitVec 64)) : ((Eff.vreg i vs).apply s).tim = s.tim := rfl
@[simp] theorem apply_vreg_kwy (i : Nat) (vs : List (BitVec 64)) : ((Eff.vreg i vs).apply s).kwy = s.kwy := rfl
@[simp] theorem apply_vreg_sec (i : Nat) (vs : List (BitVec 64)) : ((Eff.vreg i vs).apply s).sec = s.sec := rfl
@[simp] theorem apply_vreg_flt (i : Nat) (vs : List (BitVec 64)) : ((Eff.vreg i vs).apply s).flt = s.flt := rfl
@[simp] theorem apply_vreg_pmc (i : Nat) (vs : List (BitVec 64)) : ((Eff.vreg i vs).apply s).pmc = s.pmc := rfl
@[simp] theorem apply_vreg_mgmt (i : Nat) (vs : List (BitVec 64)) : ((Eff.vreg i vs).apply s).mgmt = s.mgmt := rfl
@[simp] theorem apply_vreg_pcie (i : Nat) (vs : List (BitVec 64)) : ((Eff.vreg i vs).apply s).pcie = s.pcie := rfl
@[simp] theorem apply_vreg_out (i : Nat) (vs : List (BitVec 64)) : ((Eff.vreg i vs).apply s).out = s.out := rfl
@[simp] theorem apply_vreg_doms (i : Nat) (vs : List (BitVec 64)) : ((Eff.vreg i vs).apply s).doms = s.doms := rfl
@[simp] theorem apply_vreg_parts (i : Nat) (vs : List (BitVec 64)) : ((Eff.vreg i vs).apply s).parts = s.parts := rfl
@[simp] theorem apply_vreg_hasps (i : Nat) (vs : List (BitVec 64)) : ((Eff.vreg i vs).apply s).hasps = s.hasps := rfl
@[simp] theorem apply_vreg_queues (i : Nat) (vs : List (BitVec 64)) : ((Eff.vreg i vs).apply s).queues = s.queues := rfl
@[simp] theorem apply_vreg_cells (i : Nat) (vs : List (BitVec 64)) : ((Eff.vreg i vs).apply s).cells = s.cells := rfl
@[simp] theorem apply_vreg_uus (i : Nat) (vs : List (BitVec 64)) : ((Eff.vreg i vs).apply s).uus = s.uus := rfl
@[simp] theorem apply_vreg_cols (i : Nat) (vs : List (BitVec 64)) : ((Eff.vreg i vs).apply s).cols = s.cols := rfl
@[simp] theorem apply_vreg_links (i : Nat) (vs : List (BitVec 64)) : ((Eff.vreg i vs).apply s).links = s.links := rfl
@[simp] theorem apply_vreg_dies (i : Nat) (vs : List (BitVec 64)) : ((Eff.vreg i vs).apply s).dies = s.dies := rfl
@[simp] theorem apply_vreg_clxs (i : Nat) (vs : List (BitVec 64)) : ((Eff.vreg i vs).apply s).clxs = s.clxs := rfl
@[simp] theorem apply_vreg_free (i : Nat) (vs : List (BitVec 64)) : ((Eff.vreg i vs).apply s).free = s.free := rfl
@[simp] theorem apply_vreg_pending (i : Nat) (vs : List (BitVec 64)) : ((Eff.vreg i vs).apply s).pending = s.pending := rfl
@[simp] theorem apply_vreg_store_mem (i : Nat) (vs : List (BitVec 64)) : ((Eff.vreg i vs).apply s).store.mem = s.store.mem := rfl
@[simp] theorem apply_vreg_store_host (i : Nat) (vs : List (BitVec 64)) : ((Eff.vreg i vs).apply s).store.host = s.store.host := rfl
@[simp] theorem apply_vreg_store_flash (i : Nat) (vs : List (BitVec 64)) : ((Eff.vreg i vs).apply s).store.flash = s.store.flash := rfl
@[simp] theorem apply_vreg_store_tb (i : Nat) (vs : List (BitVec 64)) : ((Eff.vreg i vs).apply s).store.tb = s.store.tb := rfl
@[simp] theorem apply_vreg_store_vreg (i : Nat) (vs : List (BitVec 64)) : ((Eff.vreg i vs).apply s).store.vreg = writeVals s.store.vreg i vs := rfl
@[simp] theorem apply_vreg_store_latch (i : Nat) (vs : List (BitVec 64)) : ((Eff.vreg i vs).apply s).store.latch = s.store.latch := rfl
@[simp] theorem apply_vreg_store_gen (i : Nat) (vs : List (BitVec 64)) : ((Eff.vreg i vs).apply s).store.gen = s.store.gen := rfl
@[simp] theorem apply_latch_fuses (l : Nat) (v : BitVec 64) : ((Eff.latch l v).apply s).fuses = s.fuses := rfl
@[simp] theorem apply_latch_hub (l : Nat) (v : BitVec 64) : ((Eff.latch l v).apply s).hub = s.hub := rfl
@[simp] theorem apply_latch_tim (l : Nat) (v : BitVec 64) : ((Eff.latch l v).apply s).tim = s.tim := rfl
@[simp] theorem apply_latch_kwy (l : Nat) (v : BitVec 64) : ((Eff.latch l v).apply s).kwy = s.kwy := rfl
@[simp] theorem apply_latch_sec (l : Nat) (v : BitVec 64) : ((Eff.latch l v).apply s).sec = s.sec := rfl
@[simp] theorem apply_latch_flt (l : Nat) (v : BitVec 64) : ((Eff.latch l v).apply s).flt = s.flt := rfl
@[simp] theorem apply_latch_pmc (l : Nat) (v : BitVec 64) : ((Eff.latch l v).apply s).pmc = s.pmc := rfl
@[simp] theorem apply_latch_mgmt (l : Nat) (v : BitVec 64) : ((Eff.latch l v).apply s).mgmt = s.mgmt := rfl
@[simp] theorem apply_latch_pcie (l : Nat) (v : BitVec 64) : ((Eff.latch l v).apply s).pcie = s.pcie := rfl
@[simp] theorem apply_latch_out (l : Nat) (v : BitVec 64) : ((Eff.latch l v).apply s).out = s.out := rfl
@[simp] theorem apply_latch_doms (l : Nat) (v : BitVec 64) : ((Eff.latch l v).apply s).doms = s.doms := rfl
@[simp] theorem apply_latch_parts (l : Nat) (v : BitVec 64) : ((Eff.latch l v).apply s).parts = s.parts := rfl
@[simp] theorem apply_latch_hasps (l : Nat) (v : BitVec 64) : ((Eff.latch l v).apply s).hasps = s.hasps := rfl
@[simp] theorem apply_latch_queues (l : Nat) (v : BitVec 64) : ((Eff.latch l v).apply s).queues = s.queues := rfl
@[simp] theorem apply_latch_cells (l : Nat) (v : BitVec 64) : ((Eff.latch l v).apply s).cells = s.cells := rfl
@[simp] theorem apply_latch_uus (l : Nat) (v : BitVec 64) : ((Eff.latch l v).apply s).uus = s.uus := rfl
@[simp] theorem apply_latch_cols (l : Nat) (v : BitVec 64) : ((Eff.latch l v).apply s).cols = s.cols := rfl
@[simp] theorem apply_latch_links (l : Nat) (v : BitVec 64) : ((Eff.latch l v).apply s).links = s.links := rfl
@[simp] theorem apply_latch_dies (l : Nat) (v : BitVec 64) : ((Eff.latch l v).apply s).dies = s.dies := rfl
@[simp] theorem apply_latch_clxs (l : Nat) (v : BitVec 64) : ((Eff.latch l v).apply s).clxs = s.clxs := rfl
@[simp] theorem apply_latch_free (l : Nat) (v : BitVec 64) : ((Eff.latch l v).apply s).free = s.free := rfl
@[simp] theorem apply_latch_pending (l : Nat) (v : BitVec 64) : ((Eff.latch l v).apply s).pending = s.pending := rfl
@[simp] theorem apply_latch_store_mem (l : Nat) (v : BitVec 64) : ((Eff.latch l v).apply s).store.mem = s.store.mem := rfl
@[simp] theorem apply_latch_store_host (l : Nat) (v : BitVec 64) : ((Eff.latch l v).apply s).store.host = s.store.host := rfl
@[simp] theorem apply_latch_store_flash (l : Nat) (v : BitVec 64) : ((Eff.latch l v).apply s).store.flash = s.store.flash := rfl
@[simp] theorem apply_latch_store_tb (l : Nat) (v : BitVec 64) : ((Eff.latch l v).apply s).store.tb = s.store.tb := rfl
@[simp] theorem apply_latch_store_vreg (l : Nat) (v : BitVec 64) : ((Eff.latch l v).apply s).store.vreg = s.store.vreg := rfl
@[simp] theorem apply_latch_store_latch (l : Nat) (v : BitVec 64) : ((Eff.latch l v).apply s).store.latch = Tab.set 0 s.store.latch l v := rfl
@[simp] theorem apply_latch_store_gen (l : Nat) (v : BitVec 64) : ((Eff.latch l v).apply s).store.gen = s.store.gen := rfl
@[simp] theorem apply_gen_fuses (q : Nat) (g : VxGen) : ((Eff.gen q g).apply s).fuses = s.fuses := rfl
@[simp] theorem apply_gen_hub (q : Nat) (g : VxGen) : ((Eff.gen q g).apply s).hub = s.hub := rfl
@[simp] theorem apply_gen_tim (q : Nat) (g : VxGen) : ((Eff.gen q g).apply s).tim = s.tim := rfl
@[simp] theorem apply_gen_kwy (q : Nat) (g : VxGen) : ((Eff.gen q g).apply s).kwy = s.kwy := rfl
@[simp] theorem apply_gen_sec (q : Nat) (g : VxGen) : ((Eff.gen q g).apply s).sec = s.sec := rfl
@[simp] theorem apply_gen_flt (q : Nat) (g : VxGen) : ((Eff.gen q g).apply s).flt = s.flt := rfl
@[simp] theorem apply_gen_pmc (q : Nat) (g : VxGen) : ((Eff.gen q g).apply s).pmc = s.pmc := rfl
@[simp] theorem apply_gen_mgmt (q : Nat) (g : VxGen) : ((Eff.gen q g).apply s).mgmt = s.mgmt := rfl
@[simp] theorem apply_gen_pcie (q : Nat) (g : VxGen) : ((Eff.gen q g).apply s).pcie = s.pcie := rfl
@[simp] theorem apply_gen_out (q : Nat) (g : VxGen) : ((Eff.gen q g).apply s).out = s.out := rfl
@[simp] theorem apply_gen_doms (q : Nat) (g : VxGen) : ((Eff.gen q g).apply s).doms = s.doms := rfl
@[simp] theorem apply_gen_parts (q : Nat) (g : VxGen) : ((Eff.gen q g).apply s).parts = s.parts := rfl
@[simp] theorem apply_gen_hasps (q : Nat) (g : VxGen) : ((Eff.gen q g).apply s).hasps = s.hasps := rfl
@[simp] theorem apply_gen_queues (q : Nat) (g : VxGen) : ((Eff.gen q g).apply s).queues = s.queues := rfl
@[simp] theorem apply_gen_cells (q : Nat) (g : VxGen) : ((Eff.gen q g).apply s).cells = s.cells := rfl
@[simp] theorem apply_gen_uus (q : Nat) (g : VxGen) : ((Eff.gen q g).apply s).uus = s.uus := rfl
@[simp] theorem apply_gen_cols (q : Nat) (g : VxGen) : ((Eff.gen q g).apply s).cols = s.cols := rfl
@[simp] theorem apply_gen_links (q : Nat) (g : VxGen) : ((Eff.gen q g).apply s).links = s.links := rfl
@[simp] theorem apply_gen_dies (q : Nat) (g : VxGen) : ((Eff.gen q g).apply s).dies = s.dies := rfl
@[simp] theorem apply_gen_clxs (q : Nat) (g : VxGen) : ((Eff.gen q g).apply s).clxs = s.clxs := rfl
@[simp] theorem apply_gen_free (q : Nat) (g : VxGen) : ((Eff.gen q g).apply s).free = s.free := rfl
@[simp] theorem apply_gen_pending (q : Nat) (g : VxGen) : ((Eff.gen q g).apply s).pending = s.pending := rfl
@[simp] theorem apply_gen_store_mem (q : Nat) (g : VxGen) : ((Eff.gen q g).apply s).store.mem = s.store.mem := rfl
@[simp] theorem apply_gen_store_host (q : Nat) (g : VxGen) : ((Eff.gen q g).apply s).store.host = s.store.host := rfl
@[simp] theorem apply_gen_store_flash (q : Nat) (g : VxGen) : ((Eff.gen q g).apply s).store.flash = s.store.flash := rfl
@[simp] theorem apply_gen_store_tb (q : Nat) (g : VxGen) : ((Eff.gen q g).apply s).store.tb = s.store.tb := rfl
@[simp] theorem apply_gen_store_vreg (q : Nat) (g : VxGen) : ((Eff.gen q g).apply s).store.vreg = s.store.vreg := rfl
@[simp] theorem apply_gen_store_latch (q : Nat) (g : VxGen) : ((Eff.gen q g).apply s).store.latch = s.store.latch := rfl
@[simp] theorem apply_gen_store_gen (q : Nat) (g : VxGen) : ((Eff.gen q g).apply s).store.gen = Tab.set {} s.store.gen q g := rfl
@[simp] theorem apply_clearMem_fuses (lo : Nat) (hi : Nat) : ((Eff.clearMem lo hi).apply s).fuses = s.fuses := rfl
@[simp] theorem apply_clearMem_hub (lo : Nat) (hi : Nat) : ((Eff.clearMem lo hi).apply s).hub = s.hub := rfl
@[simp] theorem apply_clearMem_tim (lo : Nat) (hi : Nat) : ((Eff.clearMem lo hi).apply s).tim = s.tim := rfl
@[simp] theorem apply_clearMem_kwy (lo : Nat) (hi : Nat) : ((Eff.clearMem lo hi).apply s).kwy = s.kwy := rfl
@[simp] theorem apply_clearMem_sec (lo : Nat) (hi : Nat) : ((Eff.clearMem lo hi).apply s).sec = s.sec := rfl
@[simp] theorem apply_clearMem_flt (lo : Nat) (hi : Nat) : ((Eff.clearMem lo hi).apply s).flt = s.flt := rfl
@[simp] theorem apply_clearMem_pmc (lo : Nat) (hi : Nat) : ((Eff.clearMem lo hi).apply s).pmc = s.pmc := rfl
@[simp] theorem apply_clearMem_mgmt (lo : Nat) (hi : Nat) : ((Eff.clearMem lo hi).apply s).mgmt = s.mgmt := rfl
@[simp] theorem apply_clearMem_pcie (lo : Nat) (hi : Nat) : ((Eff.clearMem lo hi).apply s).pcie = s.pcie := rfl
@[simp] theorem apply_clearMem_out (lo : Nat) (hi : Nat) : ((Eff.clearMem lo hi).apply s).out = s.out := rfl
@[simp] theorem apply_clearMem_doms (lo : Nat) (hi : Nat) : ((Eff.clearMem lo hi).apply s).doms = s.doms := rfl
@[simp] theorem apply_clearMem_parts (lo : Nat) (hi : Nat) : ((Eff.clearMem lo hi).apply s).parts = s.parts := rfl
@[simp] theorem apply_clearMem_hasps (lo : Nat) (hi : Nat) : ((Eff.clearMem lo hi).apply s).hasps = s.hasps := rfl
@[simp] theorem apply_clearMem_queues (lo : Nat) (hi : Nat) : ((Eff.clearMem lo hi).apply s).queues = s.queues := rfl
@[simp] theorem apply_clearMem_cells (lo : Nat) (hi : Nat) : ((Eff.clearMem lo hi).apply s).cells = s.cells := rfl
@[simp] theorem apply_clearMem_uus (lo : Nat) (hi : Nat) : ((Eff.clearMem lo hi).apply s).uus = s.uus := rfl
@[simp] theorem apply_clearMem_cols (lo : Nat) (hi : Nat) : ((Eff.clearMem lo hi).apply s).cols = s.cols := rfl
@[simp] theorem apply_clearMem_links (lo : Nat) (hi : Nat) : ((Eff.clearMem lo hi).apply s).links = s.links := rfl
@[simp] theorem apply_clearMem_dies (lo : Nat) (hi : Nat) : ((Eff.clearMem lo hi).apply s).dies = s.dies := rfl
@[simp] theorem apply_clearMem_clxs (lo : Nat) (hi : Nat) : ((Eff.clearMem lo hi).apply s).clxs = s.clxs := rfl
@[simp] theorem apply_clearMem_free (lo : Nat) (hi : Nat) : ((Eff.clearMem lo hi).apply s).free = s.free := rfl
@[simp] theorem apply_clearMem_pending (lo : Nat) (hi : Nat) : ((Eff.clearMem lo hi).apply s).pending = s.pending := rfl
@[simp] theorem apply_clearMem_store_mem (lo : Nat) (hi : Nat) : ((Eff.clearMem lo hi).apply s).store.mem = Tab.clear lo hi s.store.mem := rfl
@[simp] theorem apply_clearMem_store_host (lo : Nat) (hi : Nat) : ((Eff.clearMem lo hi).apply s).store.host = s.store.host := rfl
@[simp] theorem apply_clearMem_store_flash (lo : Nat) (hi : Nat) : ((Eff.clearMem lo hi).apply s).store.flash = s.store.flash := rfl
@[simp] theorem apply_clearMem_store_tb (lo : Nat) (hi : Nat) : ((Eff.clearMem lo hi).apply s).store.tb = s.store.tb := rfl
@[simp] theorem apply_clearMem_store_vreg (lo : Nat) (hi : Nat) : ((Eff.clearMem lo hi).apply s).store.vreg = s.store.vreg := rfl
@[simp] theorem apply_clearMem_store_latch (lo : Nat) (hi : Nat) : ((Eff.clearMem lo hi).apply s).store.latch = s.store.latch := rfl
@[simp] theorem apply_clearMem_store_gen (lo : Nat) (hi : Nat) : ((Eff.clearMem lo hi).apply s).store.gen = s.store.gen := rfl
@[simp] theorem apply_clearTb_fuses (lo : Nat) (hi : Nat) : ((Eff.clearTb lo hi).apply s).fuses = s.fuses := rfl
@[simp] theorem apply_clearTb_hub (lo : Nat) (hi : Nat) : ((Eff.clearTb lo hi).apply s).hub = s.hub := rfl
@[simp] theorem apply_clearTb_tim (lo : Nat) (hi : Nat) : ((Eff.clearTb lo hi).apply s).tim = s.tim := rfl
@[simp] theorem apply_clearTb_kwy (lo : Nat) (hi : Nat) : ((Eff.clearTb lo hi).apply s).kwy = s.kwy := rfl
@[simp] theorem apply_clearTb_sec (lo : Nat) (hi : Nat) : ((Eff.clearTb lo hi).apply s).sec = s.sec := rfl
@[simp] theorem apply_clearTb_flt (lo : Nat) (hi : Nat) : ((Eff.clearTb lo hi).apply s).flt = s.flt := rfl
@[simp] theorem apply_clearTb_pmc (lo : Nat) (hi : Nat) : ((Eff.clearTb lo hi).apply s).pmc = s.pmc := rfl
@[simp] theorem apply_clearTb_mgmt (lo : Nat) (hi : Nat) : ((Eff.clearTb lo hi).apply s).mgmt = s.mgmt := rfl
@[simp] theorem apply_clearTb_pcie (lo : Nat) (hi : Nat) : ((Eff.clearTb lo hi).apply s).pcie = s.pcie := rfl
@[simp] theorem apply_clearTb_out (lo : Nat) (hi : Nat) : ((Eff.clearTb lo hi).apply s).out = s.out := rfl
@[simp] theorem apply_clearTb_doms (lo : Nat) (hi : Nat) : ((Eff.clearTb lo hi).apply s).doms = s.doms := rfl
@[simp] theorem apply_clearTb_parts (lo : Nat) (hi : Nat) : ((Eff.clearTb lo hi).apply s).parts = s.parts := rfl
@[simp] theorem apply_clearTb_hasps (lo : Nat) (hi : Nat) : ((Eff.clearTb lo hi).apply s).hasps = s.hasps := rfl
@[simp] theorem apply_clearTb_queues (lo : Nat) (hi : Nat) : ((Eff.clearTb lo hi).apply s).queues = s.queues := rfl
@[simp] theorem apply_clearTb_cells (lo : Nat) (hi : Nat) : ((Eff.clearTb lo hi).apply s).cells = s.cells := rfl
@[simp] theorem apply_clearTb_uus (lo : Nat) (hi : Nat) : ((Eff.clearTb lo hi).apply s).uus = s.uus := rfl
@[simp] theorem apply_clearTb_cols (lo : Nat) (hi : Nat) : ((Eff.clearTb lo hi).apply s).cols = s.cols := rfl
@[simp] theorem apply_clearTb_links (lo : Nat) (hi : Nat) : ((Eff.clearTb lo hi).apply s).links = s.links := rfl
@[simp] theorem apply_clearTb_dies (lo : Nat) (hi : Nat) : ((Eff.clearTb lo hi).apply s).dies = s.dies := rfl
@[simp] theorem apply_clearTb_clxs (lo : Nat) (hi : Nat) : ((Eff.clearTb lo hi).apply s).clxs = s.clxs := rfl
@[simp] theorem apply_clearTb_free (lo : Nat) (hi : Nat) : ((Eff.clearTb lo hi).apply s).free = s.free := rfl
@[simp] theorem apply_clearTb_pending (lo : Nat) (hi : Nat) : ((Eff.clearTb lo hi).apply s).pending = s.pending := rfl
@[simp] theorem apply_clearTb_store_mem (lo : Nat) (hi : Nat) : ((Eff.clearTb lo hi).apply s).store.mem = s.store.mem := rfl
@[simp] theorem apply_clearTb_store_host (lo : Nat) (hi : Nat) : ((Eff.clearTb lo hi).apply s).store.host = s.store.host := rfl
@[simp] theorem apply_clearTb_store_flash (lo : Nat) (hi : Nat) : ((Eff.clearTb lo hi).apply s).store.flash = s.store.flash := rfl
@[simp] theorem apply_clearTb_store_tb (lo : Nat) (hi : Nat) : ((Eff.clearTb lo hi).apply s).store.tb = Tab.clear lo hi s.store.tb := rfl
@[simp] theorem apply_clearTb_store_vreg (lo : Nat) (hi : Nat) : ((Eff.clearTb lo hi).apply s).store.vreg = s.store.vreg := rfl
@[simp] theorem apply_clearTb_store_latch (lo : Nat) (hi : Nat) : ((Eff.clearTb lo hi).apply s).store.latch = s.store.latch := rfl
@[simp] theorem apply_clearTb_store_gen (lo : Nat) (hi : Nat) : ((Eff.clearTb lo hi).apply s).store.gen = s.store.gen := rfl
@[simp] theorem apply_clearVreg_fuses (lo : Nat) (hi : Nat) : ((Eff.clearVreg lo hi).apply s).fuses = s.fuses := rfl
@[simp] theorem apply_clearVreg_hub (lo : Nat) (hi : Nat) : ((Eff.clearVreg lo hi).apply s).hub = s.hub := rfl
@[simp] theorem apply_clearVreg_tim (lo : Nat) (hi : Nat) : ((Eff.clearVreg lo hi).apply s).tim = s.tim := rfl
@[simp] theorem apply_clearVreg_kwy (lo : Nat) (hi : Nat) : ((Eff.clearVreg lo hi).apply s).kwy = s.kwy := rfl
@[simp] theorem apply_clearVreg_sec (lo : Nat) (hi : Nat) : ((Eff.clearVreg lo hi).apply s).sec = s.sec := rfl
@[simp] theorem apply_clearVreg_flt (lo : Nat) (hi : Nat) : ((Eff.clearVreg lo hi).apply s).flt = s.flt := rfl
@[simp] theorem apply_clearVreg_pmc (lo : Nat) (hi : Nat) : ((Eff.clearVreg lo hi).apply s).pmc = s.pmc := rfl
@[simp] theorem apply_clearVreg_mgmt (lo : Nat) (hi : Nat) : ((Eff.clearVreg lo hi).apply s).mgmt = s.mgmt := rfl
@[simp] theorem apply_clearVreg_pcie (lo : Nat) (hi : Nat) : ((Eff.clearVreg lo hi).apply s).pcie = s.pcie := rfl
@[simp] theorem apply_clearVreg_out (lo : Nat) (hi : Nat) : ((Eff.clearVreg lo hi).apply s).out = s.out := rfl
@[simp] theorem apply_clearVreg_doms (lo : Nat) (hi : Nat) : ((Eff.clearVreg lo hi).apply s).doms = s.doms := rfl
@[simp] theorem apply_clearVreg_parts (lo : Nat) (hi : Nat) : ((Eff.clearVreg lo hi).apply s).parts = s.parts := rfl
@[simp] theorem apply_clearVreg_hasps (lo : Nat) (hi : Nat) : ((Eff.clearVreg lo hi).apply s).hasps = s.hasps := rfl
@[simp] theorem apply_clearVreg_queues (lo : Nat) (hi : Nat) : ((Eff.clearVreg lo hi).apply s).queues = s.queues := rfl
@[simp] theorem apply_clearVreg_cells (lo : Nat) (hi : Nat) : ((Eff.clearVreg lo hi).apply s).cells = s.cells := rfl
@[simp] theorem apply_clearVreg_uus (lo : Nat) (hi : Nat) : ((Eff.clearVreg lo hi).apply s).uus = s.uus := rfl
@[simp] theorem apply_clearVreg_cols (lo : Nat) (hi : Nat) : ((Eff.clearVreg lo hi).apply s).cols = s.cols := rfl
@[simp] theorem apply_clearVreg_links (lo : Nat) (hi : Nat) : ((Eff.clearVreg lo hi).apply s).links = s.links := rfl
@[simp] theorem apply_clearVreg_dies (lo : Nat) (hi : Nat) : ((Eff.clearVreg lo hi).apply s).dies = s.dies := rfl
@[simp] theorem apply_clearVreg_clxs (lo : Nat) (hi : Nat) : ((Eff.clearVreg lo hi).apply s).clxs = s.clxs := rfl
@[simp] theorem apply_clearVreg_free (lo : Nat) (hi : Nat) : ((Eff.clearVreg lo hi).apply s).free = s.free := rfl
@[simp] theorem apply_clearVreg_pending (lo : Nat) (hi : Nat) : ((Eff.clearVreg lo hi).apply s).pending = s.pending := rfl
@[simp] theorem apply_clearVreg_store_mem (lo : Nat) (hi : Nat) : ((Eff.clearVreg lo hi).apply s).store.mem = s.store.mem := rfl
@[simp] theorem apply_clearVreg_store_host (lo : Nat) (hi : Nat) : ((Eff.clearVreg lo hi).apply s).store.host = s.store.host := rfl
@[simp] theorem apply_clearVreg_store_flash (lo : Nat) (hi : Nat) : ((Eff.clearVreg lo hi).apply s).store.flash = s.store.flash := rfl
@[simp] theorem apply_clearVreg_store_tb (lo : Nat) (hi : Nat) : ((Eff.clearVreg lo hi).apply s).store.tb = s.store.tb := rfl
@[simp] theorem apply_clearVreg_store_vreg (lo : Nat) (hi : Nat) : ((Eff.clearVreg lo hi).apply s).store.vreg = Tab.clear lo hi s.store.vreg := rfl
@[simp] theorem apply_clearVreg_store_latch (lo : Nat) (hi : Nat) : ((Eff.clearVreg lo hi).apply s).store.latch = s.store.latch := rfl
@[simp] theorem apply_clearVreg_store_gen (lo : Nat) (hi : Nat) : ((Eff.clearVreg lo hi).apply s).store.gen = s.store.gen := rfl
@[simp] theorem apply_dom_fuses (n : Nat) (d : Dom) : ((Eff.dom n d).apply s).fuses = s.fuses := rfl
@[simp] theorem apply_dom_hub (n : Nat) (d : Dom) : ((Eff.dom n d).apply s).hub = s.hub := rfl
@[simp] theorem apply_dom_tim (n : Nat) (d : Dom) : ((Eff.dom n d).apply s).tim = s.tim := rfl
@[simp] theorem apply_dom_kwy (n : Nat) (d : Dom) : ((Eff.dom n d).apply s).kwy = s.kwy := rfl
@[simp] theorem apply_dom_sec (n : Nat) (d : Dom) : ((Eff.dom n d).apply s).sec = s.sec := rfl
@[simp] theorem apply_dom_flt (n : Nat) (d : Dom) : ((Eff.dom n d).apply s).flt = s.flt := rfl
@[simp] theorem apply_dom_pmc (n : Nat) (d : Dom) : ((Eff.dom n d).apply s).pmc = s.pmc := rfl
@[simp] theorem apply_dom_mgmt (n : Nat) (d : Dom) : ((Eff.dom n d).apply s).mgmt = s.mgmt := rfl
@[simp] theorem apply_dom_pcie (n : Nat) (d : Dom) : ((Eff.dom n d).apply s).pcie = s.pcie := rfl
@[simp] theorem apply_dom_store (n : Nat) (d : Dom) : ((Eff.dom n d).apply s).store = s.store := rfl
@[simp] theorem apply_dom_out (n : Nat) (d : Dom) : ((Eff.dom n d).apply s).out = s.out := rfl
@[simp] theorem apply_dom_doms (n : Nat) (d : Dom) : ((Eff.dom n d).apply s).doms = Tab.set {} s.doms n d := rfl
@[simp] theorem apply_dom_parts (n : Nat) (d : Dom) : ((Eff.dom n d).apply s).parts = s.parts := rfl
@[simp] theorem apply_dom_hasps (n : Nat) (d : Dom) : ((Eff.dom n d).apply s).hasps = s.hasps := rfl
@[simp] theorem apply_dom_queues (n : Nat) (d : Dom) : ((Eff.dom n d).apply s).queues = s.queues := rfl
@[simp] theorem apply_dom_cells (n : Nat) (d : Dom) : ((Eff.dom n d).apply s).cells = s.cells := rfl
@[simp] theorem apply_dom_uus (n : Nat) (d : Dom) : ((Eff.dom n d).apply s).uus = s.uus := rfl
@[simp] theorem apply_dom_cols (n : Nat) (d : Dom) : ((Eff.dom n d).apply s).cols = s.cols := rfl
@[simp] theorem apply_dom_links (n : Nat) (d : Dom) : ((Eff.dom n d).apply s).links = s.links := rfl
@[simp] theorem apply_dom_dies (n : Nat) (d : Dom) : ((Eff.dom n d).apply s).dies = s.dies := rfl
@[simp] theorem apply_dom_clxs (n : Nat) (d : Dom) : ((Eff.dom n d).apply s).clxs = s.clxs := rfl
@[simp] theorem apply_dom_free (n : Nat) (d : Dom) : ((Eff.dom n d).apply s).free = s.free := rfl
@[simp] theorem apply_dom_pending (n : Nat) (d : Dom) : ((Eff.dom n d).apply s).pending = s.pending := rfl
@[simp] theorem apply_part_fuses (n : Nat) (p : Part) : ((Eff.part n p).apply s).fuses = s.fuses := rfl
@[simp] theorem apply_part_hub (n : Nat) (p : Part) : ((Eff.part n p).apply s).hub = s.hub := rfl
@[simp] theorem apply_part_tim (n : Nat) (p : Part) : ((Eff.part n p).apply s).tim = s.tim := rfl
@[simp] theorem apply_part_kwy (n : Nat) (p : Part) : ((Eff.part n p).apply s).kwy = s.kwy := rfl
@[simp] theorem apply_part_sec (n : Nat) (p : Part) : ((Eff.part n p).apply s).sec = s.sec := rfl
@[simp] theorem apply_part_flt (n : Nat) (p : Part) : ((Eff.part n p).apply s).flt = s.flt := rfl
@[simp] theorem apply_part_pmc (n : Nat) (p : Part) : ((Eff.part n p).apply s).pmc = s.pmc := rfl
@[simp] theorem apply_part_mgmt (n : Nat) (p : Part) : ((Eff.part n p).apply s).mgmt = s.mgmt := rfl
@[simp] theorem apply_part_pcie (n : Nat) (p : Part) : ((Eff.part n p).apply s).pcie = s.pcie := rfl
@[simp] theorem apply_part_store (n : Nat) (p : Part) : ((Eff.part n p).apply s).store = s.store := rfl
@[simp] theorem apply_part_out (n : Nat) (p : Part) : ((Eff.part n p).apply s).out = s.out := rfl
@[simp] theorem apply_part_doms (n : Nat) (p : Part) : ((Eff.part n p).apply s).doms = s.doms := rfl
@[simp] theorem apply_part_parts (n : Nat) (p : Part) : ((Eff.part n p).apply s).parts = Tab.set {} s.parts n p := rfl
@[simp] theorem apply_part_hasps (n : Nat) (p : Part) : ((Eff.part n p).apply s).hasps = s.hasps := rfl
@[simp] theorem apply_part_queues (n : Nat) (p : Part) : ((Eff.part n p).apply s).queues = s.queues := rfl
@[simp] theorem apply_part_cells (n : Nat) (p : Part) : ((Eff.part n p).apply s).cells = s.cells := rfl
@[simp] theorem apply_part_uus (n : Nat) (p : Part) : ((Eff.part n p).apply s).uus = s.uus := rfl
@[simp] theorem apply_part_cols (n : Nat) (p : Part) : ((Eff.part n p).apply s).cols = s.cols := rfl
@[simp] theorem apply_part_links (n : Nat) (p : Part) : ((Eff.part n p).apply s).links = s.links := rfl
@[simp] theorem apply_part_dies (n : Nat) (p : Part) : ((Eff.part n p).apply s).dies = s.dies := rfl
@[simp] theorem apply_part_clxs (n : Nat) (p : Part) : ((Eff.part n p).apply s).clxs = s.clxs := rfl
@[simp] theorem apply_part_free (n : Nat) (p : Part) : ((Eff.part n p).apply s).free = s.free := rfl
@[simp] theorem apply_part_pending (n : Nat) (p : Part) : ((Eff.part n p).apply s).pending = s.pending := rfl
@[simp] theorem apply_hasp_fuses (n : Nat) (h : Hasp) : ((Eff.hasp n h).apply s).fuses = s.fuses := rfl
@[simp] theorem apply_hasp_hub (n : Nat) (h : Hasp) : ((Eff.hasp n h).apply s).hub = s.hub := rfl
@[simp] theorem apply_hasp_tim (n : Nat) (h : Hasp) : ((Eff.hasp n h).apply s).tim = s.tim := rfl
@[simp] theorem apply_hasp_kwy (n : Nat) (h : Hasp) : ((Eff.hasp n h).apply s).kwy = s.kwy := rfl
@[simp] theorem apply_hasp_sec (n : Nat) (h : Hasp) : ((Eff.hasp n h).apply s).sec = s.sec := rfl
@[simp] theorem apply_hasp_flt (n : Nat) (h : Hasp) : ((Eff.hasp n h).apply s).flt = s.flt := rfl
@[simp] theorem apply_hasp_pmc (n : Nat) (h : Hasp) : ((Eff.hasp n h).apply s).pmc = s.pmc := rfl
@[simp] theorem apply_hasp_mgmt (n : Nat) (h : Hasp) : ((Eff.hasp n h).apply s).mgmt = s.mgmt := rfl
@[simp] theorem apply_hasp_pcie (n : Nat) (h : Hasp) : ((Eff.hasp n h).apply s).pcie = s.pcie := rfl
@[simp] theorem apply_hasp_store (n : Nat) (h : Hasp) : ((Eff.hasp n h).apply s).store = s.store := rfl
@[simp] theorem apply_hasp_out (n : Nat) (h : Hasp) : ((Eff.hasp n h).apply s).out = s.out := rfl
@[simp] theorem apply_hasp_doms (n : Nat) (h : Hasp) : ((Eff.hasp n h).apply s).doms = s.doms := rfl
@[simp] theorem apply_hasp_parts (n : Nat) (h : Hasp) : ((Eff.hasp n h).apply s).parts = s.parts := rfl
@[simp] theorem apply_hasp_hasps (n : Nat) (h : Hasp) : ((Eff.hasp n h).apply s).hasps = Tab.set {} s.hasps n h := rfl
@[simp] theorem apply_hasp_queues (n : Nat) (h : Hasp) : ((Eff.hasp n h).apply s).queues = s.queues := rfl
@[simp] theorem apply_hasp_cells (n : Nat) (h : Hasp) : ((Eff.hasp n h).apply s).cells = s.cells := rfl
@[simp] theorem apply_hasp_uus (n : Nat) (h : Hasp) : ((Eff.hasp n h).apply s).uus = s.uus := rfl
@[simp] theorem apply_hasp_cols (n : Nat) (h : Hasp) : ((Eff.hasp n h).apply s).cols = s.cols := rfl
@[simp] theorem apply_hasp_links (n : Nat) (h : Hasp) : ((Eff.hasp n h).apply s).links = s.links := rfl
@[simp] theorem apply_hasp_dies (n : Nat) (h : Hasp) : ((Eff.hasp n h).apply s).dies = s.dies := rfl
@[simp] theorem apply_hasp_clxs (n : Nat) (h : Hasp) : ((Eff.hasp n h).apply s).clxs = s.clxs := rfl
@[simp] theorem apply_hasp_free (n : Nat) (h : Hasp) : ((Eff.hasp n h).apply s).free = s.free := rfl
@[simp] theorem apply_hasp_pending (n : Nat) (h : Hasp) : ((Eff.hasp n h).apply s).pending = s.pending := rfl
@[simp] theorem apply_queue_fuses (n : Nat) (q : Queue) : ((Eff.queue n q).apply s).fuses = s.fuses := rfl
@[simp] theorem apply_queue_hub (n : Nat) (q : Queue) : ((Eff.queue n q).apply s).hub = s.hub := rfl
@[simp] theorem apply_queue_tim (n : Nat) (q : Queue) : ((Eff.queue n q).apply s).tim = s.tim := rfl
@[simp] theorem apply_queue_kwy (n : Nat) (q : Queue) : ((Eff.queue n q).apply s).kwy = s.kwy := rfl
@[simp] theorem apply_queue_sec (n : Nat) (q : Queue) : ((Eff.queue n q).apply s).sec = s.sec := rfl
@[simp] theorem apply_queue_flt (n : Nat) (q : Queue) : ((Eff.queue n q).apply s).flt = s.flt := rfl
@[simp] theorem apply_queue_pmc (n : Nat) (q : Queue) : ((Eff.queue n q).apply s).pmc = s.pmc := rfl
@[simp] theorem apply_queue_mgmt (n : Nat) (q : Queue) : ((Eff.queue n q).apply s).mgmt = s.mgmt := rfl
@[simp] theorem apply_queue_pcie (n : Nat) (q : Queue) : ((Eff.queue n q).apply s).pcie = s.pcie := rfl
@[simp] theorem apply_queue_store (n : Nat) (q : Queue) : ((Eff.queue n q).apply s).store = s.store := rfl
@[simp] theorem apply_queue_out (n : Nat) (q : Queue) : ((Eff.queue n q).apply s).out = s.out := rfl
@[simp] theorem apply_queue_doms (n : Nat) (q : Queue) : ((Eff.queue n q).apply s).doms = s.doms := rfl
@[simp] theorem apply_queue_parts (n : Nat) (q : Queue) : ((Eff.queue n q).apply s).parts = s.parts := rfl
@[simp] theorem apply_queue_hasps (n : Nat) (q : Queue) : ((Eff.queue n q).apply s).hasps = s.hasps := rfl
@[simp] theorem apply_queue_queues (n : Nat) (q : Queue) : ((Eff.queue n q).apply s).queues = Tab.set {} s.queues n q := rfl
@[simp] theorem apply_queue_cells (n : Nat) (q : Queue) : ((Eff.queue n q).apply s).cells = s.cells := rfl
@[simp] theorem apply_queue_uus (n : Nat) (q : Queue) : ((Eff.queue n q).apply s).uus = s.uus := rfl
@[simp] theorem apply_queue_cols (n : Nat) (q : Queue) : ((Eff.queue n q).apply s).cols = s.cols := rfl
@[simp] theorem apply_queue_links (n : Nat) (q : Queue) : ((Eff.queue n q).apply s).links = s.links := rfl
@[simp] theorem apply_queue_dies (n : Nat) (q : Queue) : ((Eff.queue n q).apply s).dies = s.dies := rfl
@[simp] theorem apply_queue_clxs (n : Nat) (q : Queue) : ((Eff.queue n q).apply s).clxs = s.clxs := rfl
@[simp] theorem apply_queue_free (n : Nat) (q : Queue) : ((Eff.queue n q).apply s).free = s.free := rfl
@[simp] theorem apply_queue_pending (n : Nat) (q : Queue) : ((Eff.queue n q).apply s).pending = s.pending := rfl
@[simp] theorem apply_cell_fuses (n : Nat) (c : Cell) : ((Eff.cell n c).apply s).fuses = s.fuses := rfl
@[simp] theorem apply_cell_hub (n : Nat) (c : Cell) : ((Eff.cell n c).apply s).hub = s.hub := rfl
@[simp] theorem apply_cell_tim (n : Nat) (c : Cell) : ((Eff.cell n c).apply s).tim = s.tim := rfl
@[simp] theorem apply_cell_kwy (n : Nat) (c : Cell) : ((Eff.cell n c).apply s).kwy = s.kwy := rfl
@[simp] theorem apply_cell_sec (n : Nat) (c : Cell) : ((Eff.cell n c).apply s).sec = s.sec := rfl
@[simp] theorem apply_cell_flt (n : Nat) (c : Cell) : ((Eff.cell n c).apply s).flt = s.flt := rfl
@[simp] theorem apply_cell_pmc (n : Nat) (c : Cell) : ((Eff.cell n c).apply s).pmc = s.pmc := rfl
@[simp] theorem apply_cell_mgmt (n : Nat) (c : Cell) : ((Eff.cell n c).apply s).mgmt = s.mgmt := rfl
@[simp] theorem apply_cell_pcie (n : Nat) (c : Cell) : ((Eff.cell n c).apply s).pcie = s.pcie := rfl
@[simp] theorem apply_cell_store (n : Nat) (c : Cell) : ((Eff.cell n c).apply s).store = s.store := rfl
@[simp] theorem apply_cell_out (n : Nat) (c : Cell) : ((Eff.cell n c).apply s).out = s.out := rfl
@[simp] theorem apply_cell_doms (n : Nat) (c : Cell) : ((Eff.cell n c).apply s).doms = s.doms := rfl
@[simp] theorem apply_cell_parts (n : Nat) (c : Cell) : ((Eff.cell n c).apply s).parts = s.parts := rfl
@[simp] theorem apply_cell_hasps (n : Nat) (c : Cell) : ((Eff.cell n c).apply s).hasps = s.hasps := rfl
@[simp] theorem apply_cell_queues (n : Nat) (c : Cell) : ((Eff.cell n c).apply s).queues = s.queues := rfl
@[simp] theorem apply_cell_cells (n : Nat) (c : Cell) : ((Eff.cell n c).apply s).cells = Tab.set {} s.cells n c := rfl
@[simp] theorem apply_cell_uus (n : Nat) (c : Cell) : ((Eff.cell n c).apply s).uus = s.uus := rfl
@[simp] theorem apply_cell_cols (n : Nat) (c : Cell) : ((Eff.cell n c).apply s).cols = s.cols := rfl
@[simp] theorem apply_cell_links (n : Nat) (c : Cell) : ((Eff.cell n c).apply s).links = s.links := rfl
@[simp] theorem apply_cell_dies (n : Nat) (c : Cell) : ((Eff.cell n c).apply s).dies = s.dies := rfl
@[simp] theorem apply_cell_clxs (n : Nat) (c : Cell) : ((Eff.cell n c).apply s).clxs = s.clxs := rfl
@[simp] theorem apply_cell_free (n : Nat) (c : Cell) : ((Eff.cell n c).apply s).free = s.free := rfl
@[simp] theorem apply_cell_pending (n : Nat) (c : Cell) : ((Eff.cell n c).apply s).pending = s.pending := rfl
@[simp] theorem apply_uu_fuses (n : Nat) (u : UuReg) : ((Eff.uu n u).apply s).fuses = s.fuses := rfl
@[simp] theorem apply_uu_hub (n : Nat) (u : UuReg) : ((Eff.uu n u).apply s).hub = s.hub := rfl
@[simp] theorem apply_uu_tim (n : Nat) (u : UuReg) : ((Eff.uu n u).apply s).tim = s.tim := rfl
@[simp] theorem apply_uu_kwy (n : Nat) (u : UuReg) : ((Eff.uu n u).apply s).kwy = s.kwy := rfl
@[simp] theorem apply_uu_sec (n : Nat) (u : UuReg) : ((Eff.uu n u).apply s).sec = s.sec := rfl
@[simp] theorem apply_uu_flt (n : Nat) (u : UuReg) : ((Eff.uu n u).apply s).flt = s.flt := rfl
@[simp] theorem apply_uu_pmc (n : Nat) (u : UuReg) : ((Eff.uu n u).apply s).pmc = s.pmc := rfl
@[simp] theorem apply_uu_mgmt (n : Nat) (u : UuReg) : ((Eff.uu n u).apply s).mgmt = s.mgmt := rfl
@[simp] theorem apply_uu_pcie (n : Nat) (u : UuReg) : ((Eff.uu n u).apply s).pcie = s.pcie := rfl
@[simp] theorem apply_uu_store (n : Nat) (u : UuReg) : ((Eff.uu n u).apply s).store = s.store := rfl
@[simp] theorem apply_uu_out (n : Nat) (u : UuReg) : ((Eff.uu n u).apply s).out = s.out := rfl
@[simp] theorem apply_uu_doms (n : Nat) (u : UuReg) : ((Eff.uu n u).apply s).doms = s.doms := rfl
@[simp] theorem apply_uu_parts (n : Nat) (u : UuReg) : ((Eff.uu n u).apply s).parts = s.parts := rfl
@[simp] theorem apply_uu_hasps (n : Nat) (u : UuReg) : ((Eff.uu n u).apply s).hasps = s.hasps := rfl
@[simp] theorem apply_uu_queues (n : Nat) (u : UuReg) : ((Eff.uu n u).apply s).queues = s.queues := rfl
@[simp] theorem apply_uu_cells (n : Nat) (u : UuReg) : ((Eff.uu n u).apply s).cells = s.cells := rfl
@[simp] theorem apply_uu_uus (n : Nat) (u : UuReg) : ((Eff.uu n u).apply s).uus = Tab.set {} s.uus n u := rfl
@[simp] theorem apply_uu_cols (n : Nat) (u : UuReg) : ((Eff.uu n u).apply s).cols = s.cols := rfl
@[simp] theorem apply_uu_links (n : Nat) (u : UuReg) : ((Eff.uu n u).apply s).links = s.links := rfl
@[simp] theorem apply_uu_dies (n : Nat) (u : UuReg) : ((Eff.uu n u).apply s).dies = s.dies := rfl
@[simp] theorem apply_uu_clxs (n : Nat) (u : UuReg) : ((Eff.uu n u).apply s).clxs = s.clxs := rfl
@[simp] theorem apply_uu_free (n : Nat) (u : UuReg) : ((Eff.uu n u).apply s).free = s.free := rfl
@[simp] theorem apply_uu_pending (n : Nat) (u : UuReg) : ((Eff.uu n u).apply s).pending = s.pending := rfl
@[simp] theorem apply_col_fuses (n : Nat) (c : Col) : ((Eff.col n c).apply s).fuses = s.fuses := rfl
@[simp] theorem apply_col_hub (n : Nat) (c : Col) : ((Eff.col n c).apply s).hub = s.hub := rfl
@[simp] theorem apply_col_tim (n : Nat) (c : Col) : ((Eff.col n c).apply s).tim = s.tim := rfl
@[simp] theorem apply_col_kwy (n : Nat) (c : Col) : ((Eff.col n c).apply s).kwy = s.kwy := rfl
@[simp] theorem apply_col_sec (n : Nat) (c : Col) : ((Eff.col n c).apply s).sec = s.sec := rfl
@[simp] theorem apply_col_flt (n : Nat) (c : Col) : ((Eff.col n c).apply s).flt = s.flt := rfl
@[simp] theorem apply_col_pmc (n : Nat) (c : Col) : ((Eff.col n c).apply s).pmc = s.pmc := rfl
@[simp] theorem apply_col_mgmt (n : Nat) (c : Col) : ((Eff.col n c).apply s).mgmt = s.mgmt := rfl
@[simp] theorem apply_col_pcie (n : Nat) (c : Col) : ((Eff.col n c).apply s).pcie = s.pcie := rfl
@[simp] theorem apply_col_store (n : Nat) (c : Col) : ((Eff.col n c).apply s).store = s.store := rfl
@[simp] theorem apply_col_out (n : Nat) (c : Col) : ((Eff.col n c).apply s).out = s.out := rfl
@[simp] theorem apply_col_doms (n : Nat) (c : Col) : ((Eff.col n c).apply s).doms = s.doms := rfl
@[simp] theorem apply_col_parts (n : Nat) (c : Col) : ((Eff.col n c).apply s).parts = s.parts := rfl
@[simp] theorem apply_col_hasps (n : Nat) (c : Col) : ((Eff.col n c).apply s).hasps = s.hasps := rfl
@[simp] theorem apply_col_queues (n : Nat) (c : Col) : ((Eff.col n c).apply s).queues = s.queues := rfl
@[simp] theorem apply_col_cells (n : Nat) (c : Col) : ((Eff.col n c).apply s).cells = s.cells := rfl
@[simp] theorem apply_col_uus (n : Nat) (c : Col) : ((Eff.col n c).apply s).uus = s.uus := rfl
@[simp] theorem apply_col_cols (n : Nat) (c : Col) : ((Eff.col n c).apply s).cols = Tab.set {} s.cols n c := rfl
@[simp] theorem apply_col_links (n : Nat) (c : Col) : ((Eff.col n c).apply s).links = s.links := rfl
@[simp] theorem apply_col_dies (n : Nat) (c : Col) : ((Eff.col n c).apply s).dies = s.dies := rfl
@[simp] theorem apply_col_clxs (n : Nat) (c : Col) : ((Eff.col n c).apply s).clxs = s.clxs := rfl
@[simp] theorem apply_col_free (n : Nat) (c : Col) : ((Eff.col n c).apply s).free = s.free := rfl
@[simp] theorem apply_col_pending (n : Nat) (c : Col) : ((Eff.col n c).apply s).pending = s.pending := rfl
@[simp] theorem apply_link_fuses (n : Nat) (l : LinkReg) : ((Eff.link n l).apply s).fuses = s.fuses := rfl
@[simp] theorem apply_link_hub (n : Nat) (l : LinkReg) : ((Eff.link n l).apply s).hub = s.hub := rfl
@[simp] theorem apply_link_tim (n : Nat) (l : LinkReg) : ((Eff.link n l).apply s).tim = s.tim := rfl
@[simp] theorem apply_link_kwy (n : Nat) (l : LinkReg) : ((Eff.link n l).apply s).kwy = s.kwy := rfl
@[simp] theorem apply_link_sec (n : Nat) (l : LinkReg) : ((Eff.link n l).apply s).sec = s.sec := rfl
@[simp] theorem apply_link_flt (n : Nat) (l : LinkReg) : ((Eff.link n l).apply s).flt = s.flt := rfl
@[simp] theorem apply_link_pmc (n : Nat) (l : LinkReg) : ((Eff.link n l).apply s).pmc = s.pmc := rfl
@[simp] theorem apply_link_mgmt (n : Nat) (l : LinkReg) : ((Eff.link n l).apply s).mgmt = s.mgmt := rfl
@[simp] theorem apply_link_pcie (n : Nat) (l : LinkReg) : ((Eff.link n l).apply s).pcie = s.pcie := rfl
@[simp] theorem apply_link_store (n : Nat) (l : LinkReg) : ((Eff.link n l).apply s).store = s.store := rfl
@[simp] theorem apply_link_out (n : Nat) (l : LinkReg) : ((Eff.link n l).apply s).out = s.out := rfl
@[simp] theorem apply_link_doms (n : Nat) (l : LinkReg) : ((Eff.link n l).apply s).doms = s.doms := rfl
@[simp] theorem apply_link_parts (n : Nat) (l : LinkReg) : ((Eff.link n l).apply s).parts = s.parts := rfl
@[simp] theorem apply_link_hasps (n : Nat) (l : LinkReg) : ((Eff.link n l).apply s).hasps = s.hasps := rfl
@[simp] theorem apply_link_queues (n : Nat) (l : LinkReg) : ((Eff.link n l).apply s).queues = s.queues := rfl
@[simp] theorem apply_link_cells (n : Nat) (l : LinkReg) : ((Eff.link n l).apply s).cells = s.cells := rfl
@[simp] theorem apply_link_uus (n : Nat) (l : LinkReg) : ((Eff.link n l).apply s).uus = s.uus := rfl
@[simp] theorem apply_link_cols (n : Nat) (l : LinkReg) : ((Eff.link n l).apply s).cols = s.cols := rfl
@[simp] theorem apply_link_links (n : Nat) (l : LinkReg) : ((Eff.link n l).apply s).links = Tab.set {} s.links n l := rfl
@[simp] theorem apply_link_dies (n : Nat) (l : LinkReg) : ((Eff.link n l).apply s).dies = s.dies := rfl
@[simp] theorem apply_link_clxs (n : Nat) (l : LinkReg) : ((Eff.link n l).apply s).clxs = s.clxs := rfl
@[simp] theorem apply_link_free (n : Nat) (l : LinkReg) : ((Eff.link n l).apply s).free = s.free := rfl
@[simp] theorem apply_link_pending (n : Nat) (l : LinkReg) : ((Eff.link n l).apply s).pending = s.pending := rfl
@[simp] theorem apply_die_fuses (n : Nat) (d : DieReg) : ((Eff.die n d).apply s).fuses = s.fuses := rfl
@[simp] theorem apply_die_hub (n : Nat) (d : DieReg) : ((Eff.die n d).apply s).hub = s.hub := rfl
@[simp] theorem apply_die_tim (n : Nat) (d : DieReg) : ((Eff.die n d).apply s).tim = s.tim := rfl
@[simp] theorem apply_die_kwy (n : Nat) (d : DieReg) : ((Eff.die n d).apply s).kwy = s.kwy := rfl
@[simp] theorem apply_die_sec (n : Nat) (d : DieReg) : ((Eff.die n d).apply s).sec = s.sec := rfl
@[simp] theorem apply_die_flt (n : Nat) (d : DieReg) : ((Eff.die n d).apply s).flt = s.flt := rfl
@[simp] theorem apply_die_pmc (n : Nat) (d : DieReg) : ((Eff.die n d).apply s).pmc = s.pmc := rfl
@[simp] theorem apply_die_mgmt (n : Nat) (d : DieReg) : ((Eff.die n d).apply s).mgmt = s.mgmt := rfl
@[simp] theorem apply_die_pcie (n : Nat) (d : DieReg) : ((Eff.die n d).apply s).pcie = s.pcie := rfl
@[simp] theorem apply_die_store (n : Nat) (d : DieReg) : ((Eff.die n d).apply s).store = s.store := rfl
@[simp] theorem apply_die_out (n : Nat) (d : DieReg) : ((Eff.die n d).apply s).out = s.out := rfl
@[simp] theorem apply_die_doms (n : Nat) (d : DieReg) : ((Eff.die n d).apply s).doms = s.doms := rfl
@[simp] theorem apply_die_parts (n : Nat) (d : DieReg) : ((Eff.die n d).apply s).parts = s.parts := rfl
@[simp] theorem apply_die_hasps (n : Nat) (d : DieReg) : ((Eff.die n d).apply s).hasps = s.hasps := rfl
@[simp] theorem apply_die_queues (n : Nat) (d : DieReg) : ((Eff.die n d).apply s).queues = s.queues := rfl
@[simp] theorem apply_die_cells (n : Nat) (d : DieReg) : ((Eff.die n d).apply s).cells = s.cells := rfl
@[simp] theorem apply_die_uus (n : Nat) (d : DieReg) : ((Eff.die n d).apply s).uus = s.uus := rfl
@[simp] theorem apply_die_cols (n : Nat) (d : DieReg) : ((Eff.die n d).apply s).cols = s.cols := rfl
@[simp] theorem apply_die_links (n : Nat) (d : DieReg) : ((Eff.die n d).apply s).links = s.links := rfl
@[simp] theorem apply_die_dies (n : Nat) (d : DieReg) : ((Eff.die n d).apply s).dies = Tab.set {} s.dies n d := rfl
@[simp] theorem apply_die_clxs (n : Nat) (d : DieReg) : ((Eff.die n d).apply s).clxs = s.clxs := rfl
@[simp] theorem apply_die_free (n : Nat) (d : DieReg) : ((Eff.die n d).apply s).free = s.free := rfl
@[simp] theorem apply_die_pending (n : Nat) (d : DieReg) : ((Eff.die n d).apply s).pending = s.pending := rfl
@[simp] theorem apply_clx_fuses (n : Nat) (c : ClxReg) : ((Eff.clx n c).apply s).fuses = s.fuses := rfl
@[simp] theorem apply_clx_hub (n : Nat) (c : ClxReg) : ((Eff.clx n c).apply s).hub = s.hub := rfl
@[simp] theorem apply_clx_tim (n : Nat) (c : ClxReg) : ((Eff.clx n c).apply s).tim = s.tim := rfl
@[simp] theorem apply_clx_kwy (n : Nat) (c : ClxReg) : ((Eff.clx n c).apply s).kwy = s.kwy := rfl
@[simp] theorem apply_clx_sec (n : Nat) (c : ClxReg) : ((Eff.clx n c).apply s).sec = s.sec := rfl
@[simp] theorem apply_clx_flt (n : Nat) (c : ClxReg) : ((Eff.clx n c).apply s).flt = s.flt := rfl
@[simp] theorem apply_clx_pmc (n : Nat) (c : ClxReg) : ((Eff.clx n c).apply s).pmc = s.pmc := rfl
@[simp] theorem apply_clx_mgmt (n : Nat) (c : ClxReg) : ((Eff.clx n c).apply s).mgmt = s.mgmt := rfl
@[simp] theorem apply_clx_pcie (n : Nat) (c : ClxReg) : ((Eff.clx n c).apply s).pcie = s.pcie := rfl
@[simp] theorem apply_clx_store (n : Nat) (c : ClxReg) : ((Eff.clx n c).apply s).store = s.store := rfl
@[simp] theorem apply_clx_out (n : Nat) (c : ClxReg) : ((Eff.clx n c).apply s).out = s.out := rfl
@[simp] theorem apply_clx_doms (n : Nat) (c : ClxReg) : ((Eff.clx n c).apply s).doms = s.doms := rfl
@[simp] theorem apply_clx_parts (n : Nat) (c : ClxReg) : ((Eff.clx n c).apply s).parts = s.parts := rfl
@[simp] theorem apply_clx_hasps (n : Nat) (c : ClxReg) : ((Eff.clx n c).apply s).hasps = s.hasps := rfl
@[simp] theorem apply_clx_queues (n : Nat) (c : ClxReg) : ((Eff.clx n c).apply s).queues = s.queues := rfl
@[simp] theorem apply_clx_cells (n : Nat) (c : ClxReg) : ((Eff.clx n c).apply s).cells = s.cells := rfl
@[simp] theorem apply_clx_uus (n : Nat) (c : ClxReg) : ((Eff.clx n c).apply s).uus = s.uus := rfl
@[simp] theorem apply_clx_cols (n : Nat) (c : ClxReg) : ((Eff.clx n c).apply s).cols = s.cols := rfl
@[simp] theorem apply_clx_links (n : Nat) (c : ClxReg) : ((Eff.clx n c).apply s).links = s.links := rfl
@[simp] theorem apply_clx_dies (n : Nat) (c : ClxReg) : ((Eff.clx n c).apply s).dies = s.dies := rfl
@[simp] theorem apply_clx_clxs (n : Nat) (c : ClxReg) : ((Eff.clx n c).apply s).clxs = Tab.set {} s.clxs n c := rfl
@[simp] theorem apply_clx_free (n : Nat) (c : ClxReg) : ((Eff.clx n c).apply s).free = s.free := rfl
@[simp] theorem apply_clx_pending (n : Nat) (c : ClxReg) : ((Eff.clx n c).apply s).pending = s.pending := rfl
@[simp] theorem apply_free_fuses (n : Nat) : ((Eff.free n).apply s).fuses = s.fuses := rfl
@[simp] theorem apply_free_hub (n : Nat) : ((Eff.free n).apply s).hub = s.hub := rfl
@[simp] theorem apply_free_tim (n : Nat) : ((Eff.free n).apply s).tim = s.tim := rfl
@[simp] theorem apply_free_kwy (n : Nat) : ((Eff.free n).apply s).kwy = s.kwy := rfl
@[simp] theorem apply_free_sec (n : Nat) : ((Eff.free n).apply s).sec = s.sec := rfl
@[simp] theorem apply_free_flt (n : Nat) : ((Eff.free n).apply s).flt = s.flt := rfl
@[simp] theorem apply_free_pmc (n : Nat) : ((Eff.free n).apply s).pmc = s.pmc := rfl
@[simp] theorem apply_free_mgmt (n : Nat) : ((Eff.free n).apply s).mgmt = s.mgmt := rfl
@[simp] theorem apply_free_pcie (n : Nat) : ((Eff.free n).apply s).pcie = s.pcie := rfl
@[simp] theorem apply_free_store (n : Nat) : ((Eff.free n).apply s).store = s.store := rfl
@[simp] theorem apply_free_out (n : Nat) : ((Eff.free n).apply s).out = s.out := rfl
@[simp] theorem apply_free_doms (n : Nat) : ((Eff.free n).apply s).doms = s.doms := rfl
@[simp] theorem apply_free_parts (n : Nat) : ((Eff.free n).apply s).parts = s.parts := rfl
@[simp] theorem apply_free_hasps (n : Nat) : ((Eff.free n).apply s).hasps = s.hasps := rfl
@[simp] theorem apply_free_queues (n : Nat) : ((Eff.free n).apply s).queues = s.queues := rfl
@[simp] theorem apply_free_cells (n : Nat) : ((Eff.free n).apply s).cells = s.cells := rfl
@[simp] theorem apply_free_uus (n : Nat) : ((Eff.free n).apply s).uus = s.uus := rfl
@[simp] theorem apply_free_cols (n : Nat) : ((Eff.free n).apply s).cols = s.cols := rfl
@[simp] theorem apply_free_links (n : Nat) : ((Eff.free n).apply s).links = s.links := rfl
@[simp] theorem apply_free_dies (n : Nat) : ((Eff.free n).apply s).dies = s.dies := rfl
@[simp] theorem apply_free_clxs (n : Nat) : ((Eff.free n).apply s).clxs = s.clxs := rfl
@[simp] theorem apply_free_free (n : Nat) : ((Eff.free n).apply s).free = n := rfl
@[simp] theorem apply_free_pending (n : Nat) : ((Eff.free n).apply s).pending = s.pending := rfl

end Sys2Proof.Machine
end

