-- ==== Sys2Proof/Laws/Ops.lean ====
section
/-! SUPPORT. The tables' reader after their writer, the canonical form under every write, effects in sequence, and actions
run in order. -/
namespace Sys2Proof.Machine

/-! ### Tables -/

section
variable {α : Type} [DecidableEq α] {d : α}

theorem Tab.wfFrom_mono {lo lo' : Nat} {t : Tab α} (h : lo' ≤ lo) (w : Tab.wfFrom d lo t = true) :
    Tab.wfFrom d lo' t = true := by
  cases t with
  | nil => rfl
  | cons e t =>
    obtain ⟨i, v⟩ := e
    simp only [Tab.wfFrom, Bool.and_eq_true, decide_eq_true_eq] at w ⊢
    exact ⟨⟨Nat.le_trans h w.1.1, w.1.2⟩, w.2⟩

theorem Tab.get_below {lo k : Nat} {t : Tab α} (w : Tab.wfFrom d lo t = true) (h : k < lo) : Tab.get d t k = d := by
  cases t with
  | nil => rfl
  | cons e t =>
    obtain ⟨i, v⟩ := e
    simp only [Tab.wfFrom, Bool.and_eq_true, decide_eq_true_eq] at w
    simp only [Tab.get]
    rw [if_pos (Nat.lt_of_lt_of_le h w.1.1)]

theorem Tab.wfFrom_set {lo k : Nat} {v : α} {t : Tab α} (w : Tab.wfFrom d lo t = true) (h : lo ≤ k) :
    Tab.wfFrom d lo (Tab.set d t k v) = true := by
  induction t generalizing lo with
  | nil =>
    simp only [Tab.set]
    split
    · rfl
    · simp_all [Tab.wfFrom]
  | cons e t ih =>
    obtain ⟨i, x⟩ := e
    simp only [Tab.wfFrom, Bool.and_eq_true, decide_eq_true_eq] at w
    obtain ⟨⟨h1, h2⟩, h3⟩ := w
    simp only [Tab.set]
    split
    · split
      · simp [Tab.wfFrom, h1, h2, h3]
      · rename_i h4 h5
        have h6 : k + 1 ≤ i := h4
        simp [Tab.wfFrom, h, h5, h2, h3, h6]
    · split
      · rename_i h4 h5
        subst h5
        split
        · exact Tab.wfFrom_mono (Nat.le_succ_of_le h) h3
        · rename_i h6
          simp [Tab.wfFrom, h, h6, h3]
      · rename_i h4 h5
        have h6 : i + 1 ≤ k := by omega
        simp [Tab.wfFrom, h1, h2, ih h3 h6]

/-- A write keeps the canonical form. -/
theorem Tab.wf_set {k : Nat} {v : α} {t : Tab α} (w : Tab.wf d t = true) : Tab.wf d (Tab.set d t k v) = true :=
  Tab.wfFrom_set w (Nat.zero_le _)

theorem Tab.wfFrom_clear {lo a b : Nat} {t : Tab α} (w : Tab.wfFrom d lo t = true) :
    Tab.wfFrom d lo (Tab.clear a b t) = true := by
  induction t generalizing lo with
  | nil => rfl
  | cons e t ih =>
    obtain ⟨i, x⟩ := e
    simp only [Tab.wfFrom, Bool.and_eq_true, decide_eq_true_eq] at w
    obtain ⟨⟨h1, h2⟩, h3⟩ := w
    simp only [Tab.clear, List.filter_cons] at *
    split
    · simp [Tab.wfFrom, h1, h2, ih h3]
    · exact Tab.wfFrom_mono (Nat.le_succ_of_le h1) (ih h3)

/-- Clearing a range keeps the canonical form. -/
theorem Tab.wf_clear {a b : Nat} {t : Tab α} (w : Tab.wf d t = true) : Tab.wf d (Tab.clear a b t) = true :=
  Tab.wfFrom_clear w

theorem Tab.get_setFrom {lo k j : Nat} {v : α} {t : Tab α} (w : Tab.wfFrom d lo t = true) :
    Tab.get d (Tab.set d t k v) j = if j = k then v else Tab.get d t j := by
  induction t generalizing lo with
  | nil =>
    simp only [Tab.set]
    split
    · rename_i h; simp [Tab.get, h]
    · by_cases h : j = k
      · simp [Tab.get, h]
      · simp only [Tab.get, if_neg h]; split <;> rfl
  | cons e t ih =>
    obtain ⟨i, x⟩ := e
    simp only [Tab.wfFrom, Bool.and_eq_true, decide_eq_true_eq] at w
    obtain ⟨⟨h1, h2⟩, h3⟩ := w
    simp only [Tab.set]
    by_cases hk : k < i
    · rw [if_pos hk]
      by_cases hv : v = d
      · rw [if_pos hv]
        by_cases hj : j = k
        · subst hj; simp [Tab.get, hk, hv]
        · rw [if_neg hj]
      · rw [if_neg hv]
        by_cases hj : j = k
        · subst hj; simp [Tab.get]
        · rw [if_neg hj]
          by_cases hl : j < k
          · simp [Tab.get, hl, Nat.lt_trans hl hk]
          · simp [Tab.get, hl, hj]
    · rw [if_neg hk]
      by_cases he : k = i
      · rw [if_pos he]
        subst he
        by_cases hv : v = d
        · rw [if_pos hv]
          by_cases hj : j = k
          · subst hj
            rw [if_pos rfl, hv]
            exact Tab.get_below h3 (Nat.lt_succ_self _)
          · rw [if_neg hj]
            by_cases hl : j < k
            · simp only [Tab.get, if_pos hl]
              exact Tab.get_below h3 (Nat.lt_succ_of_lt hl)
            · simp [Tab.get, hl, hj]
        · rw [if_neg hv]
          by_cases hj : j = k
          · subst hj; simp [Tab.get]
          · simp [Tab.get, hj]
      · rw [if_neg he]
        simp only [Tab.get]
        by_cases hl : j < i
        · rw [if_pos hl, if_pos hl, if_neg (by omega)]
        · rw [if_neg hl, if_neg hl]
          by_cases hj : j = i
          · rw [if_pos hj, if_pos hj, if_neg (by omega)]
          · rw [if_neg hj, if_neg hj, ih h3]

/-- The reader after the writer: the value written at its index, what was there at every other. -/
theorem Tab.get_set {k j : Nat} {v : α} {t : Tab α} (w : Tab.wf d t = true) :
    Tab.get d (Tab.set d t k v) j = if j = k then v else Tab.get d t j := Tab.get_setFrom w

theorem Tab.get_clearFrom {lo a b j : Nat} {t : Tab α} (w : Tab.wfFrom d lo t = true) :
    Tab.get d (Tab.clear a b t) j = if a ≤ j ∧ j < b then d else Tab.get d t j := by
  induction t generalizing lo with
  | nil => simp [Tab.clear, Tab.get]
  | cons e t ih =>
    obtain ⟨i, x⟩ := e
    have w' := w
    simp only [Tab.wfFrom, Bool.and_eq_true, decide_eq_true_eq] at w
    obtain ⟨⟨h1, h2⟩, h3⟩ := w
    have ih' := ih h3
    by_cases hp : (decide (i < a) || decide (b ≤ i)) = true
    · have : Tab.clear a b ((i, x) :: t) = (i, x) :: Tab.clear a b t := by simp only [Tab.clear, List.filter_cons, hp, if_true]
      rw [this]
      simp only [Tab.get]
      by_cases hl : j < i
      · rw [if_pos hl, if_pos hl]; split <;> rfl
      · rw [if_neg hl, if_neg hl]
        by_cases hj : j = i
        · subst hj
          simp only [Bool.or_eq_true, decide_eq_true_eq] at hp
          rw [if_pos rfl, if_pos rfl, if_neg (by omega)]
        · rw [if_neg hj, if_neg hj, ih']
    · have : Tab.clear a b ((i, x) :: t) = Tab.clear a b t := by simp only [Tab.clear, List.filter_cons, hp]; rfl
      rw [this, ih']
      simp only [Bool.or_eq_true, decide_eq_true_eq, not_or, Nat.not_lt, Nat.not_le] at hp
      simp only [Tab.get]
      by_cases hr : a ≤ j ∧ j < b
      · rw [if_pos hr, if_pos hr]
      · rw [if_neg hr, if_neg hr]
        by_cases hl : j < i
        · rw [if_pos hl]; exact Tab.get_below h3 (Nat.lt_succ_of_lt hl)
        · rw [if_neg hl, if_neg (by omega)]

/-- The reader after a range has been cleared. -/
theorem Tab.get_clear {a b j : Nat} {t : Tab α} (w : Tab.wf d t = true) :
    Tab.get d (Tab.clear a b t) j = if a ≤ j ∧ j < b then d else Tab.get d t j := Tab.get_clearFrom w

end

/-! ### Memory -/

theorem Mem.wf_write {m : Mem} {a : Nat} {bs : List Byte} (w : Memory.wf m = true) : Memory.wf (m.write a bs) = true := by
  induction bs generalizing m a with
  | nil => exact w
  | cons b bs ih => exact ih (Tab.wf_set w)

theorem flashWrite_wf {m : Mem} {a : Nat} {bs : List Byte} (w : Tab.wf flashDefault m = true) :
    Tab.wf flashDefault (flashWrite m a bs) = true := by
  induction bs generalizing m a with
  | nil => exact w
  | cons b bs ih => exact ih (Tab.wf_set w)

theorem writeVals_wf {t : Tab (BitVec 64)} {i : Nat} {vs : List (BitVec 64)} (w : Tab.wf 0 t = true) :
    Tab.wf 0 (writeVals t i vs) = true := by
  induction vs generalizing t i with
  | nil => exact w
  | cons v vs ih => exact ih (Tab.wf_set w)

/-- A byte outside the written ones reads as before; one of them reads as written. -/
theorem Mem.read_write {m : Mem} {a j : Nat} {bs : List Byte} (w : Memory.wf m = true) :
    (m.write a bs).read j = if a ≤ j ∧ j < a + bs.length then bs.getD (j - a) 0 else m.read j := by
  induction bs generalizing m a with
  | nil => rw [if_neg (by simp only [List.length_nil]; omega)]; rfl
  | cons b bs ih =>
    have w1 : Memory.wf (Tab.set memDefault m a b) = true := Tab.wf_set w
    simp only [Mem.write]
    rw [ih w1]
    simp only [List.length_cons]
    by_cases h1 : a + 1 ≤ j ∧ j < a + 1 + bs.length
    · rw [if_pos h1, if_pos (by omega)]
      obtain ⟨k, hk⟩ : ∃ k, j - a = k + 1 := ⟨j - a - 1, by omega⟩
      rw [hk]
      have : j - (a + 1) = k := by omega
      simp [this]
    · rw [if_neg h1]
      unfold Mem.read
      rw [Tab.get_set w]
      by_cases h2 : j = a
      · subst h2; simp
      · rw [if_neg h2, if_neg (by omega)]

theorem writeVals_get {t : Tab (BitVec 64)} {i j : Nat} {vs : List (BitVec 64)} (w : Tab.wf 0 t = true) :
    Tab.get 0 (writeVals t i vs) j = if i ≤ j ∧ j < i + vs.length then vs.getD (j - i) 0 else Tab.get 0 t j := by
  induction vs generalizing t i with
  | nil => rw [if_neg (by simp only [List.length_nil]; omega)]; rfl
  | cons v vs ih =>
    simp only [writeVals]
    rw [ih (Tab.wf_set w)]
    simp only [List.length_cons]
    by_cases h1 : i + 1 ≤ j ∧ j < i + 1 + vs.length
    · rw [if_pos h1, if_pos (by omega)]
      obtain ⟨k, hk⟩ : ∃ k, j - i = k + 1 := ⟨j - i - 1, by omega⟩
      rw [hk]
      have : j - (i + 1) = k := by omega
      simp [this]
    · rw [if_neg h1, Tab.get_set w]
      by_cases h2 : j = i
      · subst h2; simp
      · rw [if_neg h2, if_neg (by omega)]

/-! ### Effects -/

@[simp] theorem applyAll_nil (s : State) : applyAll [] s = s := rfl
@[simp] theorem applyAll_cons (e : Eff) (es : List Eff) (s : State) : applyAll (e :: es) s = applyAll es (e.apply s) := rfl

@[simp] theorem applyAll_append (es fs : List Eff) (s : State) : applyAll (es ++ fs) s = applyAll fs (applyAll es s) := by
  induction es generalizing s with
  | nil => rfl
  | cons e es ih => exact ih (e.apply s)

theorem Eff.apply_wf {e : Eff} {s : State} (w : s.wf = true) : (e.apply s).wf = true := by
  simp only [State.wf, Store.wf, State.tablesWf, Bool.and_eq_true] at w
  obtain ⟨⟨⟨⟨⟨⟨⟨w1, w2⟩, w3⟩, w4⟩, w5⟩, w6⟩, w7⟩, ⟨⟨⟨⟨⟨⟨⟨⟨⟨x1, x2⟩, x3⟩, x4⟩, x5⟩, x6⟩, x7⟩, x8⟩, x9⟩, x10⟩⟩ := w
  cases e <;> simp only [Eff.apply, State.wf, Store.wf, State.tablesWf, Bool.and_eq_true] <;>
    refine ⟨⟨⟨⟨⟨⟨⟨?_, ?_⟩, ?_⟩, ?_⟩, ?_⟩, ?_⟩, ?_⟩, ⟨⟨⟨⟨⟨⟨⟨⟨⟨?_, ?_⟩, ?_⟩, ?_⟩, ?_⟩, ?_⟩, ?_⟩, ?_⟩, ?_⟩, ?_⟩⟩ <;>
    first
    | assumption
    | exact Tab.wf_set (by assumption)
    | exact Tab.wf_clear (by assumption)
    | exact Mem.wf_write (by assumption)
    | exact flashWrite_wf (by assumption)
    | exact writeVals_wf (by assumption)

theorem applyAll_wf {es : List Eff} {s : State} (w : s.wf = true) : (applyAll es s).wf = true := by
  induction es generalizing s with
  | nil => exact w
  | cons e es ih => exact ih (Eff.apply_wf w)

@[simp] theorem Eff.apply_fuses (e : Eff) (s : State) : (e.apply s).fuses = s.fuses := by cases e <;> rfl
@[simp] theorem Eff.apply_pending (e : Eff) (s : State) : (e.apply s).pending = s.pending := by cases e <;> rfl

@[simp] theorem applyAll_fuses (es : List Eff) (s : State) : (applyAll es s).fuses = s.fuses := by
  induction es generalizing s with
  | nil => rfl
  | cons e es ih => simp [ih]

@[simp] theorem applyAll_pending (es : List Eff) (s : State) : (applyAll es s).pending = s.pending := by
  induction es generalizing s with
  | nil => rfl
  | cons e es ih => simp [ih]

/-! ### Actions -/

@[simp] theorem Act.run_skip (s : State) : Act.skip.run s = s := rfl
@[simp] theorem Act.run_all_nil (s : State) : (Act.all []).run s = s := rfl
@[simp] theorem Act.run_all_cons (a : Act) (as : List Act) (s : State) :
    (Act.all (a :: as)).run s = (Act.all as).run (a.run s) := by
  simp only [Act.run, Act.all, applyAll_append]

theorem Act.run_guard (c : Bool) (a : Act) (s : State) : (Act.guard c a).run s = if c then a.run s else s := by
  unfold Act.run Act.guard; cases c <;> rfl
@[simp] theorem Act.run_guard_true (a : Act) (s : State) : (Act.guard true a).run s = a.run s := rfl
@[simp] theorem Act.run_guard_false (a : Act) (s : State) : (Act.guard false a).run s = s := rfl
theorem Act.run_when (c : State → Bool) (a : Act) (s : State) :
    (Act.when c a).run s = if c s then a.run s else s := by
  unfold Act.run Act.when; cases c s <;> rfl
@[simp] theorem Act.run_each_nil {α : Type} (f : α → Act) (s : State) : (Act.each [] f).run s = s := rfl
@[simp] theorem Act.run_each_cons {α : Type} (x : α) (xs : List α) (f : α → Act) (s : State) :
    (Act.each (x :: xs) f).run s = (Act.each xs f).run ((f x).run s) := by
  simp only [Act.each, List.map_cons, Act.run_all_cons]
@[simp] theorem Act.run_fuses (a : Act) (s : State) : (a.run s).fuses = s.fuses := applyAll_fuses _ _
@[simp] theorem Act.run_pending (a : Act) (s : State) : (a.run s).pending = s.pending := applyAll_pending _ _
theorem Act.run_wf {a : Act} {s : State} (w : s.wf = true) : (a.run s).wf = true := applyAll_wf w

@[simp] theorem modHub_run (f : Hub → Hub) (s : State) : (modHub f).run s = (Eff.hub (f s.hub)).apply s := rfl
@[simp] theorem modTim_run (f : Tim → Tim) (s : State) : (modTim f).run s = (Eff.tim (f s.tim)).apply s := rfl
@[simp] theorem modKwy_run (f : Kwy → Kwy) (s : State) : (modKwy f).run s = (Eff.kwy (f s.kwy)).apply s := rfl
@[simp] theorem modSec_run (f : Sec → Sec) (s : State) : (modSec f).run s = (Eff.sec (f s.sec)).apply s := rfl
@[simp] theorem modFlt_run (f : Flt → Flt) (s : State) : (modFlt f).run s = (Eff.flt (f s.flt)).apply s := rfl
@[simp] theorem modPmc_run (f : Pmc → Pmc) (s : State) : (modPmc f).run s = (Eff.pmc (f s.pmc)).apply s := rfl
@[simp] theorem modMgmt_run (f : Mgmt → Mgmt) (s : State) : (modMgmt f).run s = (Eff.mgmt (f s.mgmt)).apply s := rfl
@[simp] theorem modPcie_run (f : Pcie → Pcie) (s : State) : (modPcie f).run s = (Eff.pcie (f s.pcie)).apply s := rfl
@[simp] theorem modOut_run (f : Out → Out) (s : State) : (modOut f).run s = (Eff.out (f s.out)).apply s := rfl
@[simp] theorem modDom_run (n : Nat) (f : Dom → Dom) (s : State) : (modDom n f).run s = (Eff.dom n (f (s.dom n))).apply s := rfl
@[simp] theorem modPart_run (n : Nat) (f : Part → Part) (s : State) :
    (modPart n f).run s = (Eff.part n (f (s.part n))).apply s := rfl
@[simp] theorem modRun_run (n : Nat) (f : Run → Run) (s : State) :
    (modRun n f).run s = (Eff.part n { s.part n with run := f (s.part n).run }).apply s := rfl
@[simp] theorem modHasp_run (n : Nat) (f : Hasp → Hasp) (s : State) :
    (modHasp n f).run s = (Eff.hasp n (f (s.hasp n))).apply s := rfl
@[simp] theorem modQueue_run (n : Nat) (f : Queue → Queue) (s : State) :
    (modQueue n f).run s = (Eff.queue n (f (s.queue n))).apply s := rfl
@[simp] theorem modCell_run (n : Nat) (f : Cell → Cell) (s : State) :
    (modCell n f).run s = (Eff.cell n (f (s.cell n))).apply s := rfl
@[simp] theorem modUu_run (n : Nat) (f : UuReg → UuReg) (s : State) : (modUu n f).run s = (Eff.uu n (f (s.uu n))).apply s := rfl
@[simp] theorem modCol_run (n : Nat) (f : Col → Col) (s : State) : (modCol n f).run s = (Eff.col n (f (s.col n))).apply s := rfl
@[simp] theorem modLink_run (l : LinkId) (f : LinkReg → LinkReg) (s : State) :
    (modLink l f).run s = (Eff.link (linkIdx l) (f (s.link l))).apply s := rfl
@[simp] theorem modDie_run (n : Nat) (f : DieReg → DieReg) (s : State) : (modDie n f).run s = (Eff.die n (f (s.die n))).apply s := rfl
@[simp] theorem modClx_run (n : Nat) (f : ClxReg → ClxReg) (s : State) : (modClx n f).run s = (Eff.clx n (f (s.clx n))).apply s := rfl
@[simp] theorem setLatch_run (l : Nat) (v : BitVec 64) (s : State) : (setLatch l v).run s = (Eff.latch l v).apply s := rfl
@[simp] theorem count_run (k n : Nat) (s : State) : (count k n).run s = (Eff.pmc (s.pmc.add k n)).apply s := rfl

/-! ### Reading a table of units after an effect -/

theorem dom_set {s : State} {n m : Nat} {d : Dom} (w : s.wf = true) :
    ((Eff.dom n d).apply s).dom m = if m = n then d else s.dom m := by
  simp only [State.wf, State.tablesWf, Bool.and_eq_true] at w
  exact Tab.get_set w.2.1.1.1.1.1.1.1.1.1
theorem part_set {s : State} {n m : Nat} {d : Part} (w : s.wf = true) :
    ((Eff.part n d).apply s).part m = if m = n then d else s.part m := by
  simp only [State.wf, State.tablesWf, Bool.and_eq_true] at w
  exact Tab.get_set w.2.1.1.1.1.1.1.1.1.2
theorem hasp_set {s : State} {n m : Nat} {d : Hasp} (w : s.wf = true) :
    ((Eff.hasp n d).apply s).hasp m = if m = n then d else s.hasp m := by
  simp only [State.wf, State.tablesWf, Bool.and_eq_true] at w
  exact Tab.get_set w.2.1.1.1.1.1.1.1.2
theorem queue_set {s : State} {n m : Nat} {d : Queue} (w : s.wf = true) :
    ((Eff.queue n d).apply s).queue m = if m = n then d else s.queue m := by
  simp only [State.wf, State.tablesWf, Bool.and_eq_true] at w
  exact Tab.get_set w.2.1.1.1.1.1.1.2
theorem cell_set {s : State} {n m : Nat} {d : Cell} (w : s.wf = true) :
    ((Eff.cell n d).apply s).cell m = if m = n then d else s.cell m := by
  simp only [State.wf, State.tablesWf, Bool.and_eq_true] at w
  exact Tab.get_set w.2.1.1.1.1.1.2
theorem uu_set {s : State} {n m : Nat} {d : UuReg} (w : s.wf = true) :
    ((Eff.uu n d).apply s).uu m = if m = n then d else s.uu m := by
  simp only [State.wf, State.tablesWf, Bool.and_eq_true] at w
  exact Tab.get_set w.2.1.1.1.1.2
theorem col_set {s : State} {n m : Nat} {d : Col} (w : s.wf = true) :
    ((Eff.col n d).apply s).col m = if m = n then d else s.col m := by
  simp only [State.wf, State.tablesWf, Bool.and_eq_true] at w
  exact Tab.get_set w.2.1.1.1.2
theorem link_set {s : State} {l m : LinkId} {d : LinkReg} (w : s.wf = true) :
    ((Eff.link (linkIdx l) d).apply s).link m = if linkIdx m = linkIdx l then d else s.link m := by
  simp only [State.wf, State.tablesWf, Bool.and_eq_true] at w
  exact Tab.get_set w.2.1.1.2
theorem die_set {s : State} {n m : Nat} {d : DieReg} (w : s.wf = true) :
    ((Eff.die n d).apply s).die m = if m = n then d else s.die m := by
  simp only [State.wf, State.tablesWf, Bool.and_eq_true] at w
  exact Tab.get_set w.2.1.2
theorem clx_set {s : State} {n m : Nat} {d : ClxReg} (w : s.wf = true) :
    ((Eff.clx n d).apply s).clx m = if m = n then d else s.clx m := by
  simp only [State.wf, State.tablesWf, Bool.and_eq_true] at w
  exact Tab.get_set w.2.2
theorem latch_set {s : State} {n m : Nat} {d : BitVec 64} (w : s.wf = true) :
    ((Eff.latch n d).apply s).latch m = if m = n then d else s.latch m := by
  simp only [State.wf, Store.wf, Bool.and_eq_true] at w
  exact Tab.get_set w.1.1.2

/-- The reset state is in canonical form. -/
theorem reset_wf : State.reset.wf = true := by decide

end Sys2Proof.Machine
end

