-- ==== Sys2Proof/Laws/Frame.lean ====
section
/-! SUPPORT. Frames: which effects an action can make, and what an action leaves alone that makes none of a kind. -/
namespace Sys2Proof.Machine

/-- The component of the state that an effect writes. -/
inductive Kind where
  | hub | tim | kwy | sec | flt | pmc | mgmt | pcie | out | mem | host | flash | tb | vreg | latch | gen | dom | part | hasp
  | queue | cell | uu | col | link | die | clx | free
  deriving DecidableEq, Repr

/-- The kind of an effect. -/
def Eff.kind : Eff → Kind
  | .hub _ => .hub | .tim _ => .tim | .kwy _ => .kwy | .sec _ => .sec | .flt _ => .flt | .pmc _ => .pmc
  | .mgmt _ => .mgmt | .pcie _ => .pcie | .out _ => .out | .mem _ _ => .mem | .host _ _ => .host
  | .flash _ _ => .flash | .tb _ _ => .tb | .vreg _ _ => .vreg | .latch _ _ => .latch | .gen _ _ => .gen
  | .clearMem _ _ => .mem | .clearTb _ _ => .tb | .clearVreg _ _ => .vreg | .dom _ _ => .dom | .part _ _ => .part
  | .hasp _ _ => .hasp | .queue _ _ => .queue | .cell _ _ => .cell | .uu _ _ => .uu | .col _ _ => .col
  | .link _ _ => .link | .die _ _ => .die | .clx _ _ => .clx | .free _ => .free

/-- Every effect that the action makes, in whatever state, satisfies `P`. -/
def Act.within (P : Eff → Prop) (a : Act) : Prop := ∀ s, ∀ e ∈ a s, P e

/-- The action writes only components of these kinds. -/
def Act.uses (ks : List Kind) (a : Act) : Prop := a.within (fun e => e.kind ∈ ks)

/-! ### Closure -/

theorem Act.within_skip {P : Eff → Prop} : Act.within P Act.skip := by intro s e h; cases h

theorem Act.within_all {P : Eff → Prop} {as : List Act} (h : ∀ a ∈ as, Act.within P a) : Act.within P (Act.all as) := by
  induction as with
  | nil => intro s e h; cases h
  | cons a as ih =>
    intro s e he
    simp only [Act.all, List.mem_append] at he
    rcases he with he | he
    · exact h a (List.mem_cons_self ..) s e he
    · exact ih (fun b hb => h b (List.mem_cons_of_mem _ hb)) _ e he

theorem Act.within_all_nil {P : Eff → Prop} : Act.within P (Act.all []) := Act.within_all (by simp)

theorem Act.within_all_cons {P : Eff → Prop} {a : Act} {as : List Act} (h : Act.within P a)
    (hs : Act.within P (Act.all as)) : Act.within P (Act.all (a :: as)) := by
  intro s e he
  simp only [Act.all, List.mem_append] at he
  rcases he with he | he
  · exact h s e he
  · exact hs _ e he

theorem Act.within_guard {P : Eff → Prop} {c : Bool} {a : Act} (h : Act.within P a) : Act.within P (Act.guard c a) := by
  intro s e he
  unfold Act.guard at he
  split at he
  · exact h s e he
  · cases he

theorem Act.within_when {P : Eff → Prop} {c : State → Bool} {a : Act} (h : Act.within P a) :
    Act.within P (Act.when c a) := by
  intro s e he
  unfold Act.when at he
  split at he
  · exact h s e he
  · cases he

theorem Act.within_each {P : Eff → Prop} {α : Type} {xs : List α} {f : α → Act} (h : ∀ x ∈ xs, Act.within P (f x)) :
    Act.within P (Act.each xs f) := by
  apply Act.within_all
  intro a ha
  obtain ⟨x, hx, rfl⟩ := List.mem_map.1 ha
  exact h x hx

/-- An action that first looks at the state makes what the action it then takes makes. -/
theorem Act.within_look {P : Eff → Prop} {f : State → Act} (h : ∀ s, Act.within P (f s)) :
    Act.within P (fun s => f s s) := fun s e he => h s s e he

theorem Act.within_mono {P Q : Eff → Prop} {a : Act} (h : ∀ e, P e → Q e) (w : Act.within P a) : Act.within Q a :=
  fun s e he => h e (w s e he)

theorem Act.uses_mono {ks js : List Kind} {a : Act} (h : ∀ k ∈ ks, k ∈ js) (w : a.uses ks) : a.uses js :=
  Act.within_mono (fun _ => h _) w

/-! ### What an action leaves alone -/

/-- A component that no effect of a list changes is what it was. -/
theorem applyAll_keeps {α : Type} (f : State → α) {P : Eff → Prop} (h : ∀ e s, P e → f (e.apply s) = f s)
    {es : List Eff} (w : ∀ e ∈ es, P e) (s : State) : f (applyAll es s) = f s := by
  induction es generalizing s with
  | nil => rfl
  | cons e es ih =>
    rw [applyAll_cons, ih (fun x hx => w x (List.mem_cons_of_mem _ hx)), h e s (w e (List.mem_cons_self ..))]

theorem Act.run_keeps {α : Type} (f : State → α) {P : Eff → Prop} (h : ∀ e s, P e → f (e.apply s) = f s) {a : Act}
    (w : a.within P) (s : State) : f (a.run s) = f s := applyAll_keeps f h (w s) s

theorem Act.run_hub {ks : List Kind} {a : Act} (w : a.uses ks) (h : .hub ∉ ks) (s : State) : (a.run s).hub = s.hub :=
  a.run_keeps (·.hub) (by intro e s he; cases e <;> first | rfl | exact absurd he h) w s
theorem Act.run_tim {ks : List Kind} {a : Act} (w : a.uses ks) (h : .tim ∉ ks) (s : State) : (a.run s).tim = s.tim :=
  a.run_keeps (·.tim) (by intro e s he; cases e <;> first | rfl | exact absurd he h) w s
theorem Act.run_kwy {ks : List Kind} {a : Act} (w : a.uses ks) (h : .kwy ∉ ks) (s : State) : (a.run s).kwy = s.kwy :=
  a.run_keeps (·.kwy) (by intro e s he; cases e <;> first | rfl | exact absurd he h) w s
theorem Act.run_sec {ks : List Kind} {a : Act} (w : a.uses ks) (h : .sec ∉ ks) (s : State) : (a.run s).sec = s.sec :=
  a.run_keeps (·.sec) (by intro e s he; cases e <;> first | rfl | exact absurd he h) w s
theorem Act.run_flt {ks : List Kind} {a : Act} (w : a.uses ks) (h : .flt ∉ ks) (s : State) : (a.run s).flt = s.flt :=
  a.run_keeps (·.flt) (by intro e s he; cases e <;> first | rfl | exact absurd he h) w s
theorem Act.run_pmc {ks : List Kind} {a : Act} (w : a.uses ks) (h : .pmc ∉ ks) (s : State) : (a.run s).pmc = s.pmc :=
  a.run_keeps (·.pmc) (by intro e s he; cases e <;> first | rfl | exact absurd he h) w s
theorem Act.run_mgmt {ks : List Kind} {a : Act} (w : a.uses ks) (h : .mgmt ∉ ks) (s : State) : (a.run s).mgmt = s.mgmt :=
  a.run_keeps (·.mgmt) (by intro e s he; cases e <;> first | rfl | exact absurd he h) w s
theorem Act.run_pcie {ks : List Kind} {a : Act} (w : a.uses ks) (h : .pcie ∉ ks) (s : State) : (a.run s).pcie = s.pcie :=
  a.run_keeps (·.pcie) (by intro e s he; cases e <;> first | rfl | exact absurd he h) w s
theorem Act.run_out {ks : List Kind} {a : Act} (w : a.uses ks) (h : .out ∉ ks) (s : State) : (a.run s).out = s.out :=
  a.run_keeps (·.out) (by intro e s he; cases e <;> first | rfl | exact absurd he h) w s
theorem Act.run_doms {ks : List Kind} {a : Act} (w : a.uses ks) (h : .dom ∉ ks) (s : State) : (a.run s).doms = s.doms :=
  a.run_keeps (·.doms) (by intro e s he; cases e <;> first | rfl | exact absurd he h) w s
theorem Act.run_parts {ks : List Kind} {a : Act} (w : a.uses ks) (h : .part ∉ ks) (s : State) : (a.run s).parts = s.parts :=
  a.run_keeps (·.parts) (by intro e s he; cases e <;> first | rfl | exact absurd he h) w s
theorem Act.run_hasps {ks : List Kind} {a : Act} (w : a.uses ks) (h : .hasp ∉ ks) (s : State) : (a.run s).hasps = s.hasps :=
  a.run_keeps (·.hasps) (by intro e s he; cases e <;> first | rfl | exact absurd he h) w s
theorem Act.run_queues {ks : List Kind} {a : Act} (w : a.uses ks) (h : .queue ∉ ks) (s : State) : (a.run s).queues = s.queues :=
  a.run_keeps (·.queues) (by intro e s he; cases e <;> first | rfl | exact absurd he h) w s
theorem Act.run_cells {ks : List Kind} {a : Act} (w : a.uses ks) (h : .cell ∉ ks) (s : State) : (a.run s).cells = s.cells :=
  a.run_keeps (·.cells) (by intro e s he; cases e <;> first | rfl | exact absurd he h) w s
theorem Act.run_uus {ks : List Kind} {a : Act} (w : a.uses ks) (h : .uu ∉ ks) (s : State) : (a.run s).uus = s.uus :=
  a.run_keeps (·.uus) (by intro e s he; cases e <;> first | rfl | exact absurd he h) w s
theorem Act.run_cols {ks : List Kind} {a : Act} (w : a.uses ks) (h : .col ∉ ks) (s : State) : (a.run s).cols = s.cols :=
  a.run_keeps (·.cols) (by intro e s he; cases e <;> first | rfl | exact absurd he h) w s
theorem Act.run_links {ks : List Kind} {a : Act} (w : a.uses ks) (h : .link ∉ ks) (s : State) : (a.run s).links = s.links :=
  a.run_keeps (·.links) (by intro e s he; cases e <;> first | rfl | exact absurd he h) w s
theorem Act.run_dies {ks : List Kind} {a : Act} (w : a.uses ks) (h : .die ∉ ks) (s : State) : (a.run s).dies = s.dies :=
  a.run_keeps (·.dies) (by intro e s he; cases e <;> first | rfl | exact absurd he h) w s
theorem Act.run_clxs {ks : List Kind} {a : Act} (w : a.uses ks) (h : .clx ∉ ks) (s : State) : (a.run s).clxs = s.clxs :=
  a.run_keeps (·.clxs) (by intro e s he; cases e <;> first | rfl | exact absurd he h) w s
theorem Act.run_free {ks : List Kind} {a : Act} (w : a.uses ks) (h : .free ∉ ks) (s : State) : (a.run s).free = s.free :=
  a.run_keeps (·.free) (by intro e s he; cases e <;> first | rfl | exact absurd he h) w s
theorem Act.run_store_mem {ks : List Kind} {a : Act} (w : a.uses ks) (h : .mem ∉ ks) (s : State) :
    (a.run s).store.mem = s.store.mem :=
  a.run_keeps (·.store.mem) (by intro e s he; cases e <;> first | rfl | exact absurd he h) w s
theorem Act.run_store_host {ks : List Kind} {a : Act} (w : a.uses ks) (h : .host ∉ ks) (s : State) :
    (a.run s).store.host = s.store.host :=
  a.run_keeps (·.store.host) (by intro e s he; cases e <;> first | rfl | exact absurd he h) w s
theorem Act.run_store_flash {ks : List Kind} {a : Act} (w : a.uses ks) (h : .flash ∉ ks) (s : State) :
    (a.run s).store.flash = s.store.flash :=
  a.run_keeps (·.store.flash) (by intro e s he; cases e <;> first | rfl | exact absurd he h) w s
theorem Act.run_store_tb {ks : List Kind} {a : Act} (w : a.uses ks) (h : .tb ∉ ks) (s : State) :
    (a.run s).store.tb = s.store.tb :=
  a.run_keeps (·.store.tb) (by intro e s he; cases e <;> first | rfl | exact absurd he h) w s
theorem Act.run_store_vreg {ks : List Kind} {a : Act} (w : a.uses ks) (h : .vreg ∉ ks) (s : State) :
    (a.run s).store.vreg = s.store.vreg :=
  a.run_keeps (·.store.vreg) (by intro e s he; cases e <;> first | rfl | exact absurd he h) w s
theorem Act.run_store_latch {ks : List Kind} {a : Act} (w : a.uses ks) (h : .latch ∉ ks) (s : State) :
    (a.run s).store.latch = s.store.latch :=
  a.run_keeps (·.store.latch) (by intro e s he; cases e <;> first | rfl | exact absurd he h) w s
theorem Act.run_store_gen {ks : List Kind} {a : Act} (w : a.uses ks) (h : .gen ∉ ks) (s : State) :
    (a.run s).store.gen = s.store.gen :=
  a.run_keeps (·.store.gen) (by intro e s he; cases e <;> first | rfl | exact absurd he h) w s

/-- An action that writes none of the memories leaves them all. -/
theorem Act.run_store {ks : List Kind} {a : Act} (w : a.uses ks)
    (h : ∀ k ∈ [Kind.mem, .host, .flash, .tb, .vreg, .latch, .gen], k ∉ ks) (s : State) : (a.run s).store = s.store :=
  a.run_keeps (·.store) (by
    intro e s he
    cases e <;> first | rfl | exact absurd he (h _ (by simp [Eff.kind]))) w s

/-! ### The units of one number -/

/-- The effect writes no partition but `n`. -/
def Eff.onlyPart (n : Nat) : Eff → Prop
  | .part m _ => m = n
  | _ => True

/-- The effect writes no domain slot but `n`. -/
def Eff.onlyDom (n : Nat) : Eff → Prop
  | .dom m _ => m = n
  | _ => True

theorem Act.run_other_part {n m : Nat} {a : Act} {s : State} (w : a.within (Eff.onlyPart n)) (wf : s.wf = true)
    (h : m ≠ n) : (a.run s).part m = s.part m := by
  have key : ∀ (es : List Eff) (s : State), s.wf = true → (∀ e ∈ es, Eff.onlyPart n e) →
      (applyAll es s).part m = s.part m := by
    intro es
    induction es with
    | nil => intros; rfl
    | cons e es ih =>
      intro s ws we
      rw [applyAll_cons, ih _ (Eff.apply_wf ws) (fun x hx => we x (List.mem_cons_of_mem _ hx))]
      have he := we e (List.mem_cons_self ..)
      cases e <;> first | rfl | (simp only [Eff.onlyPart] at he; rw [part_set ws, if_neg (by omega)])
  exact key _ s wf (w s)

theorem Act.run_other_dom {n m : Nat} {a : Act} {s : State} (w : a.within (Eff.onlyDom n)) (wf : s.wf = true)
    (h : m ≠ n) : (a.run s).dom m = s.dom m := by
  have key : ∀ (es : List Eff) (s : State), s.wf = true → (∀ e ∈ es, Eff.onlyDom n e) →
      (applyAll es s).dom m = s.dom m := by
    intro es
    induction es with
    | nil => intros; rfl
    | cons e es ih =>
      intro s ws we
      rw [applyAll_cons, ih _ (Eff.apply_wf ws) (fun x hx => we x (List.mem_cons_of_mem _ hx))]
      have he := we e (List.mem_cons_self ..)
      cases e <;> first | rfl | (simp only [Eff.onlyDom] at he; rw [dom_set ws, if_neg (by omega)])
  exact key _ s wf (w s)

end Sys2Proof.Machine
end

