-- ==== Sys2Proof/Laws/Exec.lean ====
section
/-! SUPPORT. What any command can do: its next state, where it answers one, comes from a list of elementary effects. -/
namespace Sys2Proof.Machine

/-- Every next state is the old one after some elementary effects. -/
theorem exec_effects {c : Instr} {s t : State} (h : exec c s = .next t) : ∃ es, t = applyAll es s := by
  cases c
  case jtagPrivate ir =>
    simp only [exec, execJtagPrivate] at h
    split at h
    · cases h
    · cases h; exact ⟨_, rfl⟩
  case railFault rail mv =>
    simp only [exec, execRailFault] at h
    split at h
    · cases h
    · cases h; exact ⟨_, rfl⟩
  all_goals (injection h with h; exact ⟨_, h.symm⟩)

end Sys2Proof.Machine
end

