-- ==== Sys2Proof/Laws/Shared.lean ====
section
/-! SUPPORT. What each shared operation can do: its effects are among those of the named kinds, for any property `P` of effects
that holds of them. The provers cite these instead of unfolding the operation. -/
namespace Sys2Proof.Machine

variable {P : Eff → Prop}

theorem modHub_within {f : Hub → Hub} (h : ∀ x, P (.hub x)) : (modHub f).within P := by
  intro s e he; simp only [modHub, List.mem_singleton] at he; subst he; exact h _
theorem modTim_within {f : Tim → Tim} (h : ∀ x, P (.tim x)) : (modTim f).within P := by
  intro s e he; simp only [modTim, List.mem_singleton] at he; subst he; exact h _
theorem modKwy_within {f : Kwy → Kwy} (h : ∀ x, P (.kwy x)) : (modKwy f).within P := by
  intro s e he; simp only [modKwy, List.mem_singleton] at he; subst he; exact h _
theorem modSec_within {f : Sec → Sec} (h : ∀ x, P (.sec x)) : (modSec f).within P := by
  intro s e he; simp only [modSec, List.mem_singleton] at he; subst he; exact h _
theorem modFlt_within {f : Flt → Flt} (h : ∀ x, P (.flt x)) : (modFlt f).within P := by
  intro s e he; simp only [modFlt, List.mem_singleton] at he; subst he; exact h _
theorem modPmc_within {f : Pmc → Pmc} (h : ∀ x, P (.pmc x)) : (modPmc f).within P := by
  intro s e he; simp only [modPmc, List.mem_singleton] at he; subst he; exact h _
theorem modMgmt_within {f : Mgmt → Mgmt} (h : ∀ x, P (.mgmt x)) : (modMgmt f).within P := by
  intro s e he; simp only [modMgmt, List.mem_singleton] at he; subst he; exact h _
theorem modPcie_within {f : Pcie → Pcie} (h : ∀ x, P (.pcie x)) : (modPcie f).within P := by
  intro s e he; simp only [modPcie, List.mem_singleton] at he; subst he; exact h _
theorem modOut_within {f : Out → Out} (h : ∀ x, P (.out x)) : (modOut f).within P := by
  intro s e he; simp only [modOut, List.mem_singleton] at he; subst he; exact h _
theorem modDom_within {n : Nat} {f : Dom → Dom} (h : ∀ x, P (.dom n x)) : (modDom n f).within P := by
  intro s e he; simp only [modDom, List.mem_singleton] at he; subst he; exact h _
theorem modPart_within {n : Nat} {f : Part → Part} (h : ∀ x, P (.part n x)) : (modPart n f).within P := by
  intro s e he; simp only [modPart, List.mem_singleton] at he; subst he; exact h _
theorem modHasp_within {n : Nat} {f : Hasp → Hasp} (h : ∀ x, P (.hasp n x)) : (modHasp n f).within P := by
  intro s e he; simp only [modHasp, List.mem_singleton] at he; subst he; exact h _
theorem modQueue_within {n : Nat} {f : Queue → Queue} (h : ∀ x, P (.queue n x)) : (modQueue n f).within P := by
  intro s e he; simp only [modQueue, List.mem_singleton] at he; subst he; exact h _
theorem modCell_within {n : Nat} {f : Cell → Cell} (h : ∀ x, P (.cell n x)) : (modCell n f).within P := by
  intro s e he; simp only [modCell, List.mem_singleton] at he; subst he; exact h _
theorem modUu_within {n : Nat} {f : UuReg → UuReg} (h : ∀ x, P (.uu n x)) : (modUu n f).within P := by
  intro s e he; simp only [modUu, List.mem_singleton] at he; subst he; exact h _
theorem modCol_within {n : Nat} {f : Col → Col} (h : ∀ x, P (.col n x)) : (modCol n f).within P := by
  intro s e he; simp only [modCol, List.mem_singleton] at he; subst he; exact h _
theorem modDie_within {n : Nat} {f : DieReg → DieReg} (h : ∀ x, P (.die n x)) : (modDie n f).within P := by
  intro s e he; simp only [modDie, List.mem_singleton] at he; subst he; exact h _
theorem modClx_within {n : Nat} {f : ClxReg → ClxReg} (h : ∀ x, P (.clx n x)) : (modClx n f).within P := by
  intro s e he; simp only [modClx, List.mem_singleton] at he; subst he; exact h _
theorem modLink_within {l : LinkId} {f : LinkReg → LinkReg} (h : ∀ x, P (.link (linkIdx l) x)) : (modLink l f).within P := by
  intro s e he; simp only [modLink, List.mem_singleton] at he; subst he; exact h _
theorem modRun_within {n : Nat} {f : Run → Run} (h : ∀ x, P (.part n x)) : (modRun n f).within P := modPart_within h
theorem modStream_within {sid : StreamId} {f : Stream → Stream} (h : ∀ x, P (.part sid.part x)) :
    (modStream sid f).within P := modRun_within h
theorem setLatch_within {l : Nat} {v : BitVec 64} (h : P (.latch l v)) : (setLatch l v).within P := by
  intro s e he; simp only [setLatch, List.mem_singleton] at he; subst he; exact h
theorem free_within {f : State → Nat} (h : ∀ n, P (.free n)) : Act.within P (fun t => [.free (f t)]) := by
  intro s e he; simp only [List.mem_singleton] at he; subst he; exact h _

/-! ### Events -/

theorem count_within {k n : Nat} (h : ∀ x, P (.pmc x)) : (count k n).within P := modPmc_within h

theorem countF_within {b k n : Nat} {o : Occ} (h : ∀ x, P (.pmc x)) : (countF b k n o).within P := by
  intro s e he
  unfold countF at he
  split at he
  · exact count_within h s e he
  · cases he

theorem irq_within {f v : Nat} (h1 : ∀ x, P (.out x)) (h2 : ∀ x, P (.pcie x)) : (irq f v).within P := by
  intro s e he
  unfold irq at he
  split at he
  · split at he
    · exact modOut_within h1 s e he
    · exact modPcie_within h2 s e he
  · cases he

theorem irqPart_within {n v : Nat} (h1 : ∀ x, P (.out x)) (h2 : ∀ x, P (.pcie x)) : (irqPart n v).within P :=
  Act.within_all_cons (irq_within h1 h2) (Act.within_all_cons (irq_within h1 h2) Act.within_all_nil)

theorem alert_within {i : Nat} (h1 : ∀ x, P (.out x)) (h2 : ∀ x, P (.pcie x)) (h3 : ∀ x, P (.hub x)) :
    (alert i).within P :=
  Act.within_all_cons (modHub_within h3) (Act.within_all_cons (irq_within h1 h2) Act.within_all_nil)

theorem timInt_within {i : Nat} (h1 : ∀ x, P (.out x)) (h2 : ∀ x, P (.pcie x)) (h3 : ∀ x, P (.hub x))
    (h4 : ∀ x, P (.tim x)) : (timInt i).within P :=
  Act.within_all_cons (modTim_within h4) (Act.within_all_cons (irq_within h1 h2)
    (Act.within_all_cons (Act.within_guard (alert_within h1 h2 h3))
      (Act.within_all_cons (Act.within_guard (alert_within h1 h2 h3)) Act.within_all_nil)))

theorem fltWrite_within {die unit : Nat} {code : FltCode} {part : Option Nat} {sev : Nat} (h1 : ∀ x, P (.flt x))
    (h2 : ∀ x, P (.free x)) : (fltWrite die unit code part sev).within P := by
  intro s e he
  simp only [fltWrite] at he
  split at he
  · exact modFlt_within h1 s e he
  · exact Act.within_all_cons (modFlt_within h1) (Act.within_all_cons (free_within h2) Act.within_all_nil) s e he

theorem fltFlush_within (h : ∀ x, P (.flt x)) : fltFlush.within P := by
  intro s e he; exact modFlt_within h s e he

theorem poke1_within {a : Nat} {b : Byte} (h1 : ∀ x bs, P (.mem x bs)) (h2 : ∀ x bs, P (.host x bs)) :
    (poke1 a b).within P := by
  intro s e he
  unfold poke1 at he
  split at he <;> simp only [List.mem_singleton, List.not_mem_nil] at he <;> subst he <;> first | exact h1 _ _ | exact h2 _ _

theorem poke_within {a : Nat} {bs : List Byte} (h1 : ∀ x bs, P (.mem x bs)) (h2 : ∀ x bs, P (.host x bs)) :
    (poke a bs).within P := by
  induction bs generalizing a with
  | nil => exact Act.within_skip
  | cons b bs ih =>
    intro s e he
    simp only [poke, List.mem_append] at he
    rcases he with he | he
    · exact poke1_within h1 h2 s e he
    · exact ih _ e he

theorem accessed_within {rs : List (Nat × Nat)} (h : ∀ x, P (.kwy x)) : (accessed rs).within P := by
  intro s e he
  exact Act.within_each (fun _ _ => Act.within_when (modKwy_within h)) s e he

/-- A write at an address that a register holds changes memory and the count of accesses that reach nothing. -/
theorem storeAt_within {a : Nat} {bs : List Byte} (h1 : ∀ x bs, P (.mem x bs)) (h2 : ∀ x bs, P (.host x bs))
    (h3 : ∀ x, P (.kwy x)) : (storeAt a bs).within P := by
  intro s e he
  refine Act.within_all_cons (accessed_within h3) (Act.within_all_cons (Act.within_each (fun x _ => ?_)) Act.within_all_nil) s e he
  intro s e he
  dsimp only at he
  split at he
  · cases he
  · exact poke1_within h1 h2 s e he

theorem cper_within {c : List Byte} (h1 : ∀ x, P (.out x)) (h2 : ∀ x, P (.pcie x)) (h3 : ∀ x, P (.flt x))
    (h4 : ∀ x, P (.free x)) (h5 : ∀ x bs, P (.mem x bs)) (h6 : ∀ x bs, P (.host x bs)) (h7 : ∀ x, P (.kwy x)) :
    (cper c).within P := by
  intro s e he
  simp only [cper] at he
  split at he
  · cases he
  · split at he
    · exact fltWrite_within h3 h4 s e he
    · exact Act.within_all_cons (storeAt_within h5 h6 h7) (Act.within_all_cons (modFlt_within h3)
        (Act.within_all_cons (free_within h4) (Act.within_all_cons (irq_within h1 h2) Act.within_all_nil))) s e he

theorem fltEventC_within {die unit : Nat} {code : FltCode} {part : Option Nat} {sev : Nat} {c : List Byte}
    (h1 : ∀ x, P (.out x)) (h2 : ∀ x, P (.pcie x)) (h3 : ∀ x, P (.flt x)) (h4 : ∀ x, P (.free x))
    (h5 : ∀ x bs, P (.mem x bs)) (h6 : ∀ x bs, P (.host x bs)) (h7 : ∀ x, P (.kwy x)) :
    (fltEventC die unit code part sev c).within P :=
  Act.within_all_cons (fltWrite_within h3 h4) (Act.within_all_cons (Act.within_guard (cper_within h1 h2 h3 h4 h5 h6 h7))
    (Act.within_all_cons (Act.within_guard (fltFlush_within h3)) Act.within_all_nil))

theorem fltEvent_within {die unit : Nat} {code : FltCode} {part : Option Nat} {sev : Nat} (h1 : ∀ x, P (.out x))
    (h2 : ∀ x, P (.pcie x)) (h3 : ∀ x, P (.flt x)) (h4 : ∀ x, P (.free x)) (h5 : ∀ x bs, P (.mem x bs))
    (h6 : ∀ x bs, P (.host x bs)) (h7 : ∀ x, P (.kwy x)) : (fltEvent die unit code part sev).within P :=
  fltEventC_within h1 h2 h3 h4 h5 h6 h7

/-- An event of severity 0 or 1 writes the ring alone: no record goes to the host and nothing is flushed. -/
theorem fltEvent_low_within {die unit : Nat} {code : FltCode} {part : Option Nat} {sev : Nat} (h : sev < 2)
    (h1 : ∀ x, P (.flt x)) (h2 : ∀ x, P (.free x)) : (fltEvent die unit code part sev).within P := by
  have e1 : decide (2 ≤ sev) = false := by simp; omega
  have e2 : (sev == 3) = false := by simp; omega
  unfold fltEvent fltEventC
  rw [e1, e2]
  exact Act.within_all_cons (fltWrite_within h1 h2) (Act.within_all_cons Act.within_skip
    (Act.within_all_cons Act.within_skip Act.within_all_nil))

theorem replReason_within {i : Nat} (h1 : ∀ x, P (.out x)) (h2 : ∀ x, P (.pcie x)) (h3 : ∀ x, P (.flt x))
    (h4 : ∀ x, P (.free x)) (h5 : ∀ x bs, P (.mem x bs)) (h6 : ∀ x bs, P (.host x bs)) (h7 : ∀ x, P (.hub x))
    (h8 : ∀ x, P (.kwy x)) : (replReason i).within P := by
  intro s e he
  unfold replReason at he
  split at he
  · cases he
  · exact Act.within_all_cons (modHub_within h7) (Act.within_all_cons (fltEvent_within h1 h2 h3 h4 h5 h6 h8)
      (Act.within_all_cons (cper_within h1 h2 h3 h4 h5 h6 h8) (Act.within_all_cons (irq_within h1 h2) Act.within_all_nil))) s e he

/-! ### Symbols, holds, stalls and program faults -/

theorem sendSym_within {l : LinkId} {b : SymBody} (h : ∀ i x, P (.link i x)) : (sendSym l b).within P :=
  modLink_within (h _)

theorem floodSym_within {but : Option LinkId} {b : SymBody} (h : ∀ i x, P (.link i x)) : (floodSym but b).within P := by
  intro s e he
  exact Act.within_each (fun _ _ => sendSym_within h) s e he

theorem noteSeen_within {a : BitVec 16} {b : BitVec 8} (h : ∀ x, P (.tim x)) : (noteSeen a b).within P := modTim_within h

/-- A raise or a release writes the domain slot, the TIM block and the control streams of the links. -/
theorem sendHold_within {n : Nat} {r : Bool} (h1 : ∀ x, P (.dom n x)) (h2 : ∀ x, P (.tim x)) (h3 : ∀ i x, P (.link i x)) :
    (sendHold n r).within P := by
  intro s e he
  exact Act.within_all_cons (modDom_within h1) (Act.within_all_cons (modTim_within h2)
    (Act.within_all_cons (noteSeen_within h2) (Act.within_all_cons (floodSym_within h3) Act.within_all_nil))) s e he

theorem raiseHold_within {n : Nat} (h1 : ∀ x, P (.dom n x)) (h2 : ∀ x, P (.tim x)) (h3 : ∀ i x, P (.link i x))
    (h4 : ∀ x, P (.pmc x)) : (raiseHold n).within P :=
  Act.within_when (Act.within_all_cons (sendHold_within h1 h2 h3) (Act.within_all_cons (modDom_within h1)
    (Act.within_all_cons (count_within h4) (Act.within_all_cons (count_within h4) Act.within_all_nil))))

theorem releaseHold_within {n : Nat} (h1 : ∀ x, P (.dom n x)) (h2 : ∀ x, P (.tim x)) (h3 : ∀ i x, P (.link i x)) :
    (releaseHold n).within P := Act.within_when (sendHold_within h1 h2 h3)

theorem takeEffect_within {n : Nat} (h : ∀ x, P (.dom n x)) : (takeEffect n).within P := by
  intro s e he
  simp only [takeEffect] at he
  split at he
  · cases he
  · split at he
    · exact modDom_within h s e he
    · cases he

theorem stall_within {n id : Nat} {c : StallCause} (h : ∀ x, P (.dom n x)) : (stall n c id).within P := modDom_within h
theorem unstall_within {n id : Nat} {c : StallCause} (h : ∀ x, P (.dom n x)) : (unstall n c id).within P := modDom_within h
theorem setWait_within {q c : Nat} {p : BitVec 64} (h : ∀ x, P (.queue q x)) : (setWait q c p).within P := modQueue_within h

/-- The stop of a partition's streams writes that partition and the wait states of its queues. -/
theorem stopStreams_within {n : Nat} (h1 : ∀ x, P (.part n x)) (h2 : ∀ i x, P (.queue i x)) : (stopStreams n).within P := by
  intro s e he
  exact Act.within_all_cons (modRun_within h1) (Act.within_all_cons (Act.within_each (fun _ _ => setWait_within (h2 _)))
    Act.within_all_nil) s e he

/-- What a program fault writes: its own partition and domain slot, the wait states of queues, the TIM block, the links' control
streams, the flight recorder, the counters, interrupts, and a record in the host's ring, with the count of what that ring's address
does not reach. -/
theorem progFault_within {n : Nat} {i : FaultInfo} (h1 : ∀ x, P (.out x)) (h2 : ∀ x, P (.pcie x)) (h3 : ∀ x, P (.flt x))
    (h4 : ∀ x, P (.free x)) (h5 : ∀ x bs, P (.mem x bs)) (h6 : ∀ x bs, P (.host x bs)) (h7 : ∀ x, P (.part n x))
    (h8 : ∀ i x, P (.queue i x)) (h9 : ∀ x, P (.dom n x)) (h10 : ∀ x, P (.tim x)) (h11 : ∀ i x, P (.link i x))
    (h12 : ∀ x, P (.pmc x)) (h13 : ∀ x, P (.kwy x)) : (progFault n i).within P := by
  refine Act.within_all_cons (fun s e he => modPart_within h7 s e he) (Act.within_all_cons (count_within h12)
    (Act.within_all_cons (stopStreams_within h7 h8) (Act.within_all_cons (raiseHold_within h9 h10 h11 h12)
      (Act.within_all_cons (fltEvent_within h1 h2 h3 h4 h5 h6 h13) (Act.within_all_cons (irqPart_within h1 h2)
        (Act.within_all_cons (modPart_within h7) Act.within_all_nil))))))

end Sys2Proof.Machine
end

