-- ==== Sys2Proof/Laws/Issue.lean ====
section
/-! SUPPORT. The issue of an instruction that nothing keeps from issuing: its body alone decides, and what the issue writes. -/
namespace Sys2Proof.Machine

variable {s : State} {sid : StreamId} {w : InsnWord} {st : Stream}

theorem Ready.heldCode (r : Ready s sid w st) : heldCode (s.part sid.part).run sid = none := by
  unfold Machine.heldCode
  rw [List.findSome?_eq_none_iff]
  intro o ho
  rw [if_neg (by simpa using r.alone o ho)]

theorem Ready.noOps (r : Ready s sid w st) (p : Op → Bool) :
    (s.part sid.part).run.ops.any (fun o => o.sid == sid && p o) = false := by
  rw [List.any_eq_false]
  intro o ho
  simp [r.alone o ho]

/-- Only a unit of a cell is on a cell. -/
theorem cellAt_none {sid : StreamId} {u : Nat} (h : ¬ u < 13) : cellAt sid u = none := by
  unfold cellAt
  rw [if_neg]
  simp only [Bool.and_eq_true, decide_eq_true_eq]
  omega

theorem Ready.unblocked (r : Ready s sid w st) (g : Go) : blockedBy (s.part sid.part) sid g = false := by
  unfold blockedBy
  rw [List.any_eq_false]
  intro o ho
  have h1 : (o.sid == sid) = false := by simp [r.alone o ho]
  have h2 : ((cellUnit (s.part sid.part) sid g.unit).isSome &&
      cellUnit (s.part sid.part) o.sid o.unit == cellUnit (s.part sid.part) sid g.unit) = false := by
    by_cases hu : g.unit < 13
    · have := (r.cellFree o ho g.unit hu).1
      cases hc : (cellUnit (s.part sid.part) sid g.unit).isSome
      · rfl
      · simp [this hc]
    · simp [cellUnit, cellAt_none hu]
  have h3 : sameOrder o sid g.unit = false := by
    unfold sameOrder
    rw [h1, Bool.false_or]
    by_cases hu : g.unit < 13
    · have := (r.cellFree o ho g.unit hu).2
      cases hc : (cellAt sid g.unit).isSome
      · rfl
      · simp [this hc]
    · simp [cellAt_none hu]
  simp [h1, h2, h3]

theorem Ready.noneOfStream (r : Ready s sid w st) : (s.part sid.part).run.ops.any (fun o => o.sid == sid) = false := by
  rw [List.any_eq_false]
  intro o ho
  simp [r.alone o ho]

/-- What a ready instruction's own body says is what happens. -/
theorem issueWith_ready {traffic : StreamId → Nat → Go → Act} {body : Ctx → Verdict}
    {isRow : Bool} (r : Ready s sid w st) (row : isRow = true) : issueWith traffic sid w isRow body s =
      match body { s := s, sid := sid, st := st, w := w } with
      | .wait code => notAccepted sid st.queue code (pscOf s sid) s
      | .stall code a => Act.all [notAccepted sid st.queue code (pscOf s sid), a] s
      | .fault c d a => streamFault sid w (s.queue st.queue).head c d a s
      | .go g => issueGo traffic sid w g s := by
  subst row
  unfold issueWith
  have h2 : (actsDep sid w && !st.armed) = false := by
    cases hd : actsDep sid w
    · rfl
    · simp [r.armed hd]
  have h3 : ¬ ((s.dom sid.part).psc.toNat < st.lastIssue.toNat + st.interval * 10) := by
    have := r.spaced; simp only [pscOf] at this; omega
  simp only [r.found, r.running, r.live.1, r.live.2, r.moving, r.head, r.legal, bne_self_eq_false, Bool.or_self,
    Bool.false_eq_true, if_false, h2, r.heldCode, Option.isSome_none, r.noneOfStream, Bool.and_false, h3, r.unblocked,
    r.quiet.1, Bool.not_true, pscOf]
  cases hk : headStrike (s.part sid.part).run st w with
  | none => rfl
  | some k =>
    have h1 : ¬ (s.dom sid.part).psc.toNat < k.toNat := by
      have := r.struck k hk
      simp only [pscOf] at this
      omega
    simp only [h1, decide_false, Bool.false_eq_true, if_false] <;> rfl

/-- What a ready instruction leaves when its operation is in flight and its own further effects have not happened yet. -/
structure Put (s : State) (sid : StreamId) (w : InsnWord) (st : Stream) (g : Go) (o : Op) (u : State) : Prop where
  wf : u.wf = true
  queue : Advanced s sid st (g.next.getD ((s.queue st.queue).head + 1)) u
  contained : Contained s sid u
  cells : u.cells = s.cells
  run : (u.part sid.part).run = { (s.part sid.part).run with
    nextOp := (s.part sid.part).run.nextOp + 1,
    ops := if g.inFlight then (s.part sid.part).run.ops ++ [o] else (s.part sid.part).run.ops,
    streams := (s.part sid.part).run.streams.map (fun t => if t.sid == sid then { t with
      crc := if (s.part sid.part).recd.trace then
          BitVec.ofNat 64 (crc64Reg t.crc.toNat (leBytes 8 (pscOf s sid).toNat ++ leBytes 16 w.toNat)) else t.crc,
      armed := false, lastIssue := pscOf s sid, reached := pscOf s sid, tried := false, interval := g.interval } else t) }

/-- The operation of an instruction that issues outside debug mode. -/
def putOp (s : State) (sid : StreamId) (w : InsnWord) (st : Stream) (g : Go) : Op := {
  id := (s.part sid.part).run.nextOp, sid := sid, word := w, qpos := (s.queue st.queue).head, issue := pscOf s sid,
  vis := pscOf s sid + BitVec.ofNat 64 ((g.dur + 0) * 10), unit := g.unit, rd := g.rd, wr := g.wr, pend := g.pend,
  wait := g.wait, want := g.want + fetchBytes g.fetch, cause := g.cause,
  passes := g.passes, coll := g.coll, stallFrom := none, expired := false,
  known := knownNow (s.part sid.part).run st (pscOf s sid),
  deferred := !g.fetch.isEmpty }

theorem putOp_launched (s : State) (sid : StreamId) (w : InsnWord) (st : Stream) (g : Go) :
    Launched s sid w st g.dur g.pend (putOp s sid w st g) := ⟨rfl, rfl, rfl, rfl, rfl, rfl, rfl, rfl, rfl⟩

theorem recInput_quiet {n : Nat} {x : Xfer} {s : State} (h1 : (s.part n).recd.fp = false)
    (h2 : (s.part n).recd.replay = false) : recInput n x s = [] := by
  simp [recInput, recInputOp, RecReg.copying, recXfer, h1, h2]

theorem Act.run_part_eq {a : Act} {n : Nat} (w : a.within (fun e => e.kind ≠ .part)) (s : State) :
    (a.run s).part n = s.part n := by
  apply a.run_keeps (fun s => s.part n) (P := fun e => e.kind ≠ .part) _ w
  intro e s he
  cases e <;> first | rfl | exact absurd rfl he

/-- An action that writes only counters, the flight recorder, free values, domain slots, partitions, queues and cells. -/
theorem Act.run_rest {a : Act} (hw : a.uses [.pmc, .flt, .free, .dom, .part, .queue, .cell]) (s : State) :
    a.run s = { s with pmc := (a.run s).pmc, flt := (a.run s).flt, free := (a.run s).free, doms := (a.run s).doms,
                       parts := (a.run s).parts, queues := (a.run s).queues, cells := (a.run s).cells } := by
  have h1 := Act.run_fuses a s
  have h2 := Act.run_hub hw (by decide) s
  have h3 := Act.run_tim hw (by decide) s
  have h4 := Act.run_kwy hw (by decide) s
  have h5 := Act.run_sec hw (by decide) s
  have h6 := Act.run_mgmt hw (by decide) s
  have h7 := Act.run_pcie hw (by decide) s
  have h8 := Act.run_store hw (by decide) s
  have h9 := Act.run_out hw (by decide) s
  have h10 := Act.run_hasps hw (by decide) s
  have h11 := Act.run_uus hw (by decide) s
  have h12 := Act.run_cols hw (by decide) s
  have h13 := Act.run_links hw (by decide) s
  have h14 := Act.run_dies hw (by decide) s
  have h15 := Act.run_clxs hw (by decide) s
  have h16 := Act.run_pending a s
  generalize a.run s = u at *
  cases u
  cases s
  simp only [State.mk.injEq] at *
  simp only [h1, h2, h3, h4, h5, h6, h7, h8, h9, h10, h11, h12, h13, h14, h15, h16, and_self]

/-- The effects of a late strike (R27): the count in the domain slot, its counter and its event. -/
def lateAct (n : Nat) : Act := Act.all [
  modDom n (fun d => { d with lateStrike := d.lateStrike + 1 }),
  count (ctrBank n 0x0B) 1, fltEvent dieHub 4 .lateStrike (some n) 0]

theorem lateAct_uses (n : Nat) : (lateAct n).uses [.dom, .pmc, .flt, .free] :=
  Act.within_all_cons (modDom_within (by intro; simp [Eff.kind])) (Act.within_all_cons (count_within (by intro; simp [Eff.kind]))
    (Act.within_all_cons (fltEvent_low_within (by omega) (by intro; simp [Eff.kind]) (by intro; simp [Eff.kind])) Act.within_all_nil))

theorem lateAct_dom {n m : Nat} {s : State} (wf : s.wf = true) :
    ((lateAct n).run s).dom m = { s.dom m with lateStrike := (((lateAct n).run s).dom m).lateStrike } := by
  have hw : (Act.all [count (ctrBank n 0x0B) 1, fltEvent dieHub 4 .lateStrike (some n) 0]).uses [.pmc, .flt, .free] :=
    Act.within_all_cons (count_within (by intro; simp [Eff.kind]))
      (Act.within_all_cons (fltEvent_low_within (by omega) (by intro; simp [Eff.kind]) (by intro; simp [Eff.kind])) Act.within_all_nil)
  have e : ((lateAct n).run s).dom m =
      ((Eff.dom n { s.dom n with lateStrike := (s.dom n).lateStrike + 1 }).apply s).dom m := by
    unfold State.dom
    rw [show ((lateAct n).run s).doms = _ from Act.run_doms hw (by decide) _]
    rfl
  rw [e, dom_set wf]
  by_cases h : m = n
  · subst h; simp
  · simp [h]

/-- A ready instruction outside debug mode: its operation is put in flight, then its reads go out, then its own effects at issue
happen, then a break of the ward is raised. -/
theorem issueGo_put {traffic : StreamId → Nat → Go → Act} {g : Go} (r : Ready s sid w st) :
    ∃ u, Put s sid w st g (putOp s sid w st g) u ∧
      (issueGo traffic sid w g).run s = (Act.all [traffic sid (s.part sid.part).run.nextOp g,
        g.act (s.part sid.part).run.nextOp, match g.ward with
          | some a => streamFault sid w (s.queue st.queue).head .ward 0 a
          | none => Act.skip]).run u := by
  obtain ⟨dbg, entry⟩ := r.quiet
  -- the state after the late strike has been counted
  let s1 : State := (Act.guard (late (s.part sid.part).run st w) (lateAct sid.part)).run s
  have hw1 : (Act.guard (late (s.part sid.part).run st w) (lateAct sid.part)).uses
      [.dom, .pmc, .flt, .free] := Act.within_guard (lateAct_uses _)
  have wf1 : s1.wf = true := Act.run_wf r.wf
  have parts1 : s1.parts = s.parts := Act.run_parts hw1 (by decide) s
  have queues1 : s1.queues = s.queues := Act.run_queues hw1 (by decide) s
  have part1 : ∀ m, s1.part m = s.part m := fun m => by unfold State.part; rw [parts1]
  have queue1 : ∀ m, s1.queue m = s.queue m := fun m => by unfold State.queue; rw [queues1]
  have dom1 : ∀ m, s1.dom m = { s.dom m with lateStrike := (s1.dom m).lateStrike } := by
    intro m
    simp only [s1]
    rw [Act.run_guard]
    split
    · exact lateAct_dom r.wf
    · rfl
  -- the rest of the issue
  let q := st.queue
  let x : Queue := { s.queue q with
    head := g.next.getD ((s.queue q).head + 1),
    wait := if g.next.getD ((s.queue q).head + 1) == (s.queue q).tail then 1 else 0, wpsc := pscOf s sid }
  let f : Stream → Stream := fun t => { t with
    crc := if (s.part sid.part).recd.trace then
        BitVec.ofNat 64 (crc64Reg t.crc.toNat (leBytes 8 (pscOf s sid).toNat ++ leBytes 16 w.toNat)) else t.crc,
    armed := false, lastIssue := pscOf s sid, reached := pscOf s sid, tried := false, interval := g.interval }
  let rest : Act := Act.all [modStream sid f, modQueue q (fun y => { y with
      head := g.next.getD ((s.queue q).head + 1),
      wait := if g.next.getD ((s.queue q).head + 1) == y.tail then 1 else 0, wpsc := pscOf s sid }),
    modRun sid.part (fun r => { r with
      nextOp := r.nextOp + 1, ops := if g.inFlight then r.ops ++ [putOp s sid w st g] else r.ops })]
  have hw2 : rest.uses [.part, .queue] :=
    Act.within_all_cons (modStream_within (by intro; simp [Eff.kind]))
      (Act.within_all_cons (modQueue_within (by intro; simp [Eff.kind]))
        (Act.within_all_cons (modRun_within (by intro; simp [Eff.kind])) Act.within_all_nil))
  let u := rest.run s1
  have eu : u = (Act.all [Act.guard (late (s.part sid.part).run st w) (lateAct sid.part), rest]).run s := by
    simp only [Act.run_all_cons, Act.run_all_nil]; rfl
  have hw3 : (Act.all [Act.guard (late (s.part sid.part).run st w) (lateAct sid.part), rest]).uses
      [.pmc, .flt, .free, .dom, .part, .queue, .cell] :=
    Act.within_all_cons (Act.uses_mono (by decide) hw1) (Act.within_all_cons (Act.uses_mono (by decide) hw2) Act.within_all_nil)
  have upart : ∀ m, u.part m = if m = sid.part then { s.part m with run := { (s.part sid.part).run with
      nextOp := (s.part sid.part).run.nextOp + 1,
      ops := if g.inFlight then (s.part sid.part).run.ops ++ [putOp s sid w st g] else (s.part sid.part).run.ops,
      streams := (s.part sid.part).run.streams.map (fun t => if t.sid == sid then f t else t) } } else s.part m := by
    intro m
    let v1 := (modStream sid f).run s1
    let v2 := (modQueue q (fun y => { y with
      head := g.next.getD ((s.queue q).head + 1),
      wait := if g.next.getD ((s.queue q).head + 1) == y.tail then 1 else 0, wpsc := pscOf s sid })).run v1
    have wf2 : v2.wf = true := Act.run_wf (Act.run_wf wf1)
    have hv : ∀ k, v2.part k = if k = sid.part then { s.part sid.part with run := { (s.part sid.part).run with
        streams := (s.part sid.part).run.streams.map (fun t => if t.sid == sid then f t else t) } } else s.part k := by
      intro k
      show v1.part k = _
      have := part_set (s := s1) (n := sid.part) (m := k) (d := { s1.part sid.part with run := { (s1.part sid.part).run with
        streams := (s1.part sid.part).run.streams.map (fun t => if t.sid == sid then f t else t) } }) wf1
      rw [show v1.part k = _ from this]
      simp only [part1]
    have := part_set (s := v2) (n := sid.part) (m := m) (d := { v2.part sid.part with run := { (v2.part sid.part).run with
      nextOp := (v2.part sid.part).run.nextOp + 1,
      ops := if g.inFlight then (v2.part sid.part).run.ops ++ [putOp s sid w st g] else (v2.part sid.part).run.ops } }) wf2
    have e : u.part m = ((Eff.part sid.part { v2.part sid.part with run := { (v2.part sid.part).run with
      nextOp := (v2.part sid.part).run.nextOp + 1,
      ops := if g.inFlight then (v2.part sid.part).run.ops ++ [putOp s sid w st g] else (v2.part sid.part).run.ops } }).apply
        v2).part m := by
      simp only [u, rest, Act.run_all_cons, Act.run_all_nil]; rfl
    rw [e, this]
    simp only [hv, if_true]
    by_cases h : m = sid.part
    · subst h; simp only [if_true]
    · simp only [h, if_false]
  have uqueue : ∀ k, u.queue k = if k = q then x else s.queue k := by
    intro k
    let v1 := (modStream sid f).run s1
    have wf2 : v1.wf = true := Act.run_wf wf1
    have := queue_set (s := v1) (n := q) (m := k) (d := { v1.queue q with
      head := g.next.getD ((s.queue q).head + 1),
      wait := if g.next.getD ((s.queue q).head + 1) == (v1.queue q).tail then 1 else 0, wpsc := pscOf s sid }) wf2
    have e : u.queue k = ((Eff.queue q { v1.queue q with
      head := g.next.getD ((s.queue q).head + 1),
      wait := if g.next.getD ((s.queue q).head + 1) == (v1.queue q).tail then 1 else 0,
      wpsc := pscOf s sid }).apply v1).queue k := by
      simp only [u, rest, Act.run_all_cons, Act.run_all_nil]; rfl
    have hv : ∀ k, v1.queue k = s.queue k := queue1
    rw [e, this]
    simp only [hv]
    by_cases h : k = q
    · simp only [h, if_true, x]
    · simp only [h, if_false]
  have udom : ∀ m, u.dom m = s1.dom m := fun m => by
    unfold State.dom
    rw [show u.doms = s1.doms from Act.run_doms hw2 (by decide) s1]
  refine ⟨u, ⟨Act.run_wf wf1, ?_, ⟨?_, ?_, ?_, ?_⟩, ?_, ?_⟩, ?_⟩
  · intro k
    rw [uqueue]
    by_cases h : k = st.queue
    · subst h; rfl
    · simp only [q, h, if_false]
  · rw [eu]; exact Act.run_rest hw3 s
  · intro m h
    rw [upart, if_neg h]
  · rw [upart, if_pos rfl]
  · intro m
    rw [udom, dom1]
  · show u.cells = s.cells
    rw [show u.cells = s1.cells from Act.run_cells hw2 (by decide) s1]
    exact Act.run_cells hw1 (by decide) s
  · rw [upart, if_pos rfl]
  · show applyAll (issueGo traffic sid w g s) s = _
    have rec0 : ∀ v : State, v.parts = s.parts → ∀ y : Xfer,
        (Act.guard (hostEntry st (s.queue st.queue).head) (recInput sid.part y)).run v = v := by
      intro v hv y
      rw [Act.run_guard]
      split
      · rename_i h
        have hp : v.part sid.part = s.part sid.part := by unfold State.part; rw [hv]
        have := entry h
        unfold Act.run
        rw [recInput_quiet (by rw [hp]; exact this.1) (by rw [hp]; exact this.2)]
        rfl
      · rfl
    unfold issueGo
    simp only [r.found, dbg]
    show Act.run (Act.all _) s = _
    simp only [Act.run_all_cons, Bool.false_and, Act.run_guard_false]
    erw [rec0 _ parts1]
    rfl

/-- An action that writes only counters, cells and free values leaves what `Put` says, but for the cells. -/
theorem Act.run_quiet {a : Act} (hw : a.uses [.pmc, .cell, .free]) (s : State) :
    (a.run s).doms = s.doms ∧ (a.run s).parts = s.parts ∧ (a.run s).queues = s.queues ∧ (a.run s).flt = s.flt :=
  ⟨Act.run_doms hw (by decide) s, Act.run_parts hw (by decide) s, Act.run_queues hw (by decide) s, Act.run_flt hw (by decide) s⟩

/-- A ready instruction that needs nothing from outside its device and whose effects at issue are counters, cells and free
values alone has issued. -/
theorem issued_of_go {traffic : StreamId → Nat → Go → Act} {body : Ctx → Verdict} {isRow : Bool}
    {g : Go} (r : Ready s sid w st) (row : isRow = true) (hb : body { s := s, sid := sid, st := st, w := w } = .go g)
    (h1 : g.inFlight = true) (h2 : g.next = none) (h3 : g.ward = none) (h4 : g.wait = .none) (h5 : g.want = 0)
    (h6 : g.coll = none) (h7 : g.fetch = []) (hf : ∀ id, (traffic sid id g).uses [.pmc, .cell, .free])
    (ha : ∀ id, (g.act id).uses [.pmc, .cell, .free]) :
    Issued s sid w st g.dur g.pend ((issueWith traffic sid w isRow body).run s) := by
  obtain ⟨u, hu, eu⟩ := issueGo_put (traffic := traffic) (g := g) r
  have e : (issueWith traffic sid w isRow body).run s = (issueGo traffic sid w g).run s := by
    unfold Act.run
    rw [issueWith_ready r row, hb]
  rw [e, eu, h3]
  generalize hA : Act.all [traffic sid (s.part sid.part).run.nextOp g, g.act (s.part sid.part).run.nextOp, Act.skip] = A
  have hw : A.uses [.pmc, .cell, .free] := by
    rw [← hA]
    exact Act.within_all_cons (hf _) (Act.within_all_cons (ha _) (Act.within_all_cons Act.within_skip Act.within_all_nil))
  obtain ⟨q1, q2, q3, q4⟩ := Act.run_quiet hw u
  have hq : ∀ k, (A.run u).queue k = u.queue k := fun k => by unfold State.queue; rw [q3]
  have hp : ∀ k, (A.run u).part k = u.part k := fun k => by unfold State.part; rw [q2]
  have hd : ∀ k, (A.run u).dom k = u.dom k := fun k => by unfold State.dom; rw [q1]
  refine ⟨fun k => ?_, ⟨?_, fun m h => ?_, ?_, fun m => ?_⟩, putOp s sid w st g, ?_, putOp_launched s sid w st g, h4, ?_, h6, ?_⟩
  · rw [hq, hu.queue k, h2]; rfl
  · have := Act.run_rest (Act.uses_mono (by decide) hw) u
    have h := hu.contained.rest
    generalize A.run u = t at *
    cases t; cases u; cases s
    simp only [State.mk.injEq] at *
    simp_all
  · rw [hp]; exact hu.contained.others m h
  · rw [hp]; exact hu.contained.mine
  · rw [hd]; exact hu.contained.doms m
  · rw [hp, hu.run, h1]; rfl
  · show g.want + fetchBytes g.fetch = 0
    rw [h5, h7]; rfl
  · show (!g.fetch.isEmpty) = false
    rw [h7]; rfl

end Sys2Proof.Machine
end

