-- ==== Sys2Proof/Laws/PerInstr.lean ====
section
/-!
SUPPORT. Statements about every command, one lemma per constructor.
-/
namespace Sys2Proof.Laws.StreamRow

/-- A stream row is well formed when the stream it names is. -/
def Statement (i : Instr) : Prop := ∀ t w, i.streamWord = some (t, w) → i.wf = t.wf

theorem nop (s : StreamId) (w : InsnWord) : Statement (.nop s w) := fun t w h => by cases h; rfl
theorem strike (s : StreamId) (w : InsnWord) : Statement (.strike s w) := fun t w h => by cases h; rfl
theorem epochLeader (s : StreamId) (w : InsnWord) : Statement (.epochLeader s w) := fun t w h => by cases h; rfl
theorem epochMarker (s : StreamId) (w : InsnWord) : Statement (.epochMarker s w) := fun t w h => by cases h; rfl
theorem loop (s : StreamId) (w : InsnWord) : Statement (.loop s w) := fun t w h => by cases h; rfl
theorem halt (s : StreamId) (w : InsnWord) : Statement (.halt s w) := fun t w h => by cases h; rfl
theorem trap (s : StreamId) (w : InsnWord) : Statement (.trap s w) := fun t w h => by cases h; rfl
theorem ladd (s : StreamId) (w : InsnWord) : Statement (.ladd s w) := fun t w h => by cases h; rfl
theorem lwait (s : StreamId) (w : InsnWord) : Statement (.lwait s w) := fun t w h => by cases h; rfl
theorem lsig (s : StreamId) (w : InsnWord) : Statement (.lsig s w) := fun t w h => by cases h; rfl
theorem lbind (s : StreamId) (w : InsnWord) : Statement (.lbind s w) := fun t w h => by cases h; rfl
theorem harr (s : StreamId) (w : InsnWord) : Statement (.harr s w) := fun t w h => by cases h; rfl
theorem hcfg (s : StreamId) (w : InsnWord) : Statement (.hcfg s w) := fun t w h => by cases h; rfl
theorem cld (s : StreamId) (w : InsnWord) : Statement (.cld s w) := fun t w h => by cases h; rfl
theorem cst (s : StreamId) (w : InsnWord) : Statement (.cst s w) := fun t w h => by cases h; rfl
theorem mmw (s : StreamId) (w : InsnWord) : Statement (.mmw s w) := fun t w h => by cases h; rfl
theorem mma (s : StreamId) (w : InsnWord) : Statement (.mma s w) := fun t w h => by cases h; rfl
theorem tbi (s : StreamId) (w : InsnWord) : Statement (.tbi s w) := fun t w h => by cases h; rfl
theorem tbd (s : StreamId) (w : InsnWord) : Statement (.tbd s w) := fun t w h => by cases h; rfl
theorem cmask (s : StreamId) (w : InsnWord) : Statement (.cmask s w) := fun t w h => by cases h; rfl
theorem vld (s : StreamId) (w : InsnWord) : Statement (.vld s w) := fun t w h => by cases h; rfl
theorem vst (s : StreamId) (w : InsnWord) : Statement (.vst s w) := fun t w h => by cases h; rfl
theorem vbcast (s : StreamId) (w : InsnWord) : Statement (.vbcast s w) := fun t w h => by cases h; rfl
theorem var (s : StreamId) (w : InsnWord) : Statement (.var s w) := fun t w h => by cases h; rfl
theorem vint (s : StreamId) (w : InsnWord) : Statement (.vint s w) := fun t w h => by cases h; rfl
theorem vcmp (s : StreamId) (w : InsnWord) : Statement (.vcmp s w) := fun t w h => by cases h; rfl
theorem vsel (s : StreamId) (w : InsnWord) : Statement (.vsel s w) := fun t w h => by cases h; rfl
theorem vtr (s : StreamId) (w : InsnWord) : Statement (.vtr s w) := fun t w h => by cases h; rfl
theorem vtrExpd (s : StreamId) (w : InsnWord) : Statement (.vtrExpd s w) := fun t w h => by cases h; rfl
theorem vred (s : StreamId) (w : InsnWord) : Statement (.vred s w) := fun t w h => by cases h; rfl
theorem cvt (s : StreamId) (w : InsnWord) : Statement (.cvt s w) := fun t w h => by cases h; rfl
theorem vrnd (s : StreamId) (w : InsnWord) : Statement (.vrnd s w) := fun t w h => by cases h; rfl
theorem vseed (s : StreamId) (w : InsnWord) : Statement (.vseed s w) := fun t w h => by cases h; rfl
theorem vstep (s : StreamId) (w : InsnWord) : Statement (.vstep s w) := fun t w h => by cases h; rfl
theorem mcpy (s : StreamId) (w : InsnWord) : Statement (.mcpy s w) := fun t w h => by cases h; rfl
theorem pfh (s : StreamId) (w : InsnWord) : Statement (.pfh s w) := fun t w h => by cases h; rfl
theorem lwr (s : StreamId) (w : InsnWord) : Statement (.lwr s w) := fun t w h => by cases h; rfl
theorem lrd (s : StreamId) (w : InsnWord) : Statement (.lrd s w) := fun t w h => by cases h; rfl
theorem latom (s : StreamId) (w : InsnWord) : Statement (.latom s w) := fun t w h => by cases h; rfl
theorem lset (s : StreamId) (w : InsnWord) : Statement (.lset s w) := fun t w h => by cases h; rfl
theorem cdesc (s : StreamId) (w : InsnWord) : Statement (.cdesc s w) := fun t w h => by cases h; rfl
theorem credReduce (s : StreamId) (w : InsnWord) : Statement (.credReduce s w) := fun t w h => by cases h; rfl
theorem credAllreduce (s : StreamId) (w : InsnWord) : Statement (.credAllreduce s w) := fun t w h => by cases h; rfl
theorem cbc (s : StreamId) (w : InsnWord) : Statement (.cbc s w) := fun t w h => by cases h; rfl
theorem ca2aEqual (s : StreamId) (w : InsnWord) : Statement (.ca2aEqual s w) := fun t w h => by cases h; rfl
theorem ca2aUnequal (s : StreamId) (w : InsnWord) : Statement (.ca2aUnequal s w) := fun t w h => by cases h; rfl
theorem ca2aDataPhase (part : Nat) (op : Nat) : Statement (.ca2aDataPhase part op) := fun t w h => by cases h
theorem coaccSend (s : StreamId) (w : InsnWord) : Statement (.coaccSend s w) := fun t w h => by cases h; rfl
theorem coaccApply (s : StreamId) (w : InsnWord) : Statement (.coaccApply s w) := fun t w h => by cases h; rfl
theorem cring (s : StreamId) (w : InsnWord) : Statement (.cring s w) := fun t w h => by cases h; rfl
theorem ucfgRule (s : StreamId) (w : InsnWord) : Statement (.ucfgRule s w) := fun t w h => by cases h; rfl
theorem ucfgCombine (s : StreamId) (w : InsnWord) : Statement (.ucfgCombine s w) := fun t w h => by cases h; rfl
theorem uupd (s : StreamId) (w : InsnWord) : Statement (.uupd s w) := fun t w h => by cases h; rfl
theorem uchk (s : StreamId) (w : InsnWord) : Statement (.uchk s w) := fun t w h => by cases h; rfl
theorem ucomb (s : StreamId) (w : InsnWord) : Statement (.ucomb s w) := fun t w h => by cases h; rfl
theorem ubor (s : StreamId) (w : InsnWord) : Statement (.ubor s w) := fun t w h => by cases h; rfl
theorem uborReturn (s : StreamId) (w : InsnWord) : Statement (.uborReturn s w) := fun t w h => by cases h; rfl
theorem hxferIn (s : StreamId) (w : InsnWord) : Statement (.hxferIn s w) := fun t w h => by cases h; rfl
theorem hxferOut (s : StreamId) (w : InsnWord) : Statement (.hxferOut s w) := fun t w h => by cases h; rfl
theorem hnote (s : StreamId) (w : InsnWord) : Statement (.hnote s w) := fun t w h => by cases h; rfl
theorem hirq (s : StreamId) (w : InsnWord) : Statement (.hirq s w) := fun t w h => by cases h; rfl
theorem dependentArm (s : StreamId) : Statement (.dependentArm s) := fun t w h => by cases h
theorem holdPointMissed (s : StreamId) : Statement (.holdPointMissed s) := fun t w h => by cases h
theorem holdTakeEffect (part : Nat) : Statement (.holdTakeEffect part) := fun t w h => by cases h
theorem holdMaxExpiry (part : Nat) : Statement (.holdMaxExpiry part) := fun t w h => by cases h
theorem idleCatchUp (part : Nat) : Statement (.idleCatchUp part) := fun t w h => by cases h
theorem operationVisibility (part : Nat) (op : Nat) (how : Finish) :
    Statement (.operationVisibility part op how) := fun t w h => by cases h
theorem operationLateComplete (part : Nat) (op : Nat) : Statement (.operationLateComplete part op) := fun t w h => by cases h
theorem cellPassEnd (part : Nat) (op : Nat) : Statement (.cellPassEnd part op) := fun t w h => by cases h
theorem shadowCompareEnd (col : Nat) (spare : Nat) (mismatch : Bool) : Statement (.shadowCompareEnd col spare mismatch) := fun t w h => by cases h
theorem lwaitDeadlineExpiry (part : Nat) (op : Nat) : Statement (.lwaitDeadlineExpiry part op) := fun t w h => by cases h
theorem haspStrikeComplete (hasp : Nat) : Statement (.haspStrikeComplete hasp) := fun t w h => by cases h
theorem refreshPosition (col : Nat) (ch : Nat) : Statement (.refreshPosition col ch) := fun t w h => by cases h
theorem scrubPosition (col : Nat) (ch : Nat) (bad : List BadBlock) : Statement (.scrubPosition col ch bad) := fun t w h => by cases h
theorem freezeRefresh (col : Nat) (ch : Nat) : Statement (.freezeRefresh col ch) := fun t w h => by cases h
theorem keywayMoveCopyPage (part : Nat) (seg : Nat) (page : Nat) : Statement (.keywayMoveCopyPage part seg page) := fun t w h => by cases h
theorem snapshotDrainPage (part : Nat) (col : Nat) (how : DrainEnd) : Statement (.snapshotDrainPage part col how) := fun t w h => by cases h
theorem recordCopyAccepted (part : Nat) : Statement (.recordCopyAccepted part) := fun t w h => by cases h
theorem replayInject (part : Nat) : Statement (.replayInject part) := fun t w h => by cases h
theorem flitSend (l : LinkId) : Statement (.flitSend l) := fun t w h => by cases h
theorem flitReceive (l : LinkId) (f : Flit) : Statement (.flitReceive l f) := fun t w h => by cases h
theorem ackSend (l : LinkId) : Statement (.ackSend l) := fun t w h => by cases h
theorem timeTransferSend (l : LinkId) : Statement (.timeTransferSend l) := fun t w h => by cases h
theorem symbolThirdCopy (l : LinkId) : Statement (.symbolThirdCopy l) := fun t w h => by cases h
theorem settledElectSend : Statement (.settledElectSend) := fun t w h => by cases h
theorem laneSymbolReceive (l : LinkId) (lane : Copied Nat) : Statement (.laneSymbolReceive l lane) := fun t w h => by cases h
theorem holdSymbolReceive (l : LinkId) (h : Copied HoldSym) : Statement (.holdSymbolReceive l h) := fun t w h => by cases h
theorem nakReceive (l : LinkId) (pos : Copied (BitVec 16)) : Statement (.nakReceive l pos) := fun t w h => by cases h
theorem haspSymbolReceive (l : LinkId) (h : Copied HaspSym) : Statement (.haspSymbolReceive l h) := fun t w h => by cases h
theorem timeSymbolReceive (l : LinkId) (t : Copied TimeSym) : Statement (.timeSymbolReceive l t) := fun t w h => by cases h
theorem ackReceive (l : LinkId) (pos : BitVec 16) (credits : Copied (List Nat)) : Statement (.ackReceive l pos credits) := fun t w h => by cases h
theorem electReceive (l : LinkId) (c : Candidate) : Statement (.electReceive l c) := fun t w h => by cases h
theorem electionSettle : Statement (.electionSettle) := fun t w h => by cases h
theorem timeLockAcquired : Statement (.timeLockAcquired) := fun t w h => by cases h
theorem holdoverTimeout : Statement (.holdoverTimeout) := fun t w h => by cases h
theorem lostRelockRelease : Statement (.lostRelockRelease) := fun t w h => by cases h
theorem pintleWaitNotice : Statement (.pintleWaitNotice) := fun t w h => by cases h
theorem pintleSlewDone : Statement (.pintleSlewDone) := fun t w h => by cases h
theorem timeCodeFrame (frame : BitVec 125) : Statement (.timeCodeFrame frame) := fun t w h => by cases h
theorem msgWrite (l : LinkId) (m : Msg) : Statement (.msgWrite l m) := fun t w h => by cases h
theorem msgReadRequest (l : LinkId) (m : Msg) : Statement (.msgReadRequest l m) := fun t w h => by cases h
theorem msgReadReply (l : LinkId) (m : Msg) : Statement (.msgReadReply l m) := fun t w h => by cases h
theorem msgSignal (l : LinkId) (m : Msg) : Statement (.msgSignal l m) := fun t w h => by cases h
theorem msgAcknowledgement (l : LinkId) (m : Msg) : Statement (.msgAcknowledgement l m) := fun t w h => by cases h
theorem msgAtomic (l : LinkId) (m : Msg) : Statement (.msgAtomic l m) := fun t w h => by cases h
theorem msgAtomicReply (l : LinkId) (m : Msg) : Statement (.msgAtomicReply l m) := fun t w h => by cases h
theorem msgRefusal (l : LinkId) (m : Msg) : Statement (.msgRefusal l m) := fun t w h => by cases h
theorem msgClx (l : LinkId) (m : Msg) : Statement (.msgClx l m) := fun t w h => by cases h
theorem msgManagement (l : LinkId) (m : Msg) : Statement (.msgManagement l m) := fun t w h => by cases h
theorem topologyRecord (l : LinkId) (r : TopoRec) : Statement (.topologyRecord l r) := fun t w h => by cases h
theorem topoSettle : Statement (.topoSettle) := fun t w h => by cases h
theorem laneFailure (l : LinkId) (lane : Nat) : Statement (.laneFailure l lane) := fun t w h => by cases h
theorem linkSilenceTimeout (l : LinkId) : Statement (.linkSilenceTimeout l) := fun t w h => by cases h
theorem linkTrained (l : LinkId) (peer : BitVec 16) (pdie : BitVec 2) (plink : BitVec 5) (delay : BitVec 16) : Statement (.linkTrained l peer pdie plink delay) := fun t w h => by cases h
theorem hdmaChunkComplete (port : Nat) : Statement (.hdmaChunkComplete port) := fun t w h => by cases h
theorem hdmaChunkTimeout (port : Nat) : Statement (.hdmaChunkTimeout port) := fun t w h => by cases h
theorem pciePortDown (port : Nat) : Statement (.pciePortDown port) := fun t w h => by cases h
theorem decSegmentEnd : Statement (.decSegmentEnd) := fun t w h => by cases h
theorem decMessageEnd (part : Nat) : Statement (.decMessageEnd part) := fun t w h => by cases h
theorem powerMsCheck (means : PowerMeans) (total : Nat) : Statement (.powerMsCheck means total) := fun t w h => by cases h
theorem powerHoldFrame (part : Nat) : Statement (.powerHoldFrame part) := fun t w h => by cases h
theorem thermalMsCheck (tcase : Nat) (dies : Monitors) : Statement (.thermalMsCheck tcase dies) := fun t w h => by cases h
theorem vpwrInterval (k : Nat) : Statement (.vpwrInterval k) := fun t w h => by cases h
theorem cperEccSummary : Statement (.cperEccSummary) := fun t w h => by cases h
theorem deadbolt (cause : BitVec 8) (die : BitVec 8) (site : FatalSite) :
    Statement (.deadbolt cause die site) := fun t w h => by cases h
theorem firmwareWatchdogExpiry : Statement (.firmwareWatchdogExpiry) := fun t w h => by cases h
theorem deadboltReset : Statement (.deadboltReset) := fun t w h => by cases h
theorem startupPhaseEnd (ms : BitVec 32) (failed : List FailedUnit) : Statement (.startupPhaseEnd ms failed) := fun t w h => by cases h
theorem phaseWatchdogExpiry (unit : Option FailedUnit) (cause : BootFail) : Statement (.phaseWatchdogExpiry unit cause) := fun t w h => by cases h
theorem pwrOkRise (railsInRange : Bool) : Statement (.pwrOkRise railsInRange) := fun t w h => by cases h
theorem pwrOkFall : Statement (.pwrOkFall) := fun t w h => by cases h
theorem railFault (rail : Rail) (mv : Nat) : Statement (.railFault rail mv) := fun t w h => by cases h
theorem perstNAssert : Statement (.perstNAssert) := fun t w h => by cases h
theorem configRequest (port : Nat) (fn : Fn) : Statement (.configRequest port fn) := fun t w h => by cases h
theorem unsupportedAccess (fn : Fn) (off : BitVec 64) (size : Nat) (write : Bool) : Statement (.unsupportedAccess fn off size write) := fun t w h => by cases h
theorem apertureAccess (off : BitVec 32) (size : Nat) (data : Option (BitVec 64)) : Statement (.apertureAccess off size data) := fun t w h => by cases h
theorem vfFlr (vf : Nat) : Statement (.vfFlr vf) := fun t w h => by cases h
theorem pfReset : Statement (.pfReset) := fun t w h => by cases h
theorem vfEnableClear (enable : Bool) (numVfs : Nat) : Statement (.vfEnableClear enable numVfs) := fun t w h => by cases h
theorem load (fn : Fn) (part : Nat) : Statement (.load fn part) := fun t w h => by cases h
theorem loadDone (part : Nat) : Statement (.loadDone part) := fun t w h => by cases h
theorem start (fn : Fn) (part : Nat) : Statement (.start fn part) := fun t w h => by cases h
theorem unload (fn : Fn) (part : Nat) : Statement (.unload fn part) := fun t w h => by cases h
theorem save (fn : Fn) (part : Nat) : Statement (.save fn part) := fun t w h => by cases h
theorem restore (fn : Fn) (part : Nat) : Statement (.restore fn part) := fun t w h => by cases h
theorem ctxDone (part : Nat) : Statement (.ctxDone part) := fun t w h => by cases h
theorem rewind (fn : Fn) (part : Nat) : Statement (.rewind fn part) := fun t w h => by cases h
theorem rewindDone (part : Nat) : Statement (.rewindDone part) := fun t w h => by cases h
theorem snapshotArm (fn : Fn) (part : Nat) : Statement (.snapshotArm fn part) := fun t w h => by cases h
theorem snapshotRestore (fn : Fn) (part : Nat) : Statement (.snapshotRestore fn part) := fun t w h => by cases h
theorem snapshotRestoreDone (part : Nat) : Statement (.snapshotRestoreDone part) := fun t w h => by cases h
theorem dump (fn : Fn) : Statement (.dump fn) := fun t w h => by cases h
theorem dumpDone : Statement (.dumpDone) := fun t w h => by cases h
theorem issue (fn : Fn) : Statement (.issue fn) := fun t w h => by cases h
theorem report (fn : Fn) : Statement (.report fn) := fun t w h => by cases h
theorem secCommandDone (unit : SecUnit) : Statement (.secCommandDone unit) := fun t w h => by cases h
theorem install (fn : Fn) (part : Nat) : Statement (.install fn part) := fun t w h => by cases h
theorem decStart (fn : Fn) (part : Nat) : Statement (.decStart fn part) := fun t w h => by cases h
theorem stage (fn : Fn) (target : BitVec 2) : Statement (.stage fn target) := fun t w h => by cases h
theorem stageDone : Statement (.stageDone) := fun t w h => by cases h
theorem activate (fn : Fn) (target : BitVec 2) : Statement (.activate fn target) := fun t w h => by cases h
theorem cancel (fn : Fn) (target : BitVec 2) : Statement (.cancel fn target) := fun t w h => by cases h
theorem activationWindowOpen : Statement (.activationWindowOpen) := fun t w h => by cases h
theorem activationWindowClose : Statement (.activationWindowClose) := fun t w h => by cases h
theorem quarterReset (fn : Fn) (q : Nat) : Statement (.quarterReset fn q) := fun t w h => by cases h
theorem linkDieReset (fn : Fn) (die : Nat) : Statement (.linkDieReset fn die) := fun t w h => by cases h
theorem unitResetDone (unit : ResetUnit) : Statement (.unitResetDone unit) := fun t w h => by cases h
theorem katShort (fn : Fn) : Statement (.katShort fn) := fun t w h => by cases h
theorem katDeep (fn : Fn) (colMask : BitVec 20) : Statement (.katDeep fn colMask) := fun t w h => by cases h
theorem katDone (failed : List FailedUnit) : Statement (.katDone failed) := fun t w h => by cases h
theorem fltFlush (fn : Fn) : Statement (.fltFlush fn) := fun t w h => by cases h
theorem fltFlushDone (ok : Bool) : Statement (.fltFlushDone ok) := fun t w h => by cases h
theorem flashRead (fn : Fn) (sector : BitVec 12) : Statement (.flashRead fn sector) := fun t w h => by cases h
theorem flashErase (fn : Fn) (sector : BitVec 12) : Statement (.flashErase fn sector) := fun t w h => by cases h
theorem flashProgram (fn : Fn) (sector : BitVec 12) : Statement (.flashProgram fn sector) := fun t w h => by cases h
theorem flashCmdDone : Statement (.flashCmdDone) := fun t w h => by cases h
theorem move (fn : Fn) (part : BitVec 5) (seg : BitVec 12) : Statement (.move fn part seg) := fun t w h => by cases h
theorem hostwinWrite (fn : Fn) (part : Nat) (reg : Nat) (v : Word) : Statement (.hostwinWrite fn part reg v) := fun t w h => by cases h
theorem doorbell (fn : Fn) (queue : Nat) (tail : Word) : Statement (.doorbell fn queue tail) := fun t w h => by cases h
theorem hallTimeWrite (fn : Fn) (v : Word) : Statement (.hallTimeWrite fn v) := fun t w h => by cases h
theorem hallTimeRead (fn : Fn) : Statement (.hallTimeRead fn) := fun t w h => by cases h
theorem pintleCfgWrite (fn : Fn) (v : Word) : Statement (.pintleCfgWrite fn v) := fun t w h => by cases h
theorem holdLeadWrite (fn : Fn) (v : Word) : Statement (.holdLeadWrite fn v) := fun t w h => by cases h
theorem holdMaxWrite (fn : Fn) (v : Word) : Statement (.holdMaxWrite fn v) := fun t w h => by cases h
theorem domainActivate (fn : Fn) (part : Nat) (v : Word) : Statement (.domainActivate fn part v) := fun t w h => by cases h
theorem domainDeactivate (fn : Fn) (part : Nat) (v : Word) : Statement (.domainDeactivate fn part v) := fun t w h => by cases h
theorem rejoin (fn : Fn) (target : BitVec 16) : Statement (.rejoin fn target) := fun t w h => by cases h
theorem debugModeWrite (fn : Fn) (v : Word) : Statement (.debugModeWrite fn v) := fun t w h => by cases h
theorem pfaultClear (fn : Fn) (part : Nat) (v : Word) : Statement (.pfaultClear fn part v) := fun t w h => by cases h
theorem recConfigWrite (fn : Fn) (part : Nat) (off : Nat) (v : Word) : Statement (.recConfigWrite fn part off v) := fun t w h => by cases h
theorem partitionConfigWrite (fn : Fn) (part : Nat) (off : Nat) (v : Word) : Statement (.partitionConfigWrite fn part off v) := fun t w h => by cases h
theorem replThrWrite (fn : Fn) (v : Word) : Statement (.replThrWrite fn v) := fun t w h => by cases h
theorem shadowRateWrite (fn : Fn) (col : Nat) (v : Word) : Statement (.shadowRateWrite fn col v) := fun t w h => by cases h
theorem linkDisable (fn : Fn) (l : LinkId) (v : Word) : Statement (.linkDisable fn l v) := fun t w h => by cases h
theorem wrrWrite (fn : Fn) (l : LinkId) (v : Word) : Statement (.wrrWrite fn l v) := fun t w h => by cases h
theorem cperCfgWrite (fn : Fn) (v : Word) : Statement (.cperCfgWrite fn v) := fun t w h => by cases h
theorem apertureBaseWrite (fn : Fn) (high : Bool) (v : Word) : Statement (.apertureBaseWrite fn high v) := fun t w h => by cases h
theorem filterSetWrite (fn : Fn) (block : Nat) (off : Nat) (v : Word) : Statement (.filterSetWrite fn block off v) := fun t w h => by cases h
theorem filterSetApply (block : Nat) : Statement (.filterSetApply block) := fun t w h => by cases h
theorem pmcCounterRead (fn : Fn) (off : BitVec 32) : Statement (.pmcCounterRead fn off) := fun t w h => by cases h
theorem lowWordRead (fn : Fn) (off : BitVec 32) : Statement (.lowWordRead fn off) := fun t w h => by cases h
theorem rcRegisterRead (fn : Fn) (off : BitVec 32) : Statement (.rcRegisterRead fn off) := fun t w h => by cases h
theorem msixUnmask (fn : Fn) (vector : Nat) : Statement (.msixUnmask fn vector) := fun t w h => by cases h
theorem registerWrite (fn : Fn) (off : BitVec 32) (v : Word) : Statement (.registerWrite fn off v) := fun t w h => by cases h
theorem spiRead (addr : BitVec 24) (count : Nat) (extra : Nat) : Statement (.spiRead addr count extra) := fun t w h => by cases h
theorem spiWrite (addr : BitVec 24) (data : List Word) : Statement (.spiWrite addr data) := fun t w h => by cases h
theorem spiStatus (extra : Nat) : Statement (.spiStatus extra) := fun t w h => by cases h
theorem spiUnknownCommand (word0 : Word) (word1 : Word) (words : Nat) : Statement (.spiUnknownCommand word0 word1 words) := fun t w h => by cases h
theorem spiFrameError (dataWord : Bool) : Statement (.spiFrameError dataWord) := fun t w h => by cases h
theorem bypass : Statement (.bypass) := fun t w h => by cases h
theorem idcode : Statement (.idcode) := fun t w h => by cases h
theorem samplePreload (preload : List Bool) : Statement (.samplePreload preload) := fun t w h => by cases h
theorem extest (drive : List Bool) : Statement (.extest drive) := fun t w h => by cases h
theorem jtagPrivate (ir : Nat) : Statement (.jtagPrivate ir) := fun t w h => by cases h
theorem perstNDeassert : Statement (.perstNDeassert) := fun t w h => by cases h
theorem pciePortUp (port : Nat) : Statement (.pciePortUp port) := fun t w h => by cases h
theorem serdesAdaptationEnd (die : Nat) : Statement (.serdesAdaptationEnd die) := fun t w h => by cases h
theorem quarterRunEnd (col : Nat) (q : Nat) (failed : List FailedUnit) : Statement (.quarterRunEnd col q failed) := fun t w h => by cases h
theorem mainRailLowNotice (mv : Nat) : Statement (.mainRailLowNotice mv) := fun t w h => by cases h

end Sys2Proof.Laws.StreamRow
end

