-- ==== Sys2Proof/Tests/Slice0.lean ====
section
/-!
SUPPORT. The model's own tests: ill-formed terms that `Instr.wf` refuses, small facts about one command, and for each statement a
concrete state and operands that meet its hypotheses.
-/
namespace Sys2Proof.Tests
open Sys2Proof.Machine

-- Each theorem is checked before the next is read: the checks are many, and each would wait in a thread of its own.
set_option Elab.async false

/-! ### A small state with one stream -/

/-- A word from its fields: low bit and value. -/
def word (fs : List (Nat × Nat)) : InsnWord := BitVec.ofNat 128 ((fs.map (fun f => f.2 * 2 ^ f.1)).sum)

def base : Nat := 0x300000

/-- A segment of 64 MiB, at address 0 of both hosted ranks' spaces; rank 2 lies on device 9. -/
def obj : Obj := {
  digest := 0, core := 0, ranks := 4, quarters := 2, planLead := 0, map := [(0, 1), (0, 1), (9, 3), (9, 4)], own := [0, 1],
  startTime := 0, rhops := 1, cols := [{ first := 0, count := 2, hot := 0 }],
  segs := [{ symbol := 0, flags := 3, pclass := 0, homes := 9, near := 0, size := 0x4000000, grant := 0, peer := 0, exp := 0 }],
  exps := [], origins := [], dies := [0] }

/-- Pages 0 to 3 of the first rank and page 0 of the second lie in frames 8 to 12 of column 0; the latches, hasps and cells of the first rank are bound. -/
def part : Part := {
  load := { state := .running }, obj := some obj,
  kwy := { winEn := true, winSize := 1, winBase := 3, haddr := 0x100000000 },
  bind := { quarters := [0, 1, 2, 3], cells := [(0, 0), (1, 1), (2, 2), (3, 3)], latches := [(6, 6), (7, 7)], hasps := [(4, 4)],
            queues := [(0, 5)], hdma := [(0, 2)] },
  run := { pages := ([0, 1, 2, 3, 0x80000].zipIdx).map (fun e =>
    (e.1, { home := .loc, frame := 8 + e.2, ward := 1, cow := false, sealed := false })) } }

/-- The stream `sid` of partition 1 with `w` alone in its queue, which has number 5. -/
def strm (g : Stream → Stream) (sid : StreamId) (w : InsnWord) : Stream := g { sid := sid, rank := 0, queue := 5, image := [w] }

/-- The device with that stream at its word; `h` makes the rest of the state, `f` of the partition. -/
def at' (h : State → State) (f : Part → Part) (g : Stream → Stream) (sid : StreamId) (w : InsnWord) : State :=
  let p := f part
  h { State.reset with
    fuses := { State.reset.fuses with stackH := 8 }
    tim := { State.reset.tim with state := .locked }
    store := { State.reset.store with
      mem := ((List.range 16).map (fun i => (base + i, BitVec.ofNat 8 (w.toNat / 2 ^ (8 * i))))).filter (fun e => e.2 != 0) }
    doms := [(1, { active := true, domain := 5, psc := 0x10000 })]
    parts := [(1, { p with run := { p.run with streams := strm g sid w :: p.run.streams } })]
    queues := [(5, { base := BitVec.ofNat 64 base, en := true, res := true, part := 1, log2 := 4, tail := 1 })] }

def sid (k : StreamKind) : StreamId := { part := 1, own := 0, kind := k, unit := 0 }

/-- What `Ready` asks, as a check. -/
def readyB (s : State) (sid : StreamId) (w : InsnWord) (st : Stream) : Bool :=
  s.wf && decide (stream s sid = some st) && decide ((s.part sid.part).load.state = .running) && !st.halted && !st.stopped &&
  !frozen s sid.part && decide ((s.queue st.queue).headWord s = some w) && decide (illegal sid w = none) &&
  (match headStrike (s.part sid.part).run st w with
    | some k => decide (k.toNat ≤ (pscOf s sid).toNat)
    | none => true) &&
  (!actsDep sid w || st.armed) && (s.part sid.part).run.ops.all (fun o => decide (o.sid ≠ sid)) &&
  decide (st.lastIssue.toNat + st.interval * 10 ≤ (pscOf s sid).toNat) && !s.hub.debugMode &&
  (!hostEntry st (s.queue st.queue).head || (!(s.part sid.part).recd.fp && !(s.part sid.part).recd.replay)) &&
  (s.part sid.part).run.ops.all (fun o => (List.range 13).all (fun u =>
    (!(cellUnit (s.part sid.part) sid u).isSome || decide (cellUnit (s.part sid.part) o.sid o.unit ≠ cellUnit (s.part sid.part) sid u)) &&
    (!(cellAt sid u).isSome || decide (cellAt o.sid o.unit ≠ cellAt sid u))))

theorem ready_of {s : State} {sid : StreamId} {w : InsnWord} {st : Stream} (h : readyB s sid w st = true) : Ready s sid w st := by
  unfold readyB at h
  simp only [Bool.and_eq_true, decide_eq_true_eq, Bool.not_eq_true', List.all_eq_true, List.mem_range] at h
  obtain ⟨⟨⟨⟨⟨⟨⟨⟨⟨⟨⟨⟨⟨⟨h1, h2⟩, h3⟩, h4⟩, h5⟩, h6⟩, h7⟩, h8⟩, h9⟩, h10⟩, h11⟩, h12⟩, h13⟩, h14⟩, h15⟩ := h
  refine ⟨h1, h2, h3, ⟨h4, h5⟩, h6, h7, h8, ?_, ?_, h11, ?_, h12, h13, ?_⟩
  · intro k hk
    rw [hk] at h9
    simpa using h9
  · intro ha
    simpa [ha] using h10
  · intro o ho u hu
    have := h15 o ho u hu
    simp only [Bool.or_eq_true, Bool.not_eq_true', decide_eq_true_eq] at this
    exact ⟨fun hc => this.1.resolve_left (by simp [hc]), fun hc => this.2.resolve_left (by simp [hc])⟩
  · intro he
    simpa [he] using h14

theorem get_mem {α : Type} {d : α} : ∀ (t : Tab α) (k : Nat), Tab.get d t k = d ∨ ∃ e ∈ t, e.2 = Tab.get d t k
  | [], _ => .inl rfl
  | (i, v) :: t, k => by
    unfold Tab.get
    split
    · exact .inl rfl
    · split
      · exact .inr ⟨_, List.mem_cons_self, rfl⟩
      · exact (get_mem t k).imp_right (fun ⟨e, he, h⟩ => ⟨e, List.mem_cons_of_mem _ he, h⟩)

theorem none_waits {s : State} (hl : ∀ e ∈ s.links, e.2.parked = [] ∧ e.2.blocked = [])
    (hp : ∀ e ∈ s.parts, e.2.run.localWait = []) : Claims.NoneWaits s := by
  constructor
  · intro k
    rcases get_mem (d := ({} : LinkReg)) s.links (linkIdx k) with h | ⟨e, he, h⟩
    · unfold State.link; rw [h]; exact ⟨rfl, rfl⟩
    · unfold State.link; rw [← h]; exact hl e he
  · intro m
    rcases get_mem (d := ({} : Part)) s.parts m with h | ⟨e, he, h⟩
    · unfold State.part; rw [h]
    · unfold State.part; rw [← h]; exact hp e he

theorem no_copies {s : State} (h : ∀ e ∈ s.cols, e.2.chCopy = []) (c : Nat) : (s.col c).chCopy = [] := by
  rcases get_mem (d := ({} : Col)) s.cols c with g | ⟨e, he, g⟩
  · unfold State.col; rw [g]
  · unfold State.col; rw [← g]; exact h e he

theorem no_drain {s : State} (h : ∀ e ∈ s.parts, e.2.snap.state ≠ .draining) (m : Nat) : (s.part m).snap.state ≠ .draining := by
  rcases get_mem (d := ({} : Part)) s.parts m with g | ⟨e, he, g⟩
  · unfold State.part; rw [g]; decide
  · unfold State.part; rw [← g]; exact h e he

theorem none_dirty {s : State} (h : ∀ e ∈ s.parts, e.2.run.chDirty = []) (m : Nat) : (s.part m).run.chDirty = [] := by
  rcases get_mem (d := ({} : Part)) s.parts m with g | ⟨e, he, g⟩
  · unfold State.part; rw [g]
  · unfold State.part; rw [← g]; exact h e he

/-- An instruction can issue where `P` holds. -/
structure Can (k : StreamKind) (w : InsnWord) (P : State → Stream → Prop) (h : State → State := id) (f : Part → Part := id)
    (g : Stream → Stream := id) : Prop where
  ready : Ready (at' h f g (sid k) w) (sid k) w (strm g (sid k) w)
  holds : P (at' h f g (sid k) w) (strm g (sid k) w)

theorem can {k : StreamKind} {w : InsnWord} {P : State → Stream → Prop} {h : State → State} {f : Part → Part} {g : Stream → Stream}
    (r : readyB (at' h f g (sid k) w) (sid k) w (strm g (sid k) w) = true) (p : P (at' h f g (sid k) w) (strm g (sid k) w)) :
    Can k w P h f g := ⟨ready_of r, p⟩

/-- A block of `n` bytes, from its bytes that are not zero. -/
def blk (n : Nat) (fs : List (Nat × Nat)) : List Byte :=
  (List.range n).map (fun i => BitVec.ofNat 8 (((fs.find? (fun f => f.1 == i)).map (·.2)).getD 0))

/-- Bytes at the start of the first rank's space. -/
def mem0 (fs : List (Nat × Nat)) (s : State) : State :=
  { s with store := { s.store with mem := s.store.mem ++ fs.map (fun f => (0x1000000 + f.1, BitVec.ofNat 8 f.2)) } }

/-! ### Streams -/

def wNop : InsnWord := word []
def wStrike : InsnWord := word [(127, 1), (120, 1)]
def wLoop (n : Nat) : InsnWord := word [(120, 3), (32, 1), (0, n)]
def wMark : InsnWord := word [(120, 2), (112, 1), (104, 1), (0, 1)]
def wEpoch : InsnWord := word [(127, 1), (120, 2), (104, 1), (0, 1)]
def epochs (e : Nat) (p : Part) : Part := { p with run := { p.run with bindingEpoch := BitVec.ofNat 32 e } }

theorem witness_ControlInstructionsIssue :
    Can .mov wNop (fun _ _ => opc wNop = 0x00) ∧ Can .mov wStrike (fun _ _ => opc wStrike = 0x01) ∧
    Can .mov (wLoop 0) (fun s st => opc (wLoop 0) = 0x03 ∧ (s.queue st.queue).res = true ∧ fld (wLoop 0) 0 32 = 0) ∧
    Can .mov (wLoop 0xFFFFFFFF) (fun s st => (s.queue st.queue).res = true ∧ (st.ctr 0).toNat + 1 < 0xFFFFFFFF)
      (g := fun st => { st with ctr0 := 0xFFFFFFFD }) ∧
    Can .mov (wLoop 1) (fun s st => (s.queue st.queue).res = true ∧ fld (wLoop 1) 0 32 ≤ (st.ctr 0).toNat + 1) := by
  and_intros <;> exact can (by decide +kernel) (by decide +kernel)

theorem witness_EpochsAdvance :
    Can .mov wMark (fun s st => opc wMark = 0x02 ∧ sub wMark = 1 ∧ fld wMark 0 32 = (st.epoch + 1).toNat ∧
      ((s.part 1).run.bindingEpoch - (st.epoch + 1)).toNat < 2 ^ 31) (f := epochs 1) ∧
    Can .mov wMark (fun s st => 2 ^ 31 ≤ ((s.part 1).run.bindingEpoch - (st.epoch + 1)).toNat) ∧
    Can .ctl wEpoch (fun s _ => sub wEpoch = 0 ∧ isLeader (sid .ctl) = true ∧
      fld wEpoch 0 32 = ((s.part 1).run.bindingEpoch + 1).toNat ∧ (s.part 1).snap.arm = false ∧
      (s.part 1).recd.replay = false ∧ (s.part 1).run.moves = [] ∧ (∀ c, (s.col c).chCopy = []) ∧ Claims.NoneWaits s ∧
      ∀ x ∈ (s.part 1).run.streams, x.sid ≠ sid .ctl → x.halted = false →
        (x.epoch - (s.part 1).run.bindingEpoch).toNat < 2 ^ 31) := by
  refine ⟨can (by decide +kernel) (by decide +kernel), can (by decide +kernel) (by decide +kernel),
    can (by decide +kernel) (show _ ∧ _ from ⟨rfl, by decide +kernel, by decide +kernel, by decide +kernel, by decide +kernel,
      by decide +kernel, no_copies (by decide +kernel), none_waits (by decide +kernel) (by decide +kernel), by decide +kernel⟩)⟩

def wHalt : InsnWord := word [(120, 4)]
def wTrap : InsnWord := word [(120, 5), (0, 0xFFFFFFFF)]
def other (halted : Bool) (p : Part) : Part := { p with run := { p.run with
  streams := [{ sid := sid .vx, rank := 0, queue := 6, image := [wNop], halted := halted }] } }

theorem witness_HaltAndTrapEndStreams :
    Can .mov wHalt (fun s _ => opc wHalt = 0x04 ∧ (s.part 1).recd.trace = false ∧
      (s.part 1).run.streams.all (fun x => x.sid == sid .mov || x.halted) = true) (f := other true) ∧
    Can .mov wHalt (fun s _ => (s.part 1).recd.trace = false ∧
      (s.part 1).run.streams.all (fun x => x.sid == sid .mov || x.halted) = false) (f := other false) ∧
    Can .mov wTrap (fun _ _ => opc wTrap = 0x05) := by
  and_intros <;> exact can (by decide +kernel) (by decide +kernel)

def wBad : InsnWord := word [(120, 0x7F)]
def wPair : InsnWord := word [(120, 0x18), (48, 1), (8, 4), (4, 4)]
def overrun (s : State) : State := { s with queues := [(5, { s.queue 5 with log2 := 0, head := 1, tail := 2, res := false })] }

theorem witness_ProgramFaultsAreRaised :
    (let s := at' id id id (sid .mov) wBad
     let st := strm id (sid .mov) wBad
     s.wf = true ∧ stream s (sid .mov) = some st ∧ (s.part 1).load.state = .running ∧ st.halted = false ∧ st.stopped = false ∧
     frozen s 1 = false ∧ (s.queue st.queue).headWord s = some wBad ∧ illegal (sid .mov) wBad = some 1) ∧
    Can .mov (wLoop 0) (fun s st => (s.queue st.queue).res = false) (h := overrun) ∧
    Can .mov wMark (fun s st => fld wMark 0 32 ≠ (st.epoch + 1).toNat ∧
      ((s.part 1).run.bindingEpoch - (st.epoch + 1)).toNat < 2 ^ 31) (f := epochs 9) (g := fun st => { st with epoch := 1 }) ∧
    Can .cell0 wPair (fun s st => opc wPair = 0x18 ∧ pairOf (fld wPair 8 4) (fld wPair 4 4) = none ∧
      borrowed (s.part 1).run { own := 0, lq := 0, j := cellNo st } = false) := by
  refine ⟨by decide +kernel, ?_⟩
  and_intros <;> exact can (by decide +kernel) (by decide +kernel)

def wStrikeDep : InsnWord := word [(127, 1), (120, 1), (111, 1)]
def wStrikeLate : InsnWord := word [(127, 1), (120, 1), (64, 0x100000)]
def wFence : InsnWord := word [(110, 1)]
/-- An operation of partition 1 in flight, becoming visible at `vis`. -/
def op (t : StreamId) (w : InsnWord) (pend : List Wr) : Op := {
  id := 1, sid := t, word := w, qpos := 0, issue := 0, vis := 0x100, unit := 0, rd := [], wr := [], pend := pend, wait := .none,
  want := 0, cause := .dram, passes := none, coll := none, stallFrom := none, expired := false, known := [], deferred := false }
def flying (o : Op) (p : Part) : Part := { p with run := { p.run with ops := [o], nextOp := 2 } }

theorem witness_NothingIssuesOutOfTurn :
    (let s := at' id id id (sid .mov) wNop
     let st := strm id (sid .mov) wNop
     stream s (sid .mov) = some st ∧ (s.queue st.queue).headWord s ≠ some wHalt) ∧
    (let s := at' id id id (sid .mov) wStrikeLate
     let st := strm id (sid .mov) wStrikeLate
     s.wf = true ∧ (s.queue st.queue).headWord s = some wStrikeLate ∧ illegal (sid .mov) wStrikeLate = none ∧
     frozen s 1 = false ∧ headStrike (s.part 1).run st wStrikeLate = some 0xA00000 ∧ (pscOf s (sid .mov)).toNat < 0xA00000) ∧
    (let s := at' id id id (sid .mov) wStrikeDep
     let st := strm id (sid .mov) wStrikeDep
     s.wf = true ∧ (s.queue st.queue).headWord s = some wStrikeDep ∧ illegal (sid .mov) wStrikeDep = none ∧
     frozen s 1 = false ∧ actsDep (sid .mov) wStrikeDep = true ∧ st.armed = false) ∧
    (let s := at' id (flying (op (sid .mov) wNop [])) id (sid .mov) wFence
     let st := strm id (sid .mov) wFence
     s.wf = true ∧ (s.queue st.queue).headWord s = some wFence ∧ illegal (sid .mov) wFence = none ∧ frozen s 1 = false ∧
     headStrike (s.part 1).run st wFence = none ∧ fence wFence = true ∧ heldCode (s.part 1).run (sid .mov) = none ∧
     ∃ o ∈ (s.part 1).run.ops, o.sid = sid .mov) := by decide +kernel

def wLadd (l : Nat) : InsnWord := word [(120, 8), (45, l), (0, 0xFFFFFFFF)]
def wLwait (l : Nat) : InsnWord := word [(120, 9), (45, l), (80, 0xFFFFFF)]
def wLbind (f d : Nat) : InsnWord := word [(120, 0xB), (45, f), (26, d), (16, 1023)]

theorem witness_LatchInstructionsIssue :
    Can .mov (wLadd 7) (fun s _ => (s.part 1).hasLatch (fld (wLadd 7) 45 19) = true ∧ opc (wLadd 7) = 0x08) ∧
    Can .ctl (wLbind 7 6) (fun s _ => (s.part 1).hasLatch 7 = true ∧ opc (wLbind 7 6) = 0x0B ∧
      (s.part 1).hasLatch (fld (wLbind 7 6) 26 19) = true) ∧
    Can .mov (wLwait 7) (fun s _ => (s.part 1).hasLatch 7 = true ∧ opc (wLwait 7) = 0x09) ∧
    Can .mov (wLadd 0x7FFFF) (fun s _ => (s.part 1).hasLatch (fld (wLadd 0x7FFFF) 45 19) = false) ∧
    Can .mov (wLwait 8) (fun s _ => (s.part 1).hasLatch (fld (wLwait 8) 45 19) = false) ∧
    Can .ctl (wLbind 8 7) (fun s _ => (s.part 1).hasLatch (fld (wLbind 8 7) 45 19) = false) := by
  and_intros <;> exact can (by decide +kernel) (by decide +kernel)

def wHarr (slot g : Nat) : InsnWord := word [(120, 0xC), (28, 4), (22, slot), (0, g)]
def wHcfg : InsnWord := word [(120, 0xD), (52, 4), (31, 7), (24, 64)]
def hasp (x : Hasp) (s : State) : State := { s with hasps := [(4, x)] }

theorem witness_HaspInstructionsIssue :
    (let x : Hasp := { configured := true, nslot := 64, rlatch := 7 }
     Can .mov (wHarr 63 0) (fun s st => (s.part 1).hasHasp 4 = true ∧ opc (wHarr 63 0) = 0x0C ∧ dep (wHarr 63 0) = false ∧
       63 < (s.hasp 4).nslot ∧ (s.hasp 4).mask0 ≠ fullMask 64 ∧ (Claims.generation st (wHarr 63 0) - (s.hasp 4).gen).toNat = 0 ∧
       bit (s.hasp 4).mask0 63 = false ∧ (s.hasp 4).mask0 ||| BitVec.ofNat 64 (2 ^ 63) ≠ fullMask 64) (h := hasp x) ∧
     Can .mov (wHarr 63 1) (fun s st => (Claims.generation st (wHarr 63 1) - (s.hasp 4).gen).toNat = 1 ∧
       bit (s.hasp 4).mask1 63 = false ∧ (s.hasp 4).mask0 ≠ fullMask 64) (h := hasp x)) ∧
    (let x : Hasp := { configured := true, nslot := 2, rlatch := 7, mask0 := 2 }
     Can .mov (wHarr 0 0) (fun s st => (s.part 1).hasHasp 4 = true ∧ 0 < (s.hasp 4).nslot ∧ (s.hasp 4).mask0 ≠ fullMask 2 ∧
       (Claims.generation st (wHarr 0 0) - (s.hasp 4).gen).toNat = 0 ∧ bit (s.hasp 4).mask0 0 = false ∧ (s.hasp 4).kind = 0 ∧
       (s.hasp 4).mask1 ≠ fullMask 2 ∧ (s.hasp 4).mask0 ||| BitVec.ofNat 64 (2 ^ 0) = fullMask 2) (h := hasp x)) ∧
    Can .ctl wHcfg (fun s _ => opc wHcfg = 0x0D ∧ (s.part 1).hasHasp (fld wHcfg 52 12) = true ∧
      (s.part 1).hasLatch (fld wHcfg 31 19) = true ∧ (s.hasp 4).mask0 = 0 ∧ (s.hasp 4).mask1 = 0) := by
  and_intros <;> exact can (by decide +kernel) (by decide +kernel)

def wCld : InsnWord := word [(120, 0x10), (48, 0xFFFF), (36, 1), (28, 0), (0, 8)]
def wTb (o src row : Nat) : InsnWord := word [(120, o), (10, src), (22, row), (12, 1), (107, if o = 0x1D then 1 else 0)]
def r0 (st : Stream) : CellRef := { own := 0, lq := 0, j := cellNo st }
def borrow (st : Stream) : Stream := { st with bmask := 8, bsel := 3 }

theorem witness_CellTransfersIssue :
    (let rows := [(0, 128), (128, 128)]
     Can .cell3 wCld (fun s st => Claims.OnCell s (sid .cell3) st ∧ Claims.Inside s (sid .cell3) wCld st rows ∧
       storeWard (s.part 1) (r0 st) [(0, 256)] = none ∧
       Claims.Homes s (sid .cell3) (memRngs 0 rows ++ storeRngs (s.part 1) (r0 st) [(0, 256)]))) ∧
    Can .uu (wTb 0x1C 0 1022) (fun s st => Claims.OnCell s (sid .uu) st ∧ fld (wTb 0x1C 0 1022) 22 10 + 2 ≤ 1024) (g := borrow) ∧
    Can .cell0 (wTb 0x1C 1 1022) (fun s st => storeWard (s.part 1) (r0 st) [(0, 4096)] = none ∧ fld (wTb 0x1C 1 1022) 10 2 = 1 ∧
      Claims.Homes s (sid .cell0) (storeRngs (s.part 1) (r0 st) [(0, 4096)])) ∧
    Can .cell0 (wTb 0x1C 2 1022) (fun s st => Claims.Inside s (sid .cell0) (wTb 0x1C 2 1022) st [(0, 4096)] ∧
      Claims.Homes s (sid .cell0) (memRngs 0 [(0, 4096)])) ∧
    Can .cell0 (wTb 0x1D 1 0) (fun s st => storeWard (s.part 1) (r0 st) [(0, 4096)] = none ∧
      Claims.Homes s (sid .cell0) (storeRngs (s.part 1) (r0 st) [(0, 4096)])) ∧
    Can .cell0 (wTb 0x1D 2 0) (fun s st => Claims.Inside s (sid .cell0) (wTb 0x1D 2 0) st [(0, 4096)] ∧
      Claims.Homes s (sid .cell0) (memRngs 0 [(0, 4096)])) := by
  unfold Claims.OnCell Claims.Inside Claims.Homes
  and_intros <;> exact can (by decide +kernel) (by decide +kernel)

def wMmw : InsnWord := word [(120, 0x18), (48, 1), (8, 3), (4, 3), (32, 63), (22, 1023)]
def wMma : InsnWord := word [(120, 0x19), (8, 0), (4, 0), (32, 255), (51, 255), (22, 1023)]
def wCmask : InsnWord := word [(120, 0x1E), (64, 2), (72, 1), (32, 0xFFFFFFFF)]

theorem witness_MultipliesIssue :
    Can .cell0 wMmw (fun s st => Claims.OnCell s (sid .cell0) st ∧ ((mulOf wMmw).map (fun x =>
      decide (storeWard (s.part 1) (r0 st) x.reads = none ∧ x.tbr + ceilDiv x.n 256 * x.m ≤ 1024 ∧ x.m = 1 ∧
        homeUnreached s 1 (storeRngs (s.part 1) (r0 st) x.reads) = false))) = some true) ∧
    Can .cell0 wMma (fun s st => Claims.OnCell s (sid .cell0) st ∧ ((mulOf wMma).map (fun x =>
      decide (storeWard (s.part 1) (r0 st) x.reads = none ∧ x.tbr + ceilDiv x.n 256 * x.m ≤ 1024 ∧ x.n = 256 ∧
        homeUnreached s 1 (storeRngs (s.part 1) (r0 st) x.reads) = false))) = some true) ∧
    Can .cell0 wCmask (fun s st => Claims.OnCell s (sid .cell0) st ∧ ¬ (fld wCmask 64 2 = 2 ∧ fld wCmask 72 32 = 0)) := by
  unfold Claims.OnCell
  and_intros <;> exact can (by decide +kernel) (by decide +kernel)

def wVx (o sb ft : Nat) : InsnWord := word [(120, o), (112, sb), (40, ft), (23, 511)]

theorem witness_VectorIntegerFormsIssue :
    Can .vx (wVx 0x32 0 5) (fun _ _ => opc (wVx 0x32 0 5) = 0x32) ∧ Can .vx (wVx 0x35 6 13) (fun _ _ => opc (wVx 0x35 6 13) = 0x35) ∧
    Can .vx (wVx 0x36 3 11) (fun _ _ => opc (wVx 0x36 3 11) = 0x36) ∧ Can .vx (wVx 0x36 3 13) (fun _ _ => fld (wVx 0x36 3 13) 40 4 = 13) ∧
    Can .vx (wVx 0x37 0 0) (fun _ _ => opc (wVx 0x37 0 0) = 0x37) := by
  and_intros <;> exact can (by decide +kernel) (by decide +kernel)

theorem witness_VectorFloatFormsIssue :
    Can .vx (wVx 0x34 9 5) (fun _ _ => opc (wVx 0x34 9 5) = 0x34) ∧ Can .vx (wVx 0x36 0 4) (fun _ _ => fld (wVx 0x36 0 4) 40 4 = 4) ∧
    Can .vx (wVx 0x38 1 4) (fun _ _ => sub (wVx 0x38 1 4) ≠ 2) ∧ Can .vx (wVx 0x38 2 5) (fun _ _ => sub (wVx 0x38 2 5) = 2) ∧
    Can .vx (wVx 0x3A 3 5) (fun _ _ => opc (wVx 0x3A 3 5) = 0x3A) := by
  and_intros <;> exact can (by decide +kernel) (by decide +kernel)

def wCvt : InsnWord := word [(120, 0x3C), (40, 4), (36, 0), (33, 4), (104, 1), (23, 511)]

theorem witness_VectorMemoryAndDrawsIssue :
    Can .vx (wVx 0x30 0 4) (fun s st => Claims.Inside s (sid .vx) (wVx 0x30 0 4) st [(0, (laneWidth 4 * 512 + 7) / 8)] ∧
      Claims.Homes s (sid .vx) (memRngs 0 [(0, (laneWidth 4 * 512 + 7) / 8)])) ∧
    Can .vx (wVx 0x31 0 0) (fun s st => Claims.Inside s (sid .vx) (wVx 0x31 0 0) st [(0, (laneWidth 0 * 512 + 7) / 8)] ∧
      Claims.Homes s (sid .vx) (memRngs 0 [(0, (laneWidth 0 * 512 + 7) / 8)])) ∧
    Can .vx wCvt (fun _ _ => (fmtOf (fld wCvt 40 4)).isSome = true ∧ (fmtOf (fld wCvt 36 4)).isSome = true) ∧
    Can .vx (wVx 0x3D 2 0) (fun _ _ => opc (wVx 0x3D 2 0) = 0x3D) ∧
    Can .vx (word [(120, 0x3E)]) (fun s st => Claims.Inside s (sid .vx) (word [(120, 0x3E)]) st [(0, 144)] ∧
      Claims.Homes s (sid .vx) (memRngs 0 [(0, 144)])) ∧
    Can .vx (word [(120, 0x3F)]) (fun _ _ => True) := by
  unfold Claims.Inside Claims.Homes
  and_intros <;> exact can (by decide +kernel) (by decide +kernel)

def wCopy (z : Nat) : InsnWord := word [(120, 0x60), (104, z), (64, 16), (0, 255)]
def wPfh : InsnWord := word [(120, 0x61), (20, 1), (0, 0xFFFFF)]

theorem witness_MoveInstructionsIssue :
    Can .mov (wCopy 1) (fun s st => bit (wCopy 1) 104 = true ∧ Claims.Inside s (sid .mov) (wCopy 1) st [(256, 4096)] ∧
      Claims.Homes s (sid .mov) (memRngs 0 [(256, 4096)])) ∧
    Can .mov (wCopy 0) (fun s st => bit (wCopy 0) 104 = false ∧ Claims.Inside s (sid .mov) (wCopy 0) st [(0, 4096), (256, 4096)] ∧
      Claims.Homes s (sid .mov) (memRngs 0 [(0, 4096), (256, 4096)])) ∧
    Can .mov wPfh (fun s st => Claims.Inside s (sid .mov) wPfh st [(hostLogical, 8192)] ∧
      Claims.Inside s (sid .mov) wPfh st [(0, 8192)] ∧ hostTarget (s.part 1) 0 0 8192 = none ∧
      Claims.Homes s (sid .mov) (memRngs 0 [(hostLogical, 8192)] ++ memRngs 0 [(0, min 8192 (hostLogical - 0))])) ∧
    Can .lmov (word [(120, 0x7B), (86, 2), (88, 0xFFFF)]) (fun _ _ => True) := by
  unfold Claims.Inside Claims.Homes
  and_intros <;> exact can (by decide +kernel) (by decide +kernel)

/-- A link of die 0 that is UP, with device 9 at its other end. -/
def link9 : LinkReg := { state := 2, peerValid := true, pdev := 9, dataOk := true }
def linked (s : State) : State := { s with links := [(0, link9)] }
def wRemote (o : Nat) : InsnWord := word [(120, o), (88, 2)]
def classed (st : Stream) : Stream := { st with lcls := 2 }
def farHome (p : Part) : Part := { p with run := { p.run with
  pages := (0, { home := .remote, frame := 8, ward := 1, cow := false, sealed := false }) :: p.run.pages.drop 1 } }

theorem witness_RemoteInstructionsIssue :
    Can .mov (wRemote 0x0A) (fun s _ => canReach s 1 2 = true) (h := linked) ∧
    Can .lmov (wRemote 0x78) (fun s st => canReach s 1 2 = true ∧ 2 ≤ st.lcls.toNat ∧
      Claims.Inside s (sid .lmov) (wRemote 0x78) st [(0, 256)] ∧ Claims.Homes s (sid .lmov) (memRngs 0 [(0, 256)]))
      (h := linked) (g := classed) ∧
    Can .lmov (wRemote 0x78) (fun s st => Claims.Inside s (sid .lmov) (wRemote 0x78) st [(0, 256)] ∧
      Claims.Homes s (sid .lmov) (memRngs 0 [(0, 256)]) ∧ Claims.parts s (sid .lmov) (wRemote 0x78) st [(0, 256)] ≠ [])
      (h := linked) (f := farHome) (g := classed) ∧
    Can .lmov (wRemote 0x79) (fun s st => canReach s 1 2 = true ∧ Claims.Inside s (sid .lmov) (wRemote 0x79) st [(0, 256)] ∧
      Claims.Homes s (sid .lmov) (memRngs 0 [(0, 256)])) (h := linked) (g := classed) ∧
    Can .lmov (wRemote 0x7A) (fun s st => canReach s 1 2 = true ∧ Claims.Inside s (sid .lmov) (wRemote 0x7A) st [(0, 16)] ∧
      Claims.Homes s (sid .lmov) (memRngs 0 [(0, 16), (0, 8)])) (h := linked) (g := classed) := by
  unfold Claims.Inside Claims.Homes
  and_intros <;> exact can (by decide +kernel) (by decide +kernel)

theorem witness_PostingQueuesOneMessage :
    let s := at' linked id id (sid .mov) wNop
    s.wf = true ∧ (s.part 1).obj = some obj ∧ (s.part 1).recd.replay = false ∧ obj.own.contains 2 = false ∧
    rankPlace obj 2 = some (9, 3, 0) ∧ wayTo s obj 2 = some { link := ⟨0, 0⟩, route := 0 } ∧ linkOut (s.link ⟨0, 0⟩) = false := by
  decide +kernel

def wHx (sb : Nat) : InsnWord := word [(120, 0x7C), (112, sb), (0, 40960), (20, 0xF)]
def wNote : InsnWord := word [(120, 0x7D), (64, 0x100), (0, 7)]

theorem witness_HdmaInstructionsIssue :
    Can .hdma (wHx 0) (fun s st => Claims.Inside s (sid .hdma) (wHx 0) st [(hostLogical, 65536)] ∧
      Claims.Inside s (sid .hdma) (wHx 0) st [(0, 65536)] ∧
      Claims.Homes s (sid .hdma) (memRngs 0 [(hostLogical, 65536), (0, 65536)]) ∧
      Claims.Homes s (sid .hdma) (memRngs 0 [(0, 65536), (hostLogical, 65536)])) ∧
    Can .hdma (wHx 1) (fun s st => Claims.Inside s (sid .hdma) (wHx 1) st [(hostLogical, 65536)] ∧
      Claims.Inside s (sid .hdma) (wHx 1) st [(0, 65536)] ∧
      Claims.Homes s (sid .hdma) (memRngs 0 [(0, 65536), (hostLogical, 65536)]) ∧ sub (wHx 1) = 1) ∧
    Can .hdma wNote (fun s st => Claims.Inside s (sid .hdma) wNote st [(hostLogical + 4096, 16)] ∧
      0 < windowPart (s.part 1) (hostLogical + 4096) 16) ∧
    Can .hdma (word [(120, 0x7E)]) (fun _ _ => True) ∧
    (let o := op (sid .hdma) (word [(120, 0x7E)]) [.irq]
     Claims.Due (at' id (flying o) id (sid .mov) wNop) 1 o ∧ o.wait = .none) := by
  unfold Claims.Inside Claims.Due Claims.Homes
  and_intros <;> first | exact can (by decide +kernel) (by decide +kernel) | decide +kernel

def wUu (o sb : Nat) : InsnWord := word [(120, o), (112, sb)]
def wUbor : InsnWord := word [(120, 0x54), (4, 9), (0, 3)]
/-- A rule of momentum without a norm, its arrays at address 0. -/
def rule : List Byte := blk 160 [(0x28, 1), (0x2A, 3)]
def comb : List Byte := blk 64 [(0x20, 1), (0x24, 3), (0x25, 5), (0x26, 1)]
def skips : List Byte := blk 160 [(0x28, 1), (0x2A, 3), (0x2C, 1)]
def ruled (b : List Byte) (st : Stream) : Stream := { st with rules := [(0, b)], combs := [(0, comb)] }

theorem witness_UpdateUnitSetupIssues :
    Can .uu (wUu 0x50 0) (fun s _ => uuWard (s.part 1) 0 [(0, 160)] = none ∧ ruleBad (uuRead s 1 0 0 160) = false)
      (h := mem0 [(0x28, 1), (0x2A, 3)]) ∧
    Can .uu (wUu 0x50 1) (fun s _ => uuWard (s.part 1) 0 [(0, 64)] = none ∧ combBad (uuRead s 1 0 0 64) = none)
      (h := mem0 [(0x20, 1), (0x24, 3), (0x25, 5), (0x26, 1)]) ∧
    Can .uu wUbor (fun s _ => sub wUbor = 0 ∧ (s.part 1).run.ops = []) ∧ Can .uu (wUu 0x54 1) (fun _ _ => sub (wUu 0x54 1) = 1) ∧
    Can .uu (wUu 0x52 0) (fun s st => Tab.get [] st.rules 0 ≠ [] ∧ (normDecision s 1 0 rule).dec ≠ 2 ∧
      uuWard (s.part 1) 0 (normRanges rule false) = none) (g := ruled rule) := by
  and_intros <;> exact can (by decide +kernel) (by decide +kernel)

theorem witness_UpdatesIssue :
    Can .uu (wUu 0x51 0) (fun s st => Tab.get [] st.rules 0 ≠ [] ∧ (updDecision s 1 0 rule).dec < 2 ∧
      uuWard (s.part 1) 0 (normRanges rule true ++ updRanges rule 0 1) = none) (g := ruled rule) ∧
    Can .uu (wUu 0x51 0) (fun s _ => 2 ≤ (updDecision s 1 0 skips).dec ∧ uuWard (s.part 1) 0 (normRanges skips true) = none)
      (h := mem0 [(7, 0x40)]) (g := ruled skips) ∧
    Can .uu (word [(120, 0x53), (59, 3)]) (fun s st => Tab.get [] st.combs 0 ≠ [] ∧
      uuWard (s.part 1) 0 [(0, 2), (0, 2), (0, 2), (0, 8)] = none) (g := ruled rule) := by
  and_intros <;> exact can (by decide +kernel) (by decide +kernel)

def wDesc : InsnWord := word [(120, 0x70), (56, 255)]

theorem witness_DescriptorsLoad :
    Can .clx wDesc (fun s _ => (s.part 1).obj = some obj ∧ (∀ own ∈ [0, 1],
        firstOut (s.part 1) own (engineOf (s.part 1) (sid .clx)) [(0, 64)] = none ∧ descBad obj.ranks (readL s 1 own 0 64) = false ∧
        remoteParts (s.part 1) own (engineOf (s.part 1) (sid .clx)) [(0, 64)] ++ hostParts (s.part 1) own [(0, 64)] = []) ∧
      Claims.Homes s (sid .clx) ([0, 1].map (fun own => memRng own 0 64)))
      (h := mem0 [(0, 2), (4, 2), (0x800000, 2), (0x800004, 2)]) := by
  unfold Claims.Homes
  exact can (by decide +kernel) (by decide +kernel)

/-- A group of `n` neighbours; `fs` are the other bytes of the descriptor, which both hosted ranks have. -/
def descOf (n : Nat) (fs : List (Nat × Nat)) (st : Stream) : Stream :=
  let b := blk 64 ([(0, n), (4, 1), (0x2C, 9)] ++ fs)
  { st with descs := [(0, b), (256, b)] }
def wColl (o sb root t : Nat) : InsnWord := word [(127, t), (120, o), (112, sb), (16, root)]
def collRank (own : Nat) (b : List Byte) : CollRank := {
  own := own, desc := b, up0 := false, up1 := false, down0 := false, down1 := false, sq := false, counts := false, data := false,
  applied := false }
/-- The collective of the word `w` on both hosted ranks. -/
def collOf (w : InsnWord) (s : State) (st : Stream) : Coll := {
  opc := opc w, sub := sub w, slot := 0, root := fld w 16 16, tag := st.collSeq,
  strike := if timed w then strikeOf (s.part 1).run st w else pscOf s (sid .clx),
  ranks := [0, 1].map (fun own => collRank own (Tab.get [] st.descs (own * 256))) }
/-- What `CollectivesStart` asks beside `Ready`. -/
def Starts (w : InsnWord) (s : State) (st : Stream) : Prop :=
  let c := collOf w s st
  (∀ x ∈ c.ranks, x.desc ≠ [] ∧ descDetail (opc w) (sub w) x.desc = none ∧ (opc w ≠ 0x73 → fld w 16 16 < dGsize x.desc)) ∧
  (opc w = 0x75 → fld w 16 16 ≠ 0) ∧ unreached s 1 obj c = false ∧ slotsOk s 1 obj c = true ∧
  (∀ x ∈ c.ranks, collOut s 1 obj c x = none) ∧ Claims.Homes s (sid .clx)
    (collRngs c (fun x => collHead c x ++ collReads s 1 obj c x) ++ collRngs c (collResults obj c))
/-- A `CA2A UNEQUAL` whose data phase begins 5 cycles after `strike`; the counts of the first hosted rank have left. -/
def dataOp (strike : Nat) : Op :=
  { op (sid .clx) (wColl 0x73 1 0 0) [] with coll := some {
      opc := 0x73, sub := 1, slot := 0, root := 0, tag := 0, strike := BitVec.ofNat 64 strike,
      ranks := [{ collRank 0 (blk 64 [(0, 2), (4, 1), (0x2C, 9), (0x28, 16), (0x30, 5)]) with asked := 2, counts := true }] } }

theorem witness_CollectivesStart :
    (let st := descOf 2 [(0x20, 2), (0x38, 4), (0x39, 4)]
     Can .clx (wColl 0x71 0 1 0) (fun s st => Starts (wColl 0x71 0 1 0) s st) (g := st) ∧
     Can .clx (wColl 0x71 1 0 0) (fun s st => Starts (wColl 0x71 1 0 0) s st) (g := st)) ∧
    Can .clx (wColl 0x72 0 1 0) (fun s st => Starts (wColl 0x72 0 1 0) s st) (g := descOf 2 [(0x21, 1)]) ∧
    Can .clx (wColl 0x73 0 0 0) (fun s st => Starts (wColl 0x73 0 0 0) s st) (g := descOf 2 [(0x20, 1), (0x28, 16)]) ∧
    Can .clx (wColl 0x73 1 0 0) (fun s st => Starts (wColl 0x73 1 0 0) s st) (g := descOf 2 [(0x28, 16)]) ∧
    Can .clx (wColl 0x74 0 0 0) (fun s st => Starts (wColl 0x74 0 0 0) s st) (g := descOf 2 [(0x20, 1)]) ∧
    Can .clx (wColl 0x74 1 0 1) (fun s st => Starts (wColl 0x74 1 0 1) s st) (g := descOf 2 [(0x20, 1)]) ∧
    Can .clx (wColl 0x75 0 1 0) (fun s st => Starts (wColl 0x75 0 1 0) s st) (g := descOf 2 []) ∧
    (∀ late ∈ [true, false],
      let k := if late then 0x10000 - 50 else 0x10000 - 49
      let o := dataOp k
      let s := at' id (flying o) id (sid .clx) wNop
      (s.part 1).obj = some obj ∧ (s.part 1).run.ops.find? (fun x => x.id == 1) = some o ∧ o.want = 0 ∧
      chunksOf s 1 o.id = false ∧ (o.coll.map (fun c => c.ranks.map (fun x =>
        decide (c.strike.toNat + dDphase x.desc * 10 ≤ (s.dom 1).psc.toNat && x.asked = 2 && x.counts && !x.data)))) =
        some [late]) := by
  unfold Starts Claims.Homes
  and_intros <;> first | exact can (by decide +kernel) (by decide +kernel) | decide +kernel

/-! ### Time and holds -/

def up : LinkReg := { state := 2 }
/-- A device that is READY, with two links UP and one partition in an active domain. -/
def ready : State := { State.reset with
  hub := { ready := true, stopped := false, pwrOk := true, devno := 5, devnoValid := true, stage := 8 }
  tim := { state := .pintleFree, depth := 0, hall := 0x2000000000, lead := 0xFA00 }
  pcie := { State.reset.pcie with vfEnable := true, numVfs := 3, up0 := true }
  links := [(0, up), (21, up)]
  doms := [(1, { active := true, domain := 3, diam := 1, psc := 0x10000, origin := 0x1000 })] }
def tm (f : Tim → Tim) : State := { ready with tim := f ready.tim }
def dm (f : Dom → Dom) : State := { ready with doms := [(1, f (ready.dom 1))] }
def loadedObj : State := { ready with parts := [(1, { obj := some obj, load := { state := .loaded } })] }
def hold (source effect : Nat) (release taken : Bool) : HoldRec :=
  { source := BitVec.ofNat 16 source, seq := 0, release := release, effect := BitVec.ofNat 64 effect, taken := taken }

theorem witness_HoldSettingsAreGuarded :
    (ready.wf = true ∧ Claims.Serves ready .pf 0x100018 ∧ Claims.Serves ready .mgmt 0x10001C ∧ Claims.Serves ready .peer 0x101000) ∧
    (¬ (∃ n < 32, (ready.dom n).active = true ∧ fld (8960 : Word) 0 24 < (ready.dom n).diam.toNat * 960 + 8000)) ∧
    (∀ n o, (ready.part n).obj ≠ some o) ∧
    (∃ n < 32, (ready.dom n).active = true ∧ fld (8959 : Word) 0 24 < (ready.dom n).diam.toNat * 960 + 8000) ∧
    (loadedObj.wf = true ∧ Claims.Serves loadedObj .pf 0x100018 ∧ ∃ n < 32, ∃ o, (loadedObj.part n).obj = some o ∧
      (loadedObj.part n).load.state ∈ [LoadState.loaded, .running, .done, .faulted] ∧
      loadedObj.tim.lead.toNat < fld (0xFA01 : Word) 0 24 ∧ o.planLead < fld (0xFA01 : Word) 0 24) ∧
    fld (1 : Word) 0 20 ≠ 0 ∧ fld (0x100000 : Word) 0 20 = 0 ∧
    (bit (0x80070100 : Word) 31 = true ∧ (ready.dom 0).active = false ∧ timeRuns ready.tim.state = true ∧
      fld (0x80070100 : Word) 8 8 * 960 + 8000 ≤ ready.tim.lead.toNat ∧ (ready.dom 1).active = true ∧
      fld (0x80070100 : Word) 8 8 = (ready.dom 1).diam.toNat) ∧
    (ready.tim.lead.toNat < fld (0x80073B00 : Word) 8 8 * 960 + 8000) ∧
    (bit (0x00070100 : Word) 31 = false ∧ (ready.dom 31).active = false ∧ (ready.dom 1).active = true ∧
      ∀ h ∈ (ready.dom 1).holds, h.source ≠ ready.hub.devno) ∧
    (let s := dm (fun d => { d with holds := [hold 5 0 false false] })
     s.wf = true ∧ Claims.Serves s .pf 0x101000 ∧ (s.dom 1).active = true ∧ (s.dom 1).holds = [hold 5 0 false false] ∧
      (hold 5 0 false false).source = s.hub.devno) := by
  unfold Claims.Serves
  refine ⟨by decide +kernel, by decide +kernel, fun n o => nofun, by decide +kernel, ⟨by decide +kernel, by decide +kernel, 1,
    by decide, obj, by decide +kernel⟩, ?_⟩
  and_intros <;> decide +kernel

/-- A time code frame with time `t` and the bits of its VALID field. -/
def frame (t valid : Nat) : BitVec 125 :=
  let x := BitVec.ofNat 125 (0xE2B5 * 2 ^ 109 + t * 2 ^ 45 + valid * 2 ^ 37)
  x ||| BitVec.ofNat 125 (crc16 72 (fld x 37 72) * 2 ^ 21)
def good (s : State) (f : BitVec 125) : Prop :=
  fld f 109 16 = 0xE2B5 ∧ fld f 21 16 = crc16 72 (fld f 37 72) ∧ fld f 37 1 = 1 ∧ BitVec.ofNat 64 (fld f 45 64) = s.tim.codeT + 16000

def waits : Tim := { ready.tim with waiting := true, noticeAt := 0x1C46536000 }
def slews (off : BitVec 64) : Tim := { ready.tim with slewing := true, codeValid := true, codeOff := off }

theorem hall_runs_out : waits.waiting = true ∧ 16000000000 ≤ (waits.hall - waits.noticeAt).toNat := by
  and_intros <;> decide +kernel

theorem hall_slewed_in : ((slews 2).codeOff.toInt ≤ 2 ∧ -2 ≤ (slews 2).codeOff.toInt) ∧ (slews (-2)).codeOff.toInt ≤ 2 ∧
    -2 ≤ (slews (-2)).codeOff.toInt := by
  and_intros <;> decide +kernel

theorem good_first : good { ready with tim := { ready.tim with codeT := 1, codeValid := true } } (frame 16001 1) := by
  unfold good; and_intros <;> decide +kernel

theorem good_second : good { ready with tim := { ready.tim with codeT := 1, codeGood := 1 } } (frame 16001 1) := by
  unfold good; and_intros <;> decide +kernel

theorem good_third : good { ready with tim := { ready.tim with codeT := 1, codeGood := 2 } } (frame 16001 1) := by
  unfold good; and_intros <;> decide +kernel

theorem good_restores :
    good { ready with tim := { ready.tim with codeT := 1, codeGood := 2, state := .unlocked, waiting := true } } (frame 16001 1) := by
  unfold good; and_intros <;> decide +kernel

theorem bad_third : ¬ good { ready with tim := { ready.tim with codeValid := true, codeBad := 2 } } (frame 16001 0) := by
  unfold good; decide +kernel

theorem bad_again :
    ¬ good { ready with tim := { ready.tim with codeValid := true, codeBad := 3, state := .pintle } } (frame 16001 1) := by
  unfold good; decide +kernel

/-- A pintle that slews, at the last of 63 frames. -/
def slewing (hall : Nat) : State := { ready with tim := { ready.tim with
  codeT := 1, codeValid := true, slewing := true, slewFrames := 62, hall := BitVec.ofNat 64 hall } }
def codeOffset (s : State) : BitVec 64 := BitVec.ofNat 64 (fld (frame 16001 1) 45 64) - s.tim.hall - BitVec.ofInt 64 s.tim.phase

theorem good_gains : good (slewing 15998) (frame 16001 1) := by
  unfold good; and_intros <;> decide +kernel

theorem good_loses : good (slewing 16004) (frame 16001 1) := by
  unfold good; and_intros <;> decide +kernel

theorem witness_HallTimeHasOneSource :
    (let s := tm (fun t => { t with state := .unlocked, src := true, waiting := true, startWritten := 2 })
     s.wf = true ∧ Claims.Serves s .pf 0x100008 ∧ s.tim.state = .unlocked ∧ s.tim.src = true ∧ s.tim.waiting = true ∧
       s.tim.startWritten = 2) ∧
    (let s := tm (fun t => { t with state := .unlocked, src := true })
     s.wf = true ∧ Claims.Serves s .pf 0x100008 ∧ s.tim.state = .unlocked ∧ s.tim.src = true ∧ s.tim.waiting = false) ∧
    (Claims.Serves ready .pf 0x100008 ∧ ¬ (ready.tim.state = .unlocked ∧ ready.tim.src = true)) ∧
    (let s := tm (fun t => { t with state := .unlocked, settled := true })
     Claims.Serves s .pf 0x100010 ∧ s.tim.state ≠ .pintle ∧ s.tim.state ≠ .pintleFree ∧ s.tim.settled = true ∧ s.tim.waiting = false) ∧
    (let s := tm (fun t => { t with state := .pintle })
     Claims.Serves s .pf 0x100010 ∧ s.tim.state = .pintle ∧ bit (0x1FF : Word) 8 = true) ∧
    (Claims.Serves ready .pf 0x100028 ∧ ∃ n < 32, (ready.dom n).active = true) ∧
    (let s := { ready with doms := [] }
     s.wf = true ∧ Claims.Serves s .pf 0x100028 ∧ ∀ n < 32, (s.dom n).active = false) ∧
    (waits.waiting = true ∧ 16000000000 ≤ (waits.hall - waits.noticeAt).toNat) ∧
    ((slews 2).state = .pintleFree ∧ (slews 2).slewing = true ∧ (slews 2).codeValid = true) ∧
    (let s := { ready with tim := { ready.tim with codeT := 1, codeValid := true } }
     s.wf = true ∧ s.hub.stopped = false ∧ s.tim.slewing = false ∧ s.tim.src = false ∧ good s (frame 16001 1)) ∧
    (let s := { ready with tim := { ready.tim with codeValid := true, codeBad := 2 } }
     s.wf = true ∧ s.hub.stopped = false ∧ ¬ good s (frame 16001 0)) ∧
    (good (slewing 15998) (frame 16001 1) ∧ good (slewing 16004) (frame 16001 1)) ∧
    ((slewing 15998).wf = true ∧ (slewing 16004).wf = true ∧ 2 < (codeOffset (slewing 15998)).toInt ∧
      (codeOffset (slewing 16004)).toInt < -2) := by
  unfold Claims.Serves
  refine ⟨?_, ?_, ?_, ?_, ?_, ?_, ?_, hall_runs_out, ?_, ⟨?_, ?_, ?_, ?_, good_first⟩, ⟨?_, ?_, bad_third⟩,
    ⟨good_gains, good_loses⟩, ?_⟩
  all_goals and_intros <;> decide +kernel

def cand (pri dev : Nat) : Candidate := { pri := BitVec.ofNat 8 pri, dev := BitVec.ofNat 16 dev, ident := 1, settled := false }
def topo (dev : Nat) : TopoRec := { dev := BitVec.ofNat 16 dev, ident := 1, depth := 2, upLinks := 1, hops := 255, seq := 4 }
/-- A device that elects: every link die has adapted and no domain is active. -/
def elects (f : Tim → Tim) : State := { ready with
  tim := f { state := .unlocked, hall := 0x2000000000, pri := 4 }, doms := []
  dies := (List.range 4).map (fun d => (d, { calDone := true })) }
def ends (s : State) : Prop :=
  s.wf = true ∧ s.tim.state = .unlocked ∧ electing s = true ∧ s.hub.stopped = false ∧ linksReady s = true ∧
  8000000000 ≤ (s.tim.hall - s.tim.lastLower).toNat ∧ s.tim.pintlePri ≠ 0xFF ∧
  ¬ (s.tim.pri.toNat < s.tim.pintlePri.toNat ∨ (s.tim.pri = s.tim.pintlePri ∧ s.hub.devno.toNat < s.tim.pintleDev.toNat))

theorem witness_ElectionsSettle :
    (let s := elects id
     s.wf = true ∧ (s.link ⟨0, 0⟩).state = 2 ∧ electing s = true ∧ (cand 1 7).dev ≠ s.hub.devno ∧
       s.tim.badCands.contains 7 = false ∧ s.tim.settled = false ∧ s.tim.pintlePri = 0xFF) ∧
    (let s := elects (fun t => { t with pintlePri := 3, pintleDev := 2 })
     s.wf = true ∧ electing s = true ∧ ¬ (3 < s.tim.pintlePri.toNat ∨ (3 = s.tim.pintlePri.toNat ∧ 7 < s.tim.pintleDev.toNat)) ∧
       ¬ ((cand 3 7).pri = s.tim.pintlePri ∧ (cand 3 7).dev = s.tim.pintleDev) ∧
       (3 = s.tim.pintlePri.toNat ∧ 1 < s.tim.pintleDev.toNat)) ∧
    (let s := elects (fun t => { t with settled := true, pintlePri := 3, pintleDev := 2 })
     s.wf = true ∧ s.tim.settled = true ∧ s.tim.pintlePri ≠ 0xFF ∧ 16000000000 ≤ (s.tim.hall - s.tim.electAt).toNat) ∧
    ends (elects (fun t => { t with pintlePri := 3, pintleDev := 2 })) ∧
    ends (elects (fun t => { t with pintlePri := 4, pintleDev := 5, src := true })) ∧
    ends (elects (fun t => { t with pintlePri := 4, pintleDev := 5 })) ∧
    (ready.wf = true ∧ (ready.link ⟨0, 0⟩).state = 2 ∧ (topo 7).dev ≠ ready.hub.devno ∧ ready.hub.dist 7 = 255 ∧
      Tab.get 0 ready.hub.topoSeq 7 ≤ (topo 7).seq ∧ (topo 5).dev = ready.hub.devno ∧ (topo 5).ident ≠ ready.fuses.identity) ∧
    (let s := { ready with hub := { ready.hub with topo := [(7, 3)] } }
     s.wf = true ∧ s.hub.topoSettled = false ∧ s.hub.topo ≠ [] ∧ 16000000000 ≤ (s.tim.hall - s.hub.topoChange).toNat) ∧
    (let s := tm (fun t => { t with state := .locked, settled := true, pintlePri := 3, pintleDev := 2 })
     s.wf = true ∧ (s.link ⟨0, 0⟩).state = 2 ∧ (cand 1 7).settled = false) := by
  unfold ends
  and_intros <;> decide +kernel

def timeSym (st : TimeState) : TimeSym := { hall := 0x1FFFFFFF00, depth := 14, state := st, back := some 40, fine := 3 }
/-- One link UP, on which a parent has been heard. -/
def child (f : Tim → Tim) : State := { tm f with
  links := [(0, { up with nTime := some (timeSym .locked) })]
  doms := [(1, { active := true, domain := 3, diam := 1 }), (2, { active := true, lostRaises := 2 })] }

theorem witness_TimeIsTakenFromAParent :
    (∀ st ∈ [TimeState.unlocked, .acquiring, .locked, .holdover],
      let s := child (fun t => { t with state := st, depth := 15 })
      s.wf = true ∧ upLinks s = [⟨0, 0⟩] ∧ (timeSym .locked).depth.toNat < 15 ∧ (s.link ⟨0, 0⟩).nCand = none ∧
        s.tim.rejoin = none ∧ s.tim.waiting = false ∧ s.tim.parent = ⟨0, 0⟩) ∧
    ((timeSym .lost).state = .lost) ∧
    (let s := child (fun t => { t with state := .acquiring, depth := 2 })
     s.wf = true ∧ s.tim.depth ≠ 0xF ∧ (parents s).any (fun e => e.1 == s.tim.parent) = true) ∧
    (let s := child (fun t => { t with state := .holdover, holdoverAt := 0x2000000000 - 160000000 })
     s.tim.state = .holdover ∧ 160000000 ≤ (s.tim.hall - s.tim.holdoverAt).toNat ∧ (s.dom 1).active = true ∧ (s.dom 0).active = false) ∧
    (let s := child (fun t => { t with state := .locked, lockedAt := 0x2000000000 - 16000000 })
     s.tim.state = .locked ∧ 16000000 ≤ (s.tim.hall - s.tim.lockedAt).toNat ∧ (s.dom 2).lostRaises = 2 ∧
       (s.dom 2).active = true ∧ (s.dom 1).lostRaises = 0 ∧ (s.dom 1).active = true) ∧
    (let s := child (fun t => { t with state := .locked })
     s.wf = true ∧ upLinks s = [⟨0, 0⟩] ∧ s.tim.state = .locked ∧ s.tim.parent = ⟨0, 0⟩ ∧ (s.link ⟨0, 0⟩).state = 2 ∧
       (s.link ⟨0, 0⟩).takesCopy (.time (timeSym .locked)) { no := .second, ok := false } = false) := by
  and_intros <;> decide +kernel

def holdSym (effect : Nat) : HoldSym := { release := false, domain := 3, source := 9, seq := 4, effect := BitVec.ofNat 64 effect }
/-- A stream at a dependent instruction that is not armed, in the active domain `d`. -/
def depends (g : Stream → Stream) (d : Dom → Dom) : State :=
  at' (fun s => { s with tim := { s.tim with hall := 0x1000000, lead := 0xFA00, maxMs := 1 }, doms := [(1, d { s.dom 1 with domain := 3 })] })
    id g (sid .mov) wStrikeDep
def raised (st : Stream) : Stream := { st with raised := true }

theorem witness_HoldsAct :
    (∀ g ∈ [id, raised],
      let s := depends g id
      let st := strm g (sid .mov) wStrikeDep
      s.wf = true ∧ stream s (sid .mov) = some st ∧ (s.part 1).load.state = .running ∧ st.halted = false ∧ st.stopped = false ∧
        (s.queue st.queue).headWord s = some wStrikeDep ∧ actsDep (sid .mov) wStrikeDep = true ∧ st.armed = false ∧
        (s.dom 1).active = true) ∧
    (let s := depends id id
     let st := strm id (sid .mov) wStrikeDep
     st.raised = false ∧ ∃ k, nextDep s st = some (wStrikeDep, k) ∧
       k.toNat ≤ ((s.dom 1).hst s.tim.hall).toNat + s.tim.lead.toNat) ∧
    (let r := hold 9 0x1000000 false false
     let s := depends id (fun d => { d with holds := [r] })
     s.wf = true ∧ (s.dom 1).holds = [r] ∧ r.effect ≤ s.tim.hall ∧ (s.dom 1).held = false) ∧
    (let r := hold 9 0x800000 false true
     let y := hold 9 0x1000000 true false
     let s := depends id (fun d => { d with held := true, holds := [r, y] })
     s.wf = true ∧ (s.dom 1).holds = [r, y] ∧ r.source = y.source ∧ y.effect ≤ s.tim.hall ∧ (s.dom 1).held = true) ∧
    (let s := depends id (fun d => { d with held := true, heldSince := 0x1000000 - 16000000 })
     s.wf = true ∧ (s.dom 1).held = true ∧ (s.dom 1).holdMaxSent = false ∧
       s.tim.maxMs.toNat * 16000000 ≤ (s.tim.hall - (s.dom 1).heldSince).toNat) ∧
    (ready.wf = true ∧ (ready.link ⟨0, 0⟩).state = 2 ∧ ready.tim.seen.contains (9, 4) = false ∧
      ready.tim.hall ≤ (holdSym 0x2000000000).effect ∧ (holdSym 0x1FFFFFFFFF).effect < ready.tim.hall ∧
      (ready.dom 1).active = true ∧ (ready.dom 1).domain = (holdSym 0).domain ∧ (ready.dom 1).holds = [] ∧
      (ready.dom 1).held = false) ∧
    (tm (fun t => { t with seen := [(9, 4)] })).tim.seen.contains (9, 4) = true ∧
    (ready.link ⟨0, 0⟩).takesCopy (.hold (holdSym 0)) { no := .first, ok := false } = false := by
  refine ⟨by decide +kernel, ⟨by decide +kernel, 0, by decide +kernel⟩, ?_⟩
  and_intros <;> decide +kernel

/-! ### Visibility, waits, DRAM, the keyway -/

def due (w : Wait) (pend : List Wr) : Op := { op (sid .mov) wNop pend with wait := w }
def inFlight (o : Op) : State := at' (fun s => { s with store := { s.store with latch := [(6, 2), (7, 3)] } }) (flying o) id (sid .mov) wNop

theorem witness_OperationsBecomeVisible :
    (∀ p ∈ [[], [Wr.mem 0 0x1F00 (List.replicate 256 1)], [.tb 3 5 [1, 0, 3]], [.vreg 2 3 [4, 5]], [.gen 1 { job := 3 }], [.latch 6 4],
        [.bind 7 6 1], [.mask 1 2 3 4], [.lset 1 2 3], [.desc 0 3 [1]], [.rule 0 [1]], [.comb 0 [3]], [.borrow 3 1], [.unborrow],
        [.uuDec 1 { upd := true, dec := 2, sq := none }], [.uuUpd 1 { written := 0, nonfin := 3 }], [.hcfg 4 2 7 64]],
      let o := due .none p
      let s := inFlight o
      Claims.Due s 1 o ∧ o.wait = .none ∧ o.pend = p ∧ (s.part 1).run.pairs = [] ∧ s.hub.debugMode = false ∧
        stream s o.sid = some (strm id (sid .mov) wNop) ∧ o.stallFrom = none) ∧
    (let o := { due .none [] with stallFrom := some 0x200 }
     Claims.Due (inFlight o) 1 o ∧ o.stallFrom ≠ none) ∧
    (let s := inFlight (due .none [.mem 0 0x1F00 (List.replicate 256 1)])
     0x1F00 % 256 + 256 ≤ 256 ∧ (s.part 1).reach 0 0x1F00 = .loc 0x1001F00 ∧ (∀ i < 256, place s (0x1001F00 + i) = .dram (0x1001F00 + i)) ∧
       (s.part 1).run.moves = [] ∧ remoteParts (s.part 1) 0 plainEngine [(0x1F00, 256)] = []) ∧
    (let s := inFlight (due .none [])
     (s.latch 6).toNat + 4 < 2 ^ 64 ∧ (s.latch 6).toNat ≤ (s.latch 7).toNat ∧ (s.latch 7).toNat ≤ (s.latch 6).toNat + 1) := by
  unfold Claims.Due
  and_intros <;> decide +kernel

def pass (idx owed : Nat) (endAt : BitVec 64) : Op := { op (sid .cell0) wNop [] with
  passes := some { cell := 3, time := 4, repeats := [0, 2, 3], idx := idx, owed := owed, endAt := endAt } }
def shadow : ShadowRec := { part := 1, op := 4, cell := 5, lqtr := 0, psc := 0x123, qpos := 7 }

theorem witness_PassesAndComparisonsEnd :
    (∀ e ∈ [(0, 0, 0), (1, 0, 2), (1, 1, 2), (1, 2, 2)],
      let o := pass e.1 e.2.1 0
      let s := inFlight o
      s.wf = true ∧ (s.part 1).run.ops.find? (fun x => x.id == o.id) = some o ∧ o.passes.bind (fun p => p.repeats[p.idx]?) = some e.2.2 ∧
        o.issue.toNat + (e.1 + 1) * 4 * 10 ≤ (s.dom 1).psc.toNat ∧ (s.dom 1).stalls.contains (.retry, o.id) = false ∧
        (0 : BitVec 64).toNat ≤ s.tim.hall.toNat) ∧
    (let o := pass 1 2 1
     let s := inFlight o
     (s.part 1).run.ops.find? (fun x => x.id == o.id) = some o ∧ ¬ (1 : BitVec 64).toNat ≤ s.tim.hall.toNat) ∧
    (let s := { ready with cells := [(17, { role := .shadowing, shadowOf := some shadow })] }
     s.wf = true ∧ (s.cell (0 * 18 + 17)).shadowOf = some shadow ∧ shadow.cell ≠ 17 ∧ (s.part 1).snap.state ≠ .draining ∧
       (s.dom 1).active = true ∧ (s.col 0).mmValid = false) ∧
    (let s := { ready with cells := [(17, { role := .shadowing, shadowOf := some shadow })], cols := [(0, { mmValid := true })] }
     s.wf = true ∧ (s.cell 17).shadowOf = some shadow ∧ (s.col 0).mmValid = true) := by
  and_intros <;> decide +kernel

def late (o : Op) : State := { inFlight o with
  doms := [(1, { active := true, domain := 5, psc := 0x1000, origin := 0x10000, stalls := [(.latch, 1)] })]
  tim := { State.reset.tim with hall := 0x10000 + 0x100 + 0xA00000 } }
def full (x : Hasp) : State := { inFlight (due .none []) with hasps := [(4, x)] }
def haspSym : HaspSym := { release := true, domain := 5, hasp := 0, src := 1, dst := 0, gen := 4 }
/-- A partition that waits for a strike, `psc` behind it. -/
def idle (held : Nat) : State :=
  at' (fun s => { s with doms := [(1, { s.dom 1 with heldTotal := BitVec.ofNat 64 held })], tim := { s.tim with hall := 0x1000000, state := .pintleFree } })
    id id (sid .mov) wStrikeLate

theorem witness_WaitsEnd :
    (let o := due (.latch 6 2 0) []
     let s := inFlight o
     Claims.Due s 1 o ∧ o.pend = [] ∧ o.wait = .latch 6 2 0 ∧ s.hub.debugMode = false ∧
       stream s o.sid = some (strm id (sid .mov) wNop) ∧ 2 ≤ (s.latch 6).toNat) ∧
    (let o := due (.latch 6 3 0) []
     let s := inFlight o
     Claims.Due s 1 o ∧ (s.latch 6).toNat < 3 ∧ o.stallFrom = none) ∧
    (let o := { due (.latch 6 3 1) [] with stallFrom := some 0x100 }
     let s := late o
     s.wf = true ∧ (s.part 1).run.ops.find? (fun x => x.id == o.id) = some o ∧ o.stallFrom = some 0x100 ∧ o.expired = false ∧
       (s.latch 6).toNat < 3 ∧ (s.dom 1).active = true ∧ 0x100 + 1 * 2 ^ 20 * 10 ≤ ((s.dom 1).hst s.tim.hall).toNat ∧
       (s.part 1).sync.dlValid = false) ∧
    (let x : Hasp := { owner := some 1, fullAt := some 0xFFF6, kind := 2, rlatch := 7, nslot := 2, mask0 := 3, gen := 5 }
     let s := full x
     s.wf = true ∧ (s.hasp 4).owner = some 1 ∧ (s.hasp 4).fullAt = some 0xFFF6 ∧ (s.hasp 4).kind = 2 ∧
       0xFFF6 + 10 ≤ (s.dom 1).psc.toNat ∧ (s.hasp 4).mask1 ≠ fullMask 2 ∧ (s.part 1).run.pairs = [] ∧
       (s.latch 7).toNat + 1 < 2 ^ 64) ∧
    (let s := { inFlight (due .none []) with links := [(0, up)] }
     s.wf = true ∧ (s.link ⟨0, 0⟩).state = 2 ∧ (s.dom 1).active = true ∧ (s.dom 1).domain = haspSym.domain ∧
       (s.part 1).obj = some obj ∧ (∀ m < 1, (s.dom m).active = true → (s.dom m).domain ≠ haspSym.domain) ∧
       domainIndex s obj 1 = haspSym.dst) ∧
    (∀ held ∈ [0, 0x800000],
      let s := idle held
      s.wf = true ∧ (s.part 1).load.state = .running ∧ (s.dom 1).active = true ∧ (s.dom 1).jump = none ∧ stalled s 1 = false ∧
        s.hub.deadboltPending = false ∧ idlePart s 1 = true ∧ timeRuns s.tim.state = true ∧
        (∀ e ∈ partChannels s 1, (s.col e.1).pendingRows = []) ∧ (s.dom 1).psc.toNat < catchTarget s 1) := by
  unfold Claims.Due
  and_intros <;> decide +kernel

/-- A block of channel 67 in which the symbols at `errs` are wrong. -/
def badBlock (errs : List (Nat × Byte)) : BadBlock := { ch := 67, row := 3, addr := 0x1000000, errs := errs }
def colAt (x : Col) : State := { ready with cols := [(1, x)] }
/-- Partition 1 has quarter 4, the first of column 1, and stands still. -/
def frozenCol : State := { colAt { rate := 1 } with
  parts := [(1, { bind := { quarters := [4] }, load := { state := .running } })]
  doms := [(1, { active := true, stalls := [(.latch, 1)] })], tim := { ready.tim with hall := 62400 } }

theorem witness_ChannelsRefreshAndScrub :
    (0 : Nat) < 62400 ∧
    (let s := colAt { rate := 1 }
     s.wf = true ∧ s.hub.stopped = false ∧ (∀ e ∈ (s.col 1).pendingRows, e.1 ≠ 67) ∧
       nextPos (chanClock s 1 67).2 (67 * 960 % 62400) 62400 (Tab.get 0 (s.col 1).refreshFrom 67).toNat ≤ (chanClock s 1 67).1 ∧
       nextPos (chanClock s 1 67).2 (67 * 160 % 10240) 10240 (Tab.get 0 (s.col 1).scrubFrom 67).toNat ≤ (chanClock s 1 67).1 ∧
       Tab.get 0 (s.col 1).scrubPos 67 + 1 < 2097152 ∧ Tab.get 0 (s.col 1).passCe 67 + 1 ≤ s.hub.ceMax.toNat / 16 ∧
       ((s.col 1).passCe.map (·.2)).sum + 1 ≤ s.hub.ceMax.toNat ∧ (s.col 1).badRows.any (fun e => e.1 == 67 && e.2.1 == 3) = false ∧
       foundIn s 1 (badBlock [(5, 0x80)]) = .fixed 5 (storedWord s 1 (badBlock []).addr) ∧
       foundIn s 1 (badBlock [(5, 0x80), (60, 1)]) = .bad ∧
       (usedFrames s).contains ((badBlock []).addr / pageSize) = false) ∧
    (colAt { badRows := [(67, 3, 0)] }).cols.any (fun e => e.2.badRows.any (fun e => e.1 == 67 && e.2.1 == 3)) = true ∧
    (let s := { colAt { refreshFrom := [(0, 0x2000000001)], scrubFrom := [(0, 0x2000000001)] } with doms := [] }
     s.wf = true ∧
       (chanClock s 1 0).1 < nextPos (chanClock s 1 0).2 0 62400 (Tab.get 0 (s.col 1).refreshFrom 0).toNat ∧
       (chanClock s 1 0).1 < nextPos (chanClock s 1 0).2 0 10240 (Tab.get 0 (s.col 1).scrubFrom 0).toNat) ∧
    (frozenCol.wf = true ∧ chanPart frozenCol 1 0 = some 1 ∧ frozen frozenCol 1 = true ∧ (frozenCol.dom 1).jump = none ∧
      62400 ≤ (frozenCol.tim.hall - Tab.get 0 (frozenCol.col 1).lastRefresh 0).toNat) ∧
    (let s := inFlight (due .none [])
     s.wf = true ∧ (usedFrames s).contains (0x1000000 / pageSize) = true ∧ s.hub.deadboltPending = false ∧
       foundIn s 1 (badBlock [(0, 1), (1, 2)]) = .bad) ∧
    ∀ m, ((inFlight (due .none [])).part m).snap.state ≠ .draining := by
  have h : ∀ e ∈ (inFlight (due .none [])).parts, e.2.snap.state ≠ .draining := by decide +kernel
  refine ⟨?_, ?_, ?_, ?_, ?_, ?_, no_drain h⟩
  all_goals and_intros <;> decide +kernel

def segObj : Obj := { obj with
  own := [0], segs := [{ symbol := 0, flags := 3, pclass := 4, homes := 9, near := 0, size := 0x400000, grant := 0, peer := 0, exp := 0 }] }
def page (h : Home) (f : Nat) : Page := { home := h, frame := f, ward := 1, cow := false, sealed := false }
def kept (f : Part → Part) : State := { ready with
  parts := [(1, f { part with obj := some segObj, run := { part.run with pages := [(0, page .loc 8), (1, page .loc 9)] } })] }
def move : MoveRec := { own := 0, seg := 0, home := .neigh, frames := [20, 21], clean := [] }
/-- A column whose channel 3 is being copied to the spare channel 64. -/
def sparing : State := colAt { chCopy := [{ ch := 3, spare := 64, clean := [7] }] }
def copy : RecCopy := { own := 0, desc := [1], payload := List.replicate 256 5, msg := none, op := none }
def drains (addr : Nat) (p : Part) : Part := { p with snap := { p.snap with
  state := .draining, daddr := BitVec.ofNat 64 addr, reading := [(0, 0, 0, false), (1, 0, 1, false)], ranks := [⟨0, [], 0, 0, [], []⟩] } }

theorem witness_KeywayWorkIsDone :
    ((sparing.wf = true ∧ (sparing.col 1).chCopy = [{ ch := 3, spare := 64, clean := [7] }] ∧
      (sparing.col 1).position 3 = some 3 ∧ 7 < chanPages sparing ∧ 8 < chanPages sparing) ∧
      ∀ m, (sparing.part m).run.chDirty = []) ∧
    (let s := kept (fun p => { p with run := { p.run with moves := [move] } })
     (∀ c, (s.col c).chCopy = []) ∧ move.seg < 4096 ∧ s.wf = true ∧ (s.part 1).obj = some segObj ∧ (s.part 1).run.moves = [move] ∧ move.frames[1]? = some 21 ∧
       (s.part 1).page 0 1 = some (page .loc 9) ∧ move.clean.contains 1 = false ∧
       place s (9 * pageSize) = .dram (9 * pageSize) ∧ place s (21 * pageSize) = .dram (21 * pageSize)) ∧
    (let s := kept id
     s.wf = true ∧ serving s = true ∧ fnThere s .pf = true ∧ segObj.segs[0]?.isSome = true ∧
       segObj.own.length = 1 ∧ bit (3 : BitVec 8) 1 = true ∧ (s.part 1).run.moves = [] ∧
       homeNow s 1 0 segObj 0 = some (.loc, 0) ∧ (hostRoom s 1 2).isSome = true ∧
       segObj.segs[0]?.map (homeOpts s 1 0 segObj) = some [{ cls := 1, home := .loc, col := 0 }, { cls := 4, home := .host, col := 0 }] ∧
       (((lcolQuarters (s.part 1) 0 0).head?).map (· / 4)).getD 0 = 0) ∧
    (let s := { ready with parts := [(2, { kwy := { winEn := true, winSize := 4, winBase := 6 } })] }
     s.wf = true ∧ Claims.Serves s .pf 0x300100 ∧ (s.part 1).load.state = .empty ∧
       ¬ (fld (0x80000406 - 1 : Word) 10 11 = 0 ∨ 1024 < fld (0x80000405 : Word) 0 10 + fld (0x80000405 : Word) 10 11 ∨
         winOverlap s 1 5 1 = true) ∧ winOverlap s 1 5 2 = true ∧ (0xFFFFF000 : Word).toNat % 4096 = 0) ∧
    (Claims.Serves (kept id) .pf 0x300100 ∧ ((kept id).part 1).load.state ≠ .empty) ∧
    (let s := kept (drains (hostBase + 3 * 0x40000000))
     s.wf = true ∧ (s.part 1).obj = some segObj ∧ (s.part 1).snap.state = .draining ∧
       (s.part 1).snap.reading = [(0, 0, 0, false), (1, 0, 1, false)] ∧ (s.part 1).snap.marked = [] ∧ (s.part 1).snap.pages = [] ∧
       Claims.NoneWaits s ∧ imageLost s 1 0 (pageOff segObj 0) pageSize = false ∧ (s.part 1).snap.dest = false) ∧
    (let s := kept (fun p => { p with recd := { p.recd with waiting := [copy], log2 := 10, dataSize := 1, logWr := 1023 } })
     s.wf = true ∧ (s.part 1).recd.waiting = [copy] ∧ copy.msg = none ∧ copy.op = none ∧ copy.units = 0 ∧
       ((s.part 1).recd.logWr - (s.part 1).recd.logRd).toNat < 2 ^ (s.part 1).recd.log2.toNat ∧
       ((s.part 1).recd.dataWr - (s.part 1).recd.dataRd).toNat + (1 + (copy.payload.length + 255) / 256) ≤
         (s.part 1).recd.dataSize.toNat * 4096) ∧
    (∀ e ∈ [(1 : Byte), 4],
      let s := { kept (fun p => { p with recd := { p.recd with replay := true, log2 := 10, logBase := 0x2000000, logWr := 4 } }) with
        store := { mem := [(0x2000014, 3), (0x2000015, e)] } }
      s.wf = true ∧ (s.part 1).recd.replay = true ∧ (s.part 1).load.state = .running ∧ (s.part 1).recd.logRd ≠ (s.part 1).recd.logWr ∧
        (let x := fetchAt s ((s.part 1).recd.logAddr (s.part 1).recd.logRd) 32
         leAt x 21 1 = e.toNat ∧ ownEntry x = true ∧ leAt x 20 1 = 3) ∧ (s.dom 1).active = true) := by
  unfold Claims.Serves
  refine ⟨⟨by decide +kernel, none_dirty (by decide +kernel)⟩, ⟨no_copies (by decide +kernel), ?_⟩, ?_, ?_, ?_,
    ⟨by decide +kernel, by decide +kernel, by decide +kernel, by decide +kernel, by decide +kernel, by decide +kernel,
      none_waits (by decide +kernel) (by decide +kernel), by decide +kernel, by decide +kernel⟩, ?_⟩
  all_goals and_intros <;> decide +kernel

/-! ### Links and messages -/

def l0 : LinkId := ⟨0, 0⟩
def lk (r : LinkReg) : State := { ready with links := [(0, r), (21, up)], tim := { ready.tim with hall := 0x10000 } }
def waitingMsg (c : Nat) (bytes : List Byte) (sent : Nat) : TxMsg :=
  { cls := c, part := 1, ts := 0, route := 0x21, bytes := bytes, sent := sent, transit := false, hops := 1, alt := none }
def txFlit (c pos : Nat) : TxFlit :=
  { pos := BitVec.ofNat 16 pos, cls := c, env := BitVec.ofNat 64 (c * 2 ^ 41 + 2 ^ 37), payload := List.replicate 256 1 }
def queued (c left : Nat) (bytes : List Byte) : LinkReg :=
  { up with wrrTurn := c, txq := [waitingMsg c bytes 0], credit1 := left, credit2 := left, credit3 := left }
def again : LinkReg := { up with resend := [txFlit 4 3], buf := [txFlit 4 3] }

theorem witness_FlitsLeaveAtBoundaries :
    (let s := lk { up with txFlit := 0x10000 / 40 + 1 }
     s.wf = true ∧ l0.wf = true ∧ s.tim.hall.toNat / 40 < (s.link l0).txFlit) ∧
    (let s := lk { up with txFlit := 0x10000 / 40 }
     s.wf = true ∧ (s.link l0).state = 2 ∧ (s.link l0).txFlit ≤ s.tim.hall.toNat / 40 ∧ (s.link l0).txq = [] ∧
     (s.link l0).resend = []) ∧
    (∀ c ∈ [1, 3], ∀ left ∈ [1, 256], let s := lk (queued c left (List.replicate 256 7)); let r := s.link l0
      s.wf = true ∧ r.txq = [waitingMsg c (List.replicate 256 7) 0] ∧ r.resend = [] ∧ r.unacked = [] ∧ r.credit c ≠ 0 ∧ r.buf.length < 1024 ∧
      r.wrrTurn = c ∧ r.wrrCount < r.weight c) ∧
    (let s := lk again; let r := s.link l0
     s.wf = true ∧ r.state = 2 ∧ r.txFlit ≤ s.tim.hall.toNat / 40 ∧ r.txq = [] ∧ r.resend = [txFlit 4 3] ∧ r.buf.length < 1024 ∧ (txFlit 4 3).cls = 4 ∧
     txFlit 4 3 ∈ r.buf) ∧
    (let s := lk { up with ackAt := 0x10000 / 40, lastTime := 0x10000 - 16000 }
     s.wf = true ∧ (s.link l0).ackAt ≤ s.tim.hall.toNat / 40 ∧ 16000 ≤ (s.tim.hall - (s.link l0).lastTime).toNat) := by
  and_intros <;> decide +kernel

/-- A flit whose envelope names class `vc`, and says by `re` that it was sent before; `errs` symbols of its code word are wrong. -/
def flit (vc re : Nat) (p : List Byte) (errs : Nat) : Flit :=
  let e := vc * 2 ^ 41 + re * 2 ^ 40 + 2 ^ 37
  { env := BitVec.ofNat 64 (e + crc24 p (fld (BitVec.ofNat 64 e) 24 40) % 2 ^ 24), payload := p, symErrs := errs }
def write0 : Msg := {
  dstDev := 5, srcDev := 9, dstPart := 1, srcPart := 3, dstOwn := 0, srcOwn := 0, kind := .write, epoch := 0,
  tag := 4, seq := 6, addr := 0x100, bytes := 100, arg := 0x10, payload := List.replicate 100 9 }
def pay : List Byte := encodeMsg write0 ++ List.replicate (256 - (encodeMsg write0).length) 0
def goodFlit (f : Flit) : Prop :=
  f.symErrs ≤ 15 ∧ fld f.env 0 24 = crc24 f.payload (fld f.env 24 40) ∧ fld f.env 41 3 ≠ 5 ∧ fld f.env 41 3 ≠ 7

theorem crcBit_lt {k poly reg : Nat} {b : Bool} (h : poly < 2 ^ k) : crcBit k poly reg b < 2 ^ k := by
  have hs : reg * 2 % 2 ^ k < 2 ^ k := Nat.mod_lt _ (Nat.two_pow_pos k)
  unfold crcBit
  dsimp only
  split
  · exact Nat.xor_lt_two_pow hs h
  · exact hs

theorem crcBits_lt {k poly : Nat} (h : poly < 2 ^ k) : ∀ (n reg v : Nat), reg < 2 ^ k → crcBits k poly reg n v < 2 ^ k
  | 0, _, _, hr => hr
  | n + 1, _, v, _ => crcBits_lt h n _ v (crcBit_lt h)

theorem crc24_lt (p : List Byte) (v : Nat) : crc24 p v < 2 ^ 24 :=
  crcBits_lt (n := 39) (by decide) _ _ (crcBit_lt (by decide))

theorem flit_env (vc re : Nat) (p : List Byte) (errs : Nat) (h : vc < 8) (hr : re < 2) :
    ∃ c, c < 2 ^ 24 ∧ (flit vc re p errs).env.toNat = vc * 2 ^ 41 + re * 2 ^ 40 + 2 ^ 37 + c ∧
      crc24 p (vc * 2 ^ 17 + re * 2 ^ 16 + 2 ^ 13) = c := by
  have hf : fld (BitVec.ofNat 64 (vc * 2 ^ 41 + re * 2 ^ 40 + 2 ^ 37)) 24 40 = vc * 2 ^ 17 + re * 2 ^ 16 + 2 ^ 13 := by
    simp only [fld, BitVec.toNat_ofNat, Nat.shiftRight_eq_div_pow]
    omega
  have hc := crc24_lt p (vc * 2 ^ 17 + re * 2 ^ 16 + 2 ^ 13)
  refine ⟨_, hc, ?_, rfl⟩
  simp only [flit, hf, BitVec.toNat_ofNat]
  omega

theorem flit_class (vc re : Nat) (p : List Byte) (errs : Nat) (h : vc < 8) (hr : re < 2) :
    fld (flit vc re p errs).env 41 3 = vc ∧ bit (flit vc re p errs).env 40 = (re == 1) ∧
      fld (flit vc re p errs).env 24 12 = 0 := by
  obtain ⟨c, hc, he, -⟩ := flit_env vc re p errs h hr
  have hb : (flit vc re p errs).env.toNat / 2 ^ 40 % 2 = re := by rw [he]; omega
  refine ⟨?_, ?_, ?_⟩
  · simp only [fld, he, Nat.shiftRight_eq_div_pow]; omega
  · simp only [bit, BitVec.getLsbD, Nat.testBit, Nat.shiftRight_eq_div_pow, Nat.one_and_eq_mod_two, hb]
    rcases (by omega : re = 0 ∨ re = 1) with e | e <;> subst e <;> rfl
  · simp only [fld, he, Nat.shiftRight_eq_div_pow]; omega

theorem flit_good (vc re : Nat) (p : List Byte) (h : vc < 5 ∨ vc = 6) (hr : re < 2) : goodFlit (flit vc re p 15) := by
  obtain ⟨c, hc, he, hk⟩ := flit_env vc re p 15 (by omega) hr
  have h2 := (flit_class vc re p 15 (by omega) hr).1
  have h24 : fld (flit vc re p 15).env 24 40 = vc * 2 ^ 17 + re * 2 ^ 16 + 2 ^ 13 := by
    simp only [fld, he, Nat.shiftRight_eq_div_pow]
    omega
  refine ⟨Nat.le_refl 15, ?_, by omega, by omega⟩
  show fld (flit vc re p 15).env 0 24 = crc24 p _
  rw [h24, hk]
  simp only [fld, he, Nat.shiftRight_eq_div_pow]
  omega

theorem flit_bad (vc re : Nat) (p : List Byte) : ¬ goodFlit (flit vc re p 16) := fun h => Nat.not_succ_le_self 15 h.1

theorem witness_FlitsArriveInOrder :
    ((lk up).wf = true ∧ l0.wf = true ∧ ((lk up).link l0).state = 2 ∧ ((lk up).link l0).missing = [] ∧
      ((lk up).link l0).partials = []) ∧
    (∀ vc ∈ [0, 4], let f := flit vc 0 pay 16
      ¬ goodFlit f ∧ fld f.env 41 3 = vc ∧ bit f.env 40 = false) ∧
    (goodFlit (flit 6 0 pay 15) ∧ fld (flit 6 0 pay 15).env 41 3 = 6) ∧
    (let s := lk { up with missing := [(4, 4)] }; let f := flit 4 0 pay 15
     s.wf = true ∧ (4, 4) ∈ (s.link l0).missing ∧ goodFlit f ∧ fld f.env 41 3 = 4 ∧ bit f.env 40 = false ∧
     fld f.env 24 12 = 0) ∧
    (let f := flit 1 0 pay 15
     goodFlit f ∧ fld f.env 41 3 = 1 ∧ bit f.env 40 = false ∧ fld f.env 24 12 = 0 ∧
     pay.length = 256 ∧ leAt pay 7 1 % 64 = 0 ∧ decodeMsg pay = some write0) ∧
    (let s := lk { up with missing := [(1, 4)] }; let f := flit 1 1 pay 15
     s.wf = true ∧ (s.link l0).missing = [(1, 4)] ∧ (s.link l0).rxHeld = [] ∧ goodFlit f ∧ fld f.env 41 3 = 1 ∧
     bit f.env 40 = true ∧ fld f.env 24 12 = 0) ∧
    (let s := lk { up with missing := [(1, 4), (1, 7)] }; let f := flit 1 1 pay 16
     s.wf = true ∧ (s.link l0).missing = [(1, 4), (1, 7)] ∧ ¬ goodFlit f ∧ fld f.env 41 3 = 1 ∧ bit f.env 40 = true ∧
     fld f.env 24 12 = 0) ∧
    (((lk up).link l0).takesCopy (.ack 4 [1, 2]) { no := .second, ok := false } = false) ∧
    (let s := lk { up with buf := [txFlit 4 3, txFlit 1 0x8004] }; let r := s.link l0
     s.wf = true ∧ r.buf.find? (fun y => y.pos == 3) = some (txFlit 4 3) ∧ r.resend.contains (txFlit 4 3) = false ∧
     (txFlit 4 3).cls ≠ 0) := by
  refine ⟨?_, ?_, ⟨flit_good 6 0 _ (by decide) (by decide), (flit_class 6 0 _ _ (by decide) (by decide)).1⟩,
    ⟨?_, ?_, flit_good 4 0 _ (by decide) (by decide), flit_class 4 0 _ _ (by decide) (by decide)⟩,
    ⟨flit_good 1 0 _ (by decide) (by decide), (flit_class 1 0 _ _ (by decide) (by decide)).1,
      (flit_class 1 0 _ _ (by decide) (by decide)).2.1, (flit_class 1 0 _ _ (by decide) (by decide)).2.2, ?_⟩,
    ⟨?_, ?_, ?_, flit_good 1 1 _ (by decide) (by decide), flit_class 1 1 _ _ (by decide) (by decide)⟩,
    ⟨?_, ?_, flit_bad 1 1 _, flit_class 1 1 _ _ (by decide) (by decide)⟩, ?_, ?_⟩
  · and_intros <;> decide +kernel
  · intro vc hvc
    have h : vc < 8 := by
      have : vc = 0 ∨ vc = 4 := by simpa using hvc
      omega
    exact ⟨flit_bad _ _ _, (flit_class vc 0 pay 16 h (by decide)).1, (flit_class vc 0 pay 16 h (by decide)).2.1⟩
  all_goals and_intros <;> decide +kernel

def adapted (r : LinkReg) : State := { lk r with dies := [(0, { calDone := true })] }

theorem witness_LinksTrainAndFail :
    ((lk up).wf = true ∧ l0.wf = true ∧ ((lk up).link l0).state = 2 ∧ ((lk up).link l0).spareIn = false ∧
      ((lk up).link l0).spareBad = false) ∧
    (let s := lk { up with spareIn := true, spareFor := 3, rxLast := 0x10000 - 16000 }; let r := s.link l0
     s.wf = true ∧ r.spareIn = true ∧ r.spareFor.toNat ≠ 0 ∧ r.spareFor.toNat ≠ 4 ∧ r.state = 2 ∧ r.txq = [] ∧ r.unacked = [] ∧
     16000 ≤ (s.tim.hall - r.rxLast).toNat) ∧
    (Claims.Serves (lk up) .pf 0x4001008 ∧ Claims.Serves (lk up) .mgmt 0x400100C ∧
      (lk up).fuses.linkPresent.getLsbD l0.die = true ∧ bit (0x80000000 : Word) 31 = true ∧ bit (0 : Word) 31 = false) ∧
    (¬ (fld (0x010101 : Word) 0 8 = 0 ∨ fld (0x010101 : Word) 8 8 = 0 ∨ fld (0x010101 : Word) 16 8 = 0) ∧
      fld (0xFFFF : Word) 16 8 = 0) ∧
    (∀ st ∈ [1, 3], let s := adapted { state := st }
     s.wf = true ∧ s.hub.stopped = false ∧ (s.die l0.die).calDone = true ∧ (s.link l0).disable = false ∧
     (s.link l0).state = st) ∧
    (let s := ready
     s.wf = true ∧ s.fuses.linkPresent.getLsbD 0 = true ∧ s.fuses.linkPresent.getLsbD 3 = true ∧ (s.die 0).calDone = false ∧
     (s.die 3).calDone = false ∧ (s.link ⟨0, 0⟩).state ≠ 3 ∧ (s.link ⟨3, 0⟩).state ≠ 3) := by
  unfold Claims.Serves
  and_intros <;> decide +kernel

/-- Partition 1 exports its segment, and device 9 answers it over link 0. -/
def openObj : Obj := { obj with
  exps := [⟨0, 0, 0x100000, 7⟩]
  segs := obj.segs.map (fun g => { g with exp := 1 })
  origins := [⟨2, 0, 0, 0x21, 1, 3, 0x43⟩] }
def msg (k : MsgKind) (f : Msg → Msg) : Msg := f {
  dstDev := 0, srcDev := 9, dstPart := 1, srcPart := 3, dstOwn := 0, srcOwn := 1,
  kind := k, epoch := 0, tag := 4, seq := 6, addr := 0x100, bytes := 100, arg := 0x10, payload := List.replicate 100 9 }
def peer9 : LinkReg := { state := 2, peerValid := true, pdev := 9, dataOk := true }
/-- The message waits on link 0 in class `cls`. -/
def rx (cls : Nat) (m : Msg) (f : Part → Part) : State :=
  at' (fun s => { s with
    hub := { ready.hub with devno := 0 }
    links := [(0, { peer9 with rxMsgs := [(cls, m)] })]
    store := { s.store with latch := [(6, 7)] } }) (fun p => f { p with obj := some openObj }) id (sid .mov) wNop
def req : Req := { ident := 0x77, sid := sid .mov, op := 1, own := 0, addr := 0x200 }
def wanting : Op := { op (sid .mov) wNop [] with want := 300 }
def asks (p : Part) : Part := let p := flying wanting p; { p with run := { p.run with reqs := [req] } }

def waits' (cls n : Nat) (m : Msg) (f : Part → Part) : Bool :=
  let s := rx cls m f
  s.wf && decide (∀ e ∈ s.links, e.2.parked = [] ∧ e.2.blocked = []) && decide (∀ e ∈ s.parts, e.2.run.localWait = []) &&
  decide ((s.link l0).rxMsgs = [(cls, m)]) && decide (m.dstPart.toNat = n) && decide (cls ≤ 4) &&
  !seqSeen s.hub m.srcDev.toNat cls m.seq.toNat

theorem waits_of {cls n : Nat} {m : Msg} {f : Part → Part} (h : waits' cls n m f = true) : Claims.Waits (rx cls m f) l0 cls n m := by
  unfold waits' at h
  simp only [Bool.and_eq_true, decide_eq_true_eq, Bool.not_eq_true'] at h
  obtain ⟨⟨⟨⟨⟨⟨h1, h6⟩, h7⟩, h2⟩, h3⟩, h4⟩, h5⟩ := h
  exact ⟨h1, by decide, h2, h3, h4, h5, none_waits h6 h7⟩

def landsB (cls n : Nat) (m : Msg) (f : Part → Part) : Bool :=
  let s := rx cls m f
  decide ((s.part n).obj = some openObj) && decide (judge s n m = .deliver) && accessOk openObj m && !(s.part n).recd.fp &&
  !(s.part n).recd.replay && decide ((s.part n).recd.waiting = []) && !s.hub.debugMode

theorem lands_of {cls n : Nat} {m : Msg} {f : Part → Part} (h : landsB cls n m f = true) :
    Claims.MayLand (rx cls m f) n m openObj := by
  unfold landsB at h
  simp only [Bool.and_eq_true, decide_eq_true_eq, Bool.not_eq_true'] at h
  obtain ⟨⟨⟨⟨⟨⟨h1, h2⟩, h3⟩, h4⟩, h5⟩, h6⟩, h7⟩ := h
  exact ⟨h1, h2, h3, h4, h5, h6, h7⟩

theorem plain_of {s : State} {n own a x len : Nat} (h : ((List.range len).all (fun i =>
      decide ((s.part n).reach own (a + i) = .loc (x + i)) && decide (place s (x + i) = .dram (x + i))) &&
      decide ((s.part n).run.moves = []) && decide ((s.part n).snap.state ≠ .draining)) = true)
    (hc : ∀ e ∈ s.cols, e.2.chCopy = []) : Claims.Plain s n own a x len := by
  simp only [Bool.and_eq_true, List.all_eq_true, List.mem_range, decide_eq_true_eq] at h
  exact ⟨h.1.1, h.1.2, h.2, no_copies hc⟩

/-- A message that waits and may land, and of which `P` holds. -/
structure Lands (cls : Nat) (m : Msg) (f : Part → Part) (P : State → Prop) : Prop where
  waits : Claims.Waits (rx cls m f) l0 cls 1 m
  lands : Claims.MayLand (rx cls m f) 1 m openObj
  holds : P (rx cls m f)

theorem lands {cls : Nat} {m : Msg} {f : Part → Part} {P : State → Prop} (w : waits' cls 1 m f = true) (h : landsB cls 1 m f = true)
    (p : P (rx cls m f)) : Lands cls m f P := ⟨waits_of w, lands_of h, p⟩

def mWrite : Msg := msg .write id
def mReadReply : Msg := msg .readReply (fun m => { m with arg := 0x770000 })
def mAtomicReply : Msg := msg .atomicReply (fun m => { m with arg := 0x770000, payload := [1, 2, 3, 4, 5, 6, 7, 8] })
def mClx : Msg := msg .clx (fun m => { m with arg := 0x71000000 })

theorem witness_BytesLand :
    Lands 1 mWrite id (fun s => mWrite.kind = .write ∧ (s.part 1).run.held = [] ∧ Claims.Plain s 1 0 0x100 0x1000100 100 ∧
      ownOf openObj s.hub.devno.toNat 1 mWrite.dstOwn.toNat = 0) ∧
    Lands 2 mReadReply asks (fun s => mReadReply.kind = .readReply ∧ (s.part 1).run.req 0x77 = some req ∧ req.op ≠ keywayOp ∧
      req.op ≠ receiptOp ∧ (s.part 1).run.outbox = [] ∧ wanting ∈ (s.part 1).run.ops ∧
      (∀ y ∈ (s.part 1).run.ops, y.id = req.op → y = wanting) ∧ (∀ y ∈ (s.part 1).run.ops, y.coll = none) ∧ fld mReadReply.arg 16 16 = 0x77) ∧
    Lands 4 mAtomicReply asks (fun s => mAtomicReply.kind = .atomicReply ∧ (s.part 1).run.req 0x77 = some req ∧
      fld mAtomicReply.arg 16 16 = 0x77) ∧
    Lands 1 mClx id (fun s => mClx.kind = .clx ∧ fld mClx.arg 24 8 ≠ 0x73 ∧ (s.part 1).run.ops = [] ∧
      (s.part 1).run.clxWait = [] ∧ (firstOut (s.part 1) 0 plainEngine [(0x100, 100)]).isNone = true ∧
      Claims.Plain s 1 0 0x100 0x1000100 100) := by
  refine ⟨lands (by decide +kernel) (by decide +kernel) ⟨rfl, by decide +kernel, plain_of (by decide +kernel) (by decide +kernel),
      by decide +kernel⟩, lands (by decide +kernel) (by decide +kernel) ?_, lands (by decide +kernel) (by decide +kernel) ?_,
    lands (by decide +kernel) (by decide +kernel) ⟨rfl, by decide +kernel, by decide +kernel, by decide +kernel, by decide +kernel,
      plain_of (by decide +kernel) (by decide +kernel)⟩⟩
  all_goals decide +kernel

/-- A message that only has to wait: for the binding epoch of its partition, `e`, and the numbers that link has accepted, `seen`. -/
def early (e : BitVec 32) (seen : List (Nat × Nat × Nat)) : State :=
  let s := rx 1 mWrite (fun p => { p with run := { p.run with bindingEpoch := e } })
  { s with hub := { s.hub with rxSeq := seen } }

def lag (e : BitVec 32) : Nat := (((early e []).part 1).run.bindingEpoch - mWrite.epoch).toNat

theorem early_ok (e : BitVec 32) (seen : List (Nat × Nat × Nat)) :
    ((early e seen).link l0).rxMsgs = [(1, mWrite)] ∧ ((early e seen).part 1).obj = some openObj := ⟨rfl, rfl⟩

theorem witness_MessagesThatDoNotLand :
    (l0.wf = true ∧ mWrite.dstPart.toNat = 1 ∧ mWrite.kind ≠ .mgmt) ∧
    (∀ e seen, ((early e seen).link l0).rxMsgs = [(1, mWrite)] ∧ ((early e seen).part 1).obj = some openObj) ∧
    (∀ e seen, Claims.NoneWaits (early e seen)) ∧
    ((early 0 [(9, 1, 6)]).wf = true ∧ seqSeen (early 0 [(9, 1, 6)]).hub mWrite.srcDev.toNat 1 mWrite.seq.toNat = true) ∧
    ((early 1 []).wf = true ∧ lag 1 ≠ 0 ∧ lag 1 < 2 ^ 31 ∧
      seqSeen (early 1 []).hub mWrite.srcDev.toNat 1 mWrite.seq.toNat = false) ∧
    ((early 0x7FFFFFFF []).wf = true ∧ lag 0x7FFFFFFF < 2 ^ 31) ∧
    ((early 0x80000000 []).wf = true ∧ 2 ^ 31 ≤ lag 0x80000000) ∧ 2 ^ 31 ≤ lag 0xFFFFFFFF := by
  refine ⟨by decide +kernel, early_ok, fun e seen => none_waits (fun x hx => ?_) (fun x hx => ?_), ?_⟩
  · rw [show (early e seen).links = [(0, { peer9 with rxMsgs := [(1, mWrite)] })] from rfl, List.mem_singleton] at hx
    subst hx
    exact ⟨rfl, rfl⟩
  · obtain ⟨p, h, hp⟩ : ∃ p, (early e seen).parts = [(1, p)] ∧ p.run.localWait = [] := ⟨_, rfl, rfl⟩
    rw [h, List.mem_singleton] at hx
    subst hx
    exact hp
  and_intros <;> decide +kernel

def mReadReq : Msg := msg .readReq (fun m => { m with arg := 64, payload := [] })
def mAtomic (arg : Nat) : Msg := msg .atomic (fun m => { m with arg := BitVec.ofNat 32 arg, payload := List.replicate 16 3 })
def mSignal (bytes : Nat) : Msg := msg .signal (fun m => { m with arg := 3, bytes := BitVec.ofNat 32 bytes, addr := 6 })
def mAck : Msg := msg .ack (fun m => { m with addr := 6 })
def mRefusal : Msg := msg .refusal (fun m => { m with arg := 0x1000006 })
def mManage : Msg := msg .mgmt (fun m => { m with arg := 0, addr := 0xF0000000080, payload := [1, 0, 0, 0] })
def sentRec : Sent := { cls := 1, kind := .write, seq := 6, dst := 9, sid := sid .mov, qpos := 4, word := wNop }
def landed (n : Nat) (p : Part) : Part := { p with run := { p.run with tags := [⟨9, 4, n, 0⟩] } }
def way9 : Way := { link := l0, route := 0x21, alt := some (1, 3, 0x43) }

theorem witness_RequestsAndSignalsLand :
    Lands 1 mReadReq id (fun s => mReadReq.kind = .readReq ∧ mReadReq.srcDev ≠ s.hub.devno ∧
      wayBack s openObj 9 3 = some way9 ∧ linkOut (s.link l0) = false) ∧
    (∀ arg ∈ [2, 0x201], Lands 1 (mAtomic arg) id (fun s => (mAtomic arg).kind = .atomic ∧ (mAtomic arg).srcDev ≠ s.hub.devno ∧
      wayBack s openObj 9 3 = some way9 ∧ linkOut (s.link l0) = false ∧ Claims.Plain s 1 0 0x100 0x1000100 8)) ∧
    (∀ n ∈ [0, 100], Lands 1 (mSignal n) (landed 100) (fun s => (s.part 1).run.held = [] ∧ (s.part 1).latchOf 0 6 = some 6 ∧
      fld (mSignal n).addr 0 19 = 6 ∧ bit (mSignal n).arg 3 = false ∧ (mSignal n).bytes.toNat ≤ 100 ∧ (s.part 1).run.pairs = [] ∧
      (s.latch 6).toNat + 4 < 2 ^ 64 ∧ (s.part 1).run.tag 9 4 = ⟨9, 4, 100, 0⟩)) ∧
    Lands 1 (mSignal 101) (landed 100) (fun s => ((s.part 1).run.tag 9 4).landed < ((s.part 1).run.tag 9 4).consumed + 101) ∧
    Lands 1 mAck id (fun s => mAck.kind = .ack ∧ (s.part 1).hasLatch (fld mAck.addr 0 19) = true ∧ (s.part 1).run.pairs = [] ∧
      (s.latch (fld mAck.addr 0 19)).toNat + 1 < 2 ^ 64) ∧
    Lands 1 mRefusal (fun p => { p with run := { p.run with sent := [sentRec] } }) (fun s => mRefusal.kind = .refusal ∧
      (s.part 1).run.sent.find? (fun y => kindCode y.kind == fld mRefusal.arg 24 8 && y.cls == 1 &&
        y.seq == BitVec.ofNat 16 (fld mRefusal.arg 0 16) && y.dst == mRefusal.srcDev) = some sentRec ∧ sentRec.sid.part = 1 ∧ sentRec.sid ≠ hardware 1 ∧
      (s.part 1).pfault.valid = false) ∧
    Claims.Waits (rx 4 mManage id) l0 4 1 mManage ∧ (mManage.kind = .mgmt ∧ mManage.arg = 0) ∧
    place (rx 4 mManage id) (mManage.addr.toNat % 2 ^ 48) = .reg 0x80 ∧ mManage.payload.length = 4 := by
  have h : ∀ arg ∈ [2, 0x201], waits' 1 1 (mAtomic arg) id = true ∧ landsB 1 1 (mAtomic arg) id = true := by decide +kernel
  have at8 : ∀ arg ∈ [2, 0x201], (mAtomic arg).kind = .atomic ∧ (mAtomic arg).srcDev ≠ (rx 1 (mAtomic arg) id).hub.devno ∧
      wayBack (rx 1 (mAtomic arg) id) openObj 9 3 = some way9 ∧ linkOut ((rx 1 (mAtomic arg) id).link l0) = false ∧
      Claims.Plain (rx 1 (mAtomic arg) id) 1 0 0x100 0x1000100 8 := by
    intro arg ha
    have a : ∀ arg ∈ [2, 0x201], (mAtomic arg).kind = .atomic ∧ (mAtomic arg).srcDev ≠ (rx 1 (mAtomic arg) id).hub.devno ∧
        wayBack (rx 1 (mAtomic arg) id) openObj 9 3 = some way9 ∧ linkOut ((rx 1 (mAtomic arg) id).link l0) = false := by
      decide +kernel
    obtain ⟨a1, a2, a3, a4⟩ := a arg ha
    refine ⟨a1, a2, a3, a4, plain_of ?_ ?_⟩ <;> (revert arg; decide +kernel)
  have hs : ∀ n ∈ [0, 100, 101], waits' 1 1 (mSignal n) (landed 100) = true ∧ landsB 1 1 (mSignal n) (landed 100) = true := by
    decide +kernel
  refine ⟨?_, fun arg ha => lands (h arg ha).1 (h arg ha).2 (at8 arg ha), fun n hn => lands (hs n ?_).1 (hs n ?_).2 ?_, ?_, ?_, ?_,
    waits_of (by decide +kernel), by decide +kernel, by decide +kernel, by decide +kernel⟩
  · exact lands (by decide +kernel) (by decide +kernel) (by decide +kernel)
  · revert n; decide +kernel
  · revert n; decide +kernel
  · revert n; decide +kernel
  all_goals exact lands (by decide +kernel) (by decide +kernel) (by decide +kernel)
/-! ### The register map -/

/-- Partition 1 made by `f`, partition 0 empty. -/
def withPart (f : Part → Part) : State := { ready with parts := [(1, f {})] }
/-- Partition 1 enabled with `cap`, and another enabled one. -/
def enabled (cap : BitVec 16) : State := { withPart (fun p => { p with cfg := { p.cfg with en := true, qmask := 0xF0, cap := cap } }) with
  parts := [(1, { cfg := { en := true, qmask := 0xF0, cap := cap } }), (2, { cfg := { en := true, qmask := 1, cap := 2600 } })]
  cols := [(0, { qfail := 1 }), (1, { failed := true })] }
def emptyCfg : State := withPart (fun p => { p with cfg := { p.cfg with qmask := 0xF0, cfgErr := true } })
def running1 : State := withPart (fun p => { p with load := { p.load with state := .running } })
def others (s : State) (n : Nat) : List Nat := (List.range 32).filter (fun m => m != n && (s.part m).cfg.en)
def total (s : State) (n cap : Nat) : Nat := ((others s n).map (fun m => (s.part m).cfg.cap.toNat)).sum + cap

theorem witness_SettingsAreGuarded :
    (ready.wf = true ∧ Claims.Serves ready .pf 0x80 ∧ Claims.Serves ready .pf 0x3000 ∧ Claims.Serves ready .pf 0xA000 ∧
      Claims.Serves ready .pf 0x1010000 ∧ Claims.Serves ready .pf 0x64) ∧
    (ready.fuses.debugOff = false ∧ ∀ n < 32, (ready.part n).load.state = .empty) ∧
    (running1.wf = true ∧ running1.fuses.debugOff = false ∧ Claims.Serves running1 .pf 0x80 ∧
      ∃ n < 32, (running1.part n).load.state ≠ .empty) ∧
    (let s := { ready with fuses := { ready.fuses with debugOff := true } }
     s.wf = true ∧ Claims.Serves s .pf 0x80 ∧ s.fuses.debugOff = true ∧ bit (1 : Word) 0 = true) ∧
    (mayPart .pf 0 = true ∧ mayPart .pf 31 = true ∧ reaches ready .pf 0x8000 = true ∧ reaches running1 .pf 0x8000 = true) ∧
    (bit (0x800A0000 : Word) 31 = true ∧ bit (0x800A0000 : Word) 30 = false ∧ fld (0x800A0000 : Word) 16 5 = 10 ∧
      fld (0x801A0000 : Word) 16 5 = 26 ∧ bit (0xC00A0000 : Word) 30 = true ∧ fld (0x801B0000 : Word) 16 5 = 27) ∧
    (emptyCfg.wf = true ∧ (emptyCfg.part 1).load.state = .empty ∧ (emptyCfg.part 1).recd.fp = false ∧
      (emptyCfg.part 1).recd.replay = false ∧ (emptyCfg.part 1).cfg.en = false) ∧
    (let s := emptyCfg; let p := s.part 1
     (50 ≤ p.cfg.cap.toNat ∧ p.cfg.cap.toNat ≤ 3600) ∧ total s 1 p.cfg.cap.toNat ≤ 3600 ∧
     (∀ m ∈ others s 1, (s.part m).cfg.qmask &&& p.cfg.qmask = 0) ∧
     ∀ q < 32, ¬ ((s.col (q / 4)).failed = true ∨ (s.col (q / 4)).qfail.getLsbD (q % 4) = true)) ∧
    (let s := enabled 1000; let p := s.part 1
     s.wf = true ∧ p.load.state = .empty ∧ p.cfg.en = true ∧ total s 1 1000 = 3600 ∧ total s 1 1001 = 3601 ∧
     (∀ m ∈ others s 1, (s.part m).cfg.qmask &&& p.cfg.qmask = 0) ∧
     (∃ m ∈ others s 1, (s.part m).cfg.qmask &&& 1 ≠ 0) ∧
     (s.col 0).qfail.getLsbD 0 = true ∧ (s.col 1).failed = true) ∧
    (¬ (fld (0xC10 : Word) 0 2 = 3 ∨ 4 < fld (0xC10 : Word) 2 3 ∨ 96 < fld (0xC10 : Word) 5 7) ∧ fld (0xC10 : Word) 2 3 = 4 ∧
      fld (0xC10 : Word) 5 7 = 96 ∧ fld (0xC20 : Word) 5 7 = 97 ∧ fld (20 : Word) 2 3 = 5) := by
  unfold Claims.Serves
  and_intros <;> decide +kernel

/-- A queue whose counters are about to wrap. -/
def wrapping : Queue := { base := 0x300000, en := true, res := true, part := 1, log2 := 4, head := 0xFFFFFFFE, tail := 3, wait := 1 }
def belled (q : Queue) (vf : Bool) (k : Nat) : State := { ready with
  parts := [(1, { cfg := { vfown := vf, qmask := 1 }, bind := { queues := [(0, k), (7, 300)] } })]
  queues := [(k, q)] }
def bellOk (x : Queue) (tail : Word) : Prop := (tail - x.tail).toNat < 2 ^ 31 ∧ (tail - x.head).toNat ≤ 2 ^ x.log2.toNat

theorem witness_DoorbellsMoveTail :
    (let s := belled wrapping false 65535
     s.wf = true ∧ isPf .pf = true ∧ isPf .mgmt = true ∧ reaches s .pf 0x900010 = true ∧ (s.queue 65535).en = true ∧
     (s.part 1).cfg.vfown = false ∧ bellOk wrapping 0xE ∧ ¬ bellOk wrapping 0xF ∧ ¬ bellOk wrapping 2) ∧
    ((belled wrapping false 5).queue 65535).en = false ∧
    (let s := belled wrapping true 0
     s.wf = true ∧ (s.queue 0).en = true ∧ (s.part 1).cfg.vfown = true ∧ reaches s .pf 0x900010 = true ∧
     reaches s (.vf 1) 0x900010 = true ∧ bellQueue s 1 0 = some 0 ∧ (s.queue 0).part.toNat = 1 ∧ bellOk (s.queue 0) 3 ∧
     bellQueue s 1 65535 = none) := by
  unfold bellOk
  and_intros <;> decide +kernel

def unmask (f : Pcie → Pcie) : State := { ready with pcie := f ready.pcie }

theorem witness_RegisterMapIsOne :
    (ready.wf = true ∧ Claims.Serves ready .pf 0x400018 ∧ Claims.Serves ready .pf 0x90 ∧ Claims.Serves ready .pf 0x500800 ∧
      ready.hub.stopped = false ∧ ready.hub.ready = true ∧ Claims.Serves ready .mgmt 0) ∧
    (bit (0x80000011 : Word) 31 = true ∧ 16 < fld (0x80000011 : Word) 0 5 ∧ fld (0x80000010 : Word) 0 5 = 16) ∧
    (∀ b < 24, ∀ d < 4, b = 20 + d → ready.fuses.linkPresent.getLsbD d = true) ∧
    (reaches ready .pf 0x6000000 = true ∧ reaches ready (.vf 0) 0x6000000 = true ∧ isPf (.vf 0) = false) ∧
    (let s := unmask (fun p => { p with unmasked := [63], pendingBits := [62, 71] })
     s.wf = true ∧ fnIdx .pf * 64 + 63 ∈ s.pcie.unmasked ∧ fnIdx .pf * 64 + 62 ∈ s.pcie.pendingBits ∧
     fnIdx .pf * 64 + 62 ∉ s.pcie.unmasked ∧ fnIdx (.vf 0) * 64 + 7 ∈ s.pcie.pendingBits ∧
     fnIdx (.vf 0) * 64 + 7 ∉ s.pcie.unmasked ∧ fnIdx .pf * 64 ∉ s.pcie.pendingBits) := by
  unfold Claims.Serves
  and_intros <;> decide +kernel
/-! ### Power, start-up, resets and tests -/

theorem witness_PowerAndHeatHold :
    (ready.wf = true ∧ ready.hub.stopped = false ∧ ready.hub.pwrOk = true) ∧
    (let s := { ready with tim := { ready.tim with hall := 21000 }, doms := [(2, { lastPowerFrame := 2 })] }
     s.wf = true ∧ (s.dom 2).lastPowerFrame.toNat = s.tim.hall.toNat / 16000 + 1 ∧
     (s.dom 31).lastPowerFrame.toNat ≠ s.tim.hall.toNat / 16000 + 1) ∧
    (ready.tim.hall.toNat / 1600000000 ≠ ready.pmc.vpwrInt ∧
      (let s := { ready with pmc := { ready.pmc with vpwrInt := 85 } }
       s.wf = true ∧ s.tim.hall.toNat / 1600000000 = s.pmc.vpwrInt)) ∧ ready.flt.cperEn = false := by
  and_intros <;> decide +kernel

def struck (f : Hub → Hub) : State := { ready with hub := f ready.hub }

theorem witness_DeadboltContainsAndResets :
    (let s := struck (fun h => { h with stopped := true })
     s.wf = true ∧ s.hub.stopped = true) ∧
    (let s := struck (fun h => { h with deadboltPending := true, dbCause := 3 })
     s.wf = true ∧ s.hub.stopped = false ∧ s.hub.deadboltPending = true ∧ s.hub.dbCause ≠ 2 ∧ s.hub.dbCause ≠ 4) ∧
    (ready.wf = true ∧ ready.hub.stopped = false ∧ ready.hub.deadboltPending = false ∧
      (∀ n < 32, (ready.part n).snap.state ≠ .draining) ∧ (ready.dom 1).active = true ∧ (ready.dom 31).active = false) := by
  and_intros <;> decide +kernel

/-- A device in phase `k` of start-up. -/
def boots (k : Nat) (f : State → State) : State := f { State.reset with
  hub := { pwrOk := true, stopped := false, stage := BitVec.ofNat 8 k, healthSeq := 3 } }
def bootRuns (s : State) : Prop :=
  s.wf = true ∧ s.hub.pwrOk = true ∧ s.hub.stopped = false ∧ s.hub.bootFail = false ∧ s.hub.ready = false ∧ s.hub.stage ≠ 0 ∧
  ∃ c < 20, (s.col c).failed = false
def recBytes : List Byte := [0x43, 0x46, 0x47, 0x52, 1, 0, 7, 1, 3, 1] ++ List.replicate 46 9
/-- The configuration record with its check value. -/
def withRecord (s : State) : State := { s with store := { s.store with flash :=
  (((recBytes ++ leBytes 8 (crc64 recBytes).toNat).zipIdx.map (fun e => (0xF50000 + e.2, e.1))).filter
    (fun e => e.2 != flashDefault)) } }
def validRec (b : List Byte) : Prop :=
  b.take 4 = [0x43, 0x46, 0x47, 0x52] ∧ leAt b 4 2 = 1 ∧ leAt b 56 8 = (crc64 (b.take 56)).toNat

theorem boot_runs : ∀ k < 9, k ≠ 0 → bootRuns (boots k id) := by
  unfold bootRuns; decide +kernel

theorem boot_images : bootImage (boots 1 id) 1 = some (Config.deliveredDigest 1, false) ∧
    bootImage (boots 1 id) 2 = some (Config.deliveredDigest 2, false) := by
  constructor <;> rfl

theorem boot_no_image :
    bootImage (boots 1 (fun s => { s with store := { s.store with flash := [(0x10000, 5)] } })) 1 = none := by decide +kernel

theorem boot_record : validRec (flashRead (withRecord (boots 2 id)).store.flash 0xF50000 64) := by
  unfold validRec
  and_intros <;> decide +kernel

theorem witness_StartUpRunsInPhases :
    (∀ k < 9, k ≠ 0 → bootRuns (boots k id)) ∧
    (bootImage (boots 1 id) 1 = some (Config.deliveredDigest 1, false) ∧
      bootImage (boots 1 id) 2 = some (Config.deliveredDigest 2, false)) ∧
    bootImage (boots 1 (fun s => { s with store := { s.store with flash := [(0x10000, 5)] } })) 1 = none ∧
    validRec (flashRead (withRecord (boots 2 id)).store.flash 0xF50000 64) ∧
    (bootRuns (withRecord (boots 2 id)) ∧ ¬ validRec (flashRead (boots 2 id).store.flash 0xF50000 64) ∧
      (boots 2 id).hub.healthSeq ≠ 0) ∧
    (let s := boots 5 id
     ∀ d < 4, s.fuses.linkPresent.getLsbD d = true ∧ (s.die d).calDone = false ∧ (s.link ⟨d, 0⟩).state ≠ 3) ∧
    ((∀ c < 20, ((boots 6 id).col c).pendingRows = []) ∧
      (boots 6 id).cols.all (fun e => e.2.pendingRows.isEmpty) = true) ∧
    (bootRuns (boots 1 (fun s => { s with hub := { s.hub with railsWait := true } })) ∧ (boots 1 id).hub.railsWait = false) ∧
    (∃ d < 20, d ≠ 19 ∧ ((boots 6 id).col d).failed = false) ∧
    (State.reset.wf = true ∧ State.reset.hub.pwrOk = false ∧ State.reset.flt.busy = false) ∧
    ((boots 3 id).hub.perst = true ∨ (boots 3 id).hub.perst = false ∧ (boots 3 id).hub.ready = false) := by
  unfold bootRuns at *
  refine ⟨boot_runs, boot_images, boot_no_image, boot_record, ?_⟩
  unfold validRec
  and_intros <;> decide +kernel

/-- A device with three virtual functions: partition 1 is VF 1's, partition 2 the host's. -/
def shared : State := { ready with
  parts := [(1, { cfg := { vfown := true, qmask := 0x30, duty := 5 }, key := { slots := [(0, [1])], ecdh := some 3 }, load := { state := .loaded }, bind := { queues := [(0, 5)] } }),
            (2, { load := { state := .loaded }, bind := { quarters := [79] }, obj := some obj })]
  queues := [(5, { en := true, part := 1, tail := 3 })]
  sec := { ready.sec with unmeasured := BitVec.ofNat 80 (2 ^ 79 + 1) }
  dies := [(3, { unmeasured := true })] }

theorem shared_quiet : Claims.Quiet shared := by
  exact ⟨by decide +kernel, none_waits (by decide +kernel) (by decide +kernel)⟩

theorem witness_ResetsEmptyWhatTheyName :
    Claims.Quiet shared ∧
    (shared.wf = true ∧ serving shared = true ∧ vfExists shared.pcie 1 = true ∧ (shared.part 1).cfg.vfown = true ∧
      vfExists shared.pcie 2 = true ∧ (shared.part 2).cfg.vfown = false) ∧
    (shared.hub.stopped = false ∧ shared.hub.perst = false ∧ shared.hub.ready = true) ∧
    (let s := { shared with hub := { shared.hub with ready := false } }
     s.wf = true ∧ s.hub.perst = false ∧ s.hub.ready = false) ∧
    (Claims.Commands shared .pf ∧ Claims.Commands shared .mgmt) ∧
    ((∃ n < 32, 79 ∈ (shared.part n).bind.quarters) ∧ ¬ ∃ n < 32, 0 ∈ (shared.part n).bind.quarters) ∧
    ((∃ n < 32, (shared.part n).obj = some obj ∧ 0 ∈ obj.dies) ∧ shared.fuses.linkPresent.getLsbD 3 = true ∧
      ∀ n < 32, ∀ o, (shared.part n).obj = some o → o = obj ∧ 3 ∉ o.dies) ∧
    (bit shared.sec.unmeasured 79 = true ∧ bit shared.sec.unmeasured 78 = false ∧ (shared.die 3).unmeasured = true) := by
  have h : ∀ n < 32, (shared.part n).obj = none ∨ (shared.part n).obj = some obj := by decide +kernel
  refine ⟨shared_quiet, by decide +kernel, by decide +kernel, by decide +kernel, ?_, by decide +kernel,
    ⟨⟨2, by decide +kernel⟩, by decide +kernel, fun n hn o ho => ?_⟩, by decide +kernel⟩
  · unfold Claims.Commands
    decide +kernel
  · rcases h n hn with e | e <;> rw [e] at ho
    · cases ho
    · cases ho
      exact ⟨rfl, by decide⟩

/-- Quarter 4 is bound, the suite is at quarter 1 of column 1 and at quarter 3 of column 19. -/
def tested (busy : Bool) (cols : List (Nat × Col)) : State := { ready with
  parts := [(1, { bind := { quarters := [4] } })]
  cols := cols
  hub := { ready.hub with katBusy := busy, katResult := 3 } }
def turns : List (Nat × Col) := [(1, { fenced := 0x111, katTurn := some 1 }), (19, { fenced := 0x8000, katTurn := some 3 })]
def isBound (s : State) (q : Nat) : Prop := ∃ n < 32, q ∈ (s.part n).bind.quarters

theorem witness_SuitesTestQuartersInTurn :
    (let s := tested true turns
     s.wf = true ∧ Claims.Commands s .pf ∧ s.hub.katBusy = true ∧ s.hub.stopped = false ∧ (s.col 1).katTurn = some 1 ∧
     (s.col 19).katTurn = some 3 ∧ ¬ isBound s 6) ∧
    (let s := tested false []
     s.wf = true ∧ Claims.Commands s .mgmt ∧ ¬ (s.hub.katBusy = true ∨ s.sec.fwState = .window) ∧
     (∀ n < 32, (s.part n).load.state = .empty) ∧ (0xFFFFF : BitVec 20).getLsbD 19 = true ∧ isBound s 4 ∧ ¬ isBound s 5 ∧
     ¬ isBound s 76) ∧
    (let s := { tested false [] with parts := [(1, { bind := { quarters := [8, 9, 10, 11] }, load := { state := .loaded } })] }
     s.wf = true ∧ Claims.Commands s .pf ∧ (∃ n < 32, (s.part n).load.state ≠ .empty) ∧ ∀ q < 4, isBound s (4 * 2 + q)) ∧
    (let s := tested true []
     s.hub.katBusy = true ∧ s.hub.stopped = false ∧ ∀ c < 20, (s.col c).katTurn = none) := by
  unfold Claims.Commands isBound
  and_intros <;> decide +kernel
/-! ### Commands to a partition -/

/-- An object image of 256 bytes: its header, a section with one CTL stream whose one instruction is HALT, a section with one
placement, and the SHA-256 digest of all that, which was computed outside Lean. -/
def haltImage : List Byte :=
  [0x4B, 0x58, 0x4F, 0x00] ++ leBytes 2 1 ++ leBytes 2 1 ++ leBytes 4 1 ++ leBytes 4 1 ++ leBytes 4 0x100000 ++
    leBytes 4 2 ++ leBytes 8 64 ++ leBytes 8 256 ++ leBytes 24 0 ++
  (leBytes 4 1 ++ leBytes 4 (0xFFFF0000 + 6) ++ leBytes 8 128 ++ leBytes 8 32 ++ leBytes 8 0) ++
  (leBytes 4 5 ++ leBytes 4 0 ++ leBytes 8 160 ++ leBytes 8 64 ++ leBytes 8 0) ++
  leBytes 16 0 ++ leBytes 16 wHalt.toNat ++
  (leBytes 2 1 ++ leBytes 2 1 ++ leBytes 2 0 ++ leBytes 2 1 ++ leBytes 8 0 ++ leBytes 2 0 ++ [1, 0] ++ leBytes 4 0 ++
    leBytes 4 0 ++ [3, 4, 9, 0] ++ leBytes 8 0x400000 ++ leBytes 16 0 ++ leBytes 8 0) ++
  leBytes 32 0xbbc5fe2501124b3c74ee97e1f66ede9786d230b6935196c7f5dade95eed74366
def put (a : Nat) (bs : List Byte) : Mem := (bs.zipIdx.map (fun e => (a + e.2, e.1))).filter (fun e => e.2 != 0)
/-- Partition 1 LOADING that image, with its parameters in memory. -/
def ldState (img : List Byte) : State := { ready with
  store := { mem := put 0x3F0000 (leBytes 8 0x400000 ++ leBytes 8 img.length ++ leBytes 8 0x3F0100 ++ leBytes 4 1 ++ leBytes 4 1 ++
      leBytes 32 0 ++ leBytes 8 0x12345678) ++ put 0x3F0100 (leBytes 2 5 ++ leBytes 2 1 ++ leBytes 4 0) ++ put 0x400000 img }
  parts := [(1, { cfg := { en := true, qmask := 0xFF0 }, load := { state := .loading, param := 0x3F0000 } })] }

def loadParams (s : State) : Params := readParams s (s.part 1).load.param.toNat
/-- The same with a `QMASK` that holds no quarter. -/
def noQuarter : State := { ldState haltImage with parts := [(1, { cfg := { en := true }, load := { state := .loading, param := 0x3F0000 } })] }

theorem digest_ok : digestOk haltImage = true := by decide +kernel

/-- The state after the accesses of the loader. -/
def readBy (s : State) : State :=
  let q := loadParams s
  (accessed [((s.part 1).load.param.toNat, 80), (q.addr, q.len), (q.mapAddr, 8 * q.ranks)]).run s

theorem image_read : fetchAt (ldState haltImage) (loadParams (ldState haltImage)).addr (loadParams (ldState haltImage)).len = haltImage ∧
    fetchAt noQuarter (loadParams noQuarter).addr (loadParams noQuarter).len = haltImage := by decide +kernel

theorem queues_free (s : State) (h : s.queues = []) : (freeQueues s).length = 65536 := by
  unfold freeQueues
  rw [h, List.filter_eq_self.2 (by simp)]
  exact List.length_range

theorem object_accepted : checkObject (ldState haltImage) 1 (loadParams (ldState haltImage)) haltImage = 0 := by
  unfold checkObject queuesOk
  rw [digest_ok, queues_free _ rfl]
  decide +kernel

theorem object_accepted_too : checkObject noQuarter 1 (loadParams noQuarter) haltImage = 0 := by
  unfold checkObject queuesOk
  rw [digest_ok, queues_free _ rfl]
  decide +kernel

theorem object_binds : ∃ e, bindObject (readBy (ldState haltImage)) 1 (loadParams (ldState haltImage)) haltImage = .ok e := by
  have h : (match bindObject (readBy (ldState haltImage)) 1 (loadParams (ldState haltImage)) haltImage with
    | .ok _ => true
    | .error _ => false) = true := by decide +kernel
  revert h
  cases bindObject (readBy (ldState haltImage)) 1 (loadParams (ldState haltImage)) haltImage with
  | ok e => exact fun _ => ⟨e, rfl⟩
  | error r => exact fun h => Bool.noConfusion h

theorem object_binds_not : bindObject (readBy noQuarter) 1 (loadParams noQuarter) haltImage = .error 10 := by
  have h : (match bindObject (readBy noQuarter) 1 (loadParams noQuarter) haltImage with
    | .ok _ => none
    | .error r => some r) = some 10 := by decide +kernel
  revert h
  cases bindObject (readBy noQuarter) 1 (loadParams noQuarter) haltImage with
  | ok e => exact fun h => nomatch h
  | error r => exact fun h => by rw [Option.some.inj h]

theorem object_refused : checkObject (ldState []) 1 (loadParams (ldState [])) [] = rcFormat := by decide +kernel

/-- Partition 1 in `st`, hosting one rank of four, its domain active or not. -/
def inState (st : LoadState) (active : Bool) (f : Part → Part) : State :=
  let s := at' (fun s => { s with hub := ready.hub, doms := if active then ready.doms else [] }) (fun p => f { p with
    load := { state := st }
    bind := { quarters := [0], queues := [(0, 5)], cells := [(0, 0)] }
    run := { streams := p.run.streams } }) id (sid .mov) wNop
  s
def isFree (s : State) : Prop :=
  (s.part 1).load.state ≠ .loading ∧ (s.part 1).load.unloading = false ∧ s.sec.fwState ≠ .window

theorem no_links_quiet (s : State) (h : ∀ n < 32, (s.part n).run.ops = [] ∧ (s.part n).snap.state ≠ .draining)
    (hp : ∀ e ∈ s.parts, e.2.run.localWait = []) (hl : s.links = []) : Claims.Quiet s :=
  ⟨h, none_waits (fun e he => by rw [hl] at he; cases he) hp⟩

def unloads : State := inState .running false (fun p => { p with load := { p.load with unloading := true } })

theorem unloads_quiet : Claims.Quiet unloads := no_links_quiet _ (by decide +kernel) (by decide +kernel) rfl

theorem witness_LoadsStartAndUnload :
    (∀ st ∈ [LoadState.empty, .failed], let s := { ready with parts := [(1, { cfg := { en := true }, load := { state := st } })] }
      s.wf = true ∧ Claims.MayCommand s .pf 1 ∧ isFree s ∧ s.hub.katBusy = false ∧ (s.part 1).load.state = st ∧
      (s.part 1).obj = none) ∧
    (let s := inState .running true id
     s.wf = true ∧ Claims.MayCommand s .mgmt 1 ∧ (s.part 1).load.state ≠ .empty ∧ (s.part 1).load.state ≠ .failed ∧
     (s.part 1).load.state ≠ .loaded ∧ (s.dom 1).active = true) ∧
    (let s := inState .loaded true id
     s.wf = true ∧ Claims.MayCommand s .pf 1 ∧ isFree s ∧ (s.part 1).load.state = .loaded ∧ (s.dom 1).active = true ∧
     (s.part 1).obj = some obj) ∧
    (∀ st ∈ [LoadState.loaded, .done, .faulted, .failed, .running], let s := inState st false id
      s.wf = true ∧ Claims.MayCommand s .pf 1 ∧ isFree s ∧ (s.dom 1).active = false ∧ (s.part 1).load.state = st) ∧
    (unloads.wf = true ∧ unloads.hub.stopped = false ∧ (unloads.part 1).load.unloading = true ∧ Claims.Quiet unloads) ∧
    (let s := ldState haltImage
     s.wf = true ∧ s.hub.stopped = false ∧ (s.part 1).load.unloading = false ∧ (s.part 1).load.state = .loading ∧
     fetchAt s (loadParams s).addr (loadParams s).len = haltImage ∧ checkObject s 1 (loadParams s) haltImage = 0 ∧
     ∃ e, bindObject (readBy s) 1 (loadParams s) haltImage = .ok e) ∧
    (noQuarter.wf = true ∧ (noQuarter.part 1).load.state = .loading ∧
      fetchAt noQuarter (loadParams noQuarter).addr (loadParams noQuarter).len = haltImage ∧
      checkObject noQuarter 1 (loadParams noQuarter) haltImage = 0 ∧
      bindObject (readBy noQuarter) 1 (loadParams noQuarter) haltImage = .error 10) ∧
    checkObject (ldState []) 1 (loadParams (ldState [])) [] ≠ 0 := by
  unfold Claims.MayCommand isFree
  refine ⟨by decide +kernel, by decide +kernel, by decide +kernel, by decide +kernel,
    ⟨by decide +kernel, by decide +kernel, by decide +kernel, unloads_quiet⟩,
    ⟨by decide +kernel, by decide +kernel, by decide +kernel, by decide +kernel, image_read.1, object_accepted, object_binds⟩,
    ⟨by decide +kernel, by decide +kernel, image_read.2, object_accepted_too, object_binds_not⟩, ?_⟩
  rw [object_refused]
  decide
/-! #### Contexts -/

/-- An object with one rank here and one segment, which a snapshot takes. -/
def snapObj : Obj := { obj with
  own := [0]
  segs := [{ symbol := 0, flags := 2, pclass := 4, homes := 9, near := 0, size := 0x400000, grant := 0, peer := 0, exp := 0 }] }
/-- Partition 1 with it, with no quarter bound: the image of its context is short. -/
def small (st : LoadState) (active : Bool) (f : Part → Part) : State :=
  inState st active (fun p => f { p with obj := some snapObj, bind := {} })
def at0 (a : Nat) (bs : List Byte) (s : State) : State := { s with store := { s.store with mem := s.store.mem ++ put a bs } }
def saved : List Byte := contextImage (small .loaded true id) 1 none
def restores (st : LoadState) (bs : List Byte) : State :=
  at0 0x500000 bs (small st true (fun p => { p with ctx := { p.ctx with busy := true, restoring := true, addr := 0x500000 } }))
def readBack (s : State) : List Byte := fetchAt s 0x500000 (contextLen (fetchAt s 0x500000 64) 0)
def hostWin : Nat := hostBase + 0xC0000000
def saves (st : LoadState) : State := small st true (fun p => { p with ctx := { p.ctx with busy := true, addr := BitVec.ofNat 64 hostWin } })
/-- A manifest of a snapshot of one rank with no page; `d` is the digest it names, read as a number. -/
def manifest (d : Nat) : List Byte :=
  [0x4D, 0x4E, 0x46, 0x54] ++ leBytes 2 1 ++ leBytes 2 1 ++ leBytes 4 0 ++ leBytes 4 0 ++ leBytes 4 4 ++ leBytes 4 0 ++
  leBytes 0x38 0 ++ leBytes 0x20 0 ++ leBytes 0x10 0 ++ leBytes 0x10 0 ++ leBytes 32 d ++ leBytes 240 0
/-- SHA-256 of no bytes. -/
def emptySha : Nat := 0x55b852781b9995a44c939b64e441ae2724b96f99c8f4fb9a141cfc9842c4b0e3
def imaged (d : Nat) : State :=
  at0 0x500000 (manifest d) (small .loaded true (fun p => { p with snap := { p.snap with rbusy := true, raddr := 0x500000 } }))
def manOf (s : State) : List Byte := imageRead s 1 0 (manifestLen (ckptSegs snapObj).length)

theorem in_host : Claims.InHost (saves .done) hostWin 0x100000000 (contextImage (saves .done) 1 none) := by
  unfold Claims.InHost
  decide +kernel

theorem context_applies : ∃ act, applyContext (restores .loaded saved) 1 (readBack (restores .loaded saved)) = some act :=
  Option.isSome_iff_exists.1 (by decide +kernel)

theorem context_fails : applyContext (restores .loaded []) 1 (readBack (restores .loaded [])) = none := by
  have h : (applyContext (restores .loaded []) 1 (readBack (restores .loaded []))).isSome = false := by decide +kernel
  exact Option.not_isSome_iff_eq_none.1 (by rw [h]; decide)

theorem manifest_read : manOf (imaged emptySha) = manifest emptySha ∧ manOf (imaged 0) = manifest 0 := by decide +kernel

theorem manifest_ok : manifestCheck snapObj 0 (manifest emptySha) = 0 ∧ manifestCheck snapObj 0 (manifest 0) = 0 ∧
    manifestCheck snapObj 0 (leBytes 416 0) ≠ 0 := by decide +kernel

theorem digests : digestsOk (imaged emptySha) 1 snapObj (manifest emptySha) = true ∧
    digestsOk (imaged 0) 1 snapObj (manifest 0) = false := by decide +kernel

def rewinds (st : LoadState) (active : Bool) (f : State → State) : State :=
  f (small st active (fun p => { p with ctx := { p.ctx with rwdBusy := true }, bind := { p.bind with cells := [(0, 0)] } }))

theorem rewinds_quiet : Claims.Quiet (rewinds .running false id) := no_links_quiet _ (by decide +kernel) (by decide +kernel) rfl

theorem substituted : ∃ e, substituteAll 1 (rewinds .running false id) = some e :=
  Option.isSome_iff_exists.1 (by decide +kernel)

theorem witness_ContextsAndRewinds :
    (∀ st ∈ [LoadState.done, .faulted, .loaded, .running, .empty], let s := small st true id
      s.wf = true ∧ Claims.MayCommand s .pf 1 ∧ isFree s ∧ (s.part 1).ctx.busy = false ∧ (s.part 1).load.state = st ∧
      (s.dom 1).held = false) ∧
    (∀ st ∈ [LoadState.loaded, .running, .done], let s := small st false id
      s.wf = true ∧ Claims.MayCommand s .mgmt 1 ∧ isFree s ∧ (s.part 1).ctx.rwdBusy = false ∧ (s.dom 1).active = false ∧
      (s.part 1).load.state = st) ∧
    (∀ x ∈ [SnapState.idle, .done, .aborted, .armed, .draining],
      let s := small .loaded true (fun p => { p with snap := { p.snap with state := x, restored := [1] } })
      s.wf = true ∧ Claims.MayCommand s .pf 1 ∧ (s.part 1).snap.state = x ∧ (s.part 1).obj = some snapObj ∧
      (s.part 1).snap.rbusy = false ∧ (s.part 1).snap.fromPeer = false ∧
      (s.part 1).snap.rown.toNat ∉ (s.part 1).snap.restored) ∧
    ((saves .done).wf = true ∧ ((saves .done).part 1).ctx.busy = true ∧ ((saves .done).part 1).ctx.restoring = false ∧
      ((saves .done).part 1).load.state = .done) ∧
    Claims.InHost (saves .done) hostWin 0x100000000 (contextImage (saves .done) 1 none) ∧
    ((saves .empty).wf = true ∧ ((saves .empty).part 1).load.state = .empty) ∧
    (let s := restores .loaded saved
     s.wf = true ∧ (s.part 1).ctx.busy = true ∧ (s.part 1).ctx.restoring = true ∧ (s.part 1).load.state = .loaded) ∧
    (∃ act, applyContext (restores .loaded saved) 1 (readBack (restores .loaded saved)) = some act) ∧
    applyContext (restores .loaded []) 1 (readBack (restores .loaded [])) = none ∧
    (let s := rewinds .running false id
     s.wf = true ∧ s.hub.stopped = false ∧ (s.part 1).ctx.rwdBusy = true ∧ (s.dom 1).active = false) ∧
    Claims.Quiet (rewinds .running false id) ∧ (∃ e, substituteAll 1 (rewinds .running false id) = some e) ∧
    ((rewinds .loaded true id).wf = true ∧ ((rewinds .loaded true id).dom 1).active = true) ∧
    (let s := imaged emptySha
     s.wf = true ∧ (s.part 1).obj = some snapObj ∧ (s.part 1).snap.rbusy = true ∧ (s.part 1).snap.fromPeer = false ∧
     (∀ e ∈ (s.part 1).run.reqs, e.op ≠ restoreOp) ∧ (s.part 1).load.state = .loaded ∧ shardsOf (s.part 1) = ckptSegs snapObj ∧
     (s.part 1).snap.rown.toNat ∉ (s.part 1).snap.restored ∧
     ∀ e ∈ (s.part 1).run.pages, e.2.home ≠ .remote) ∧
    manifestCheck snapObj 0 (manOf (imaged emptySha)) = 0 ∧ manifestCheck snapObj 0 (manOf (imaged 0)) = 0 ∧
    manifestCheck snapObj 0 (leBytes 416 0) ≠ 0 ∧
    digestsOk (imaged emptySha) 1 snapObj (manOf (imaged emptySha)) = true ∧
    digestsOk (imaged 0) 1 snapObj (manOf (imaged 0)) = false ∧
    (let s := small .loaded true (fun p => { p with obj := none, snap := { p.snap with rbusy := true } })
     s.wf = true ∧ (s.part 1).snap.rbusy = true ∧ (s.part 1).obj = none ∧ manifestCheck (s.part 1).obj 0 (leBytes 416 0) ≠ 0) ∧
    (let s := small .done true (fun p => { p with snap := { p.snap with rbusy := true, restored := [0] } })
     s.wf = true ∧ (s.part 1).snap.rbusy = true ∧
       ¬ ((s.part 1).load.state = .loaded ∧ (s.part 1).snap.rown.toNat ∉ (s.part 1).snap.restored)) := by
  unfold Claims.MayCommand isFree
  rw [manifest_read.1, manifest_read.2]
  refine ⟨by decide +kernel, by decide +kernel, by decide +kernel, by decide +kernel, in_host, by decide +kernel, by decide +kernel,
    context_applies, context_fails, by decide +kernel, rewinds_quiet, substituted, by decide +kernel, by decide +kernel,
    manifest_ok.1, manifest_ok.2.1, manifest_ok.2.2, digests.1, digests.2, by decide +kernel, by decide +kernel⟩
/-! ### SEC and the boot flash -/

def slotKey : List Byte := (List.range 32).map (BitVec.ofNat 8)
/-- A partition that hosts one rank with one segment that takes weights, and holds a key. -/
def secPart (st : LoadState) (f : KeyReg → KeyReg) (p : Part) : Part :=
  { p with
    load := { state := st }
    obj := some { obj with own := [0], segs := [{ symbol := 0, flags := 8, pclass := 4, homes := 3, near := 0, size := 0x400000, grant := 0, peer := 0, exp := 0 }] }
    bind := { quarters := [0], queues := [(0, 5)], cells := [(0, 0)] }
    key := f { decAddr := 0x500000, keyAddr := 0x500000, slots := [(0, slotKey)], slotWard := [(0, 1)] } }
def secState (st : LoadState) (f : KeyReg → KeyReg) (h : State → State) : State :=
  h (at' (fun s => { s with hub := ready.hub }) (secPart st f) id (sid .mov) wNop)
/-- A message descriptor: 65,536 bytes of the host window to 0x10000, under the key in slot 0. -/
def desc : List Byte := leBytes 8 hostWin ++ leBytes 8 0x10000 ++ leBytes 8 0x10000 ++ leBytes 8 0 ++ leBytes 12 7 ++ leBytes 4 0 ++ leBytes 16 9
def cipherText : List Byte := List.replicate 32 5
/-- A message of 32 bytes of which the engine has taken `pos`. -/
def decMsg (pos : Nat) (result : BitVec 8) (tag : List Byte) : DecMsg := {
  src := BitVec.ofNat 64 hostWin, own := 0, dst := 0x10000, len := 32, slot := 0, iv := leBytes 12 7, tag := tag, pos := pos,
  result := result, cipher := cipherText.take pos }
def goodTag : List Byte := gcmTag slotKey (leBytes 12 7) [] cipherText
def deciphers (m : DecMsg) : State := secState .loaded (fun k => { k with decBusy := true, msg := some m })
  (fun s => { s with sec := { s.sec with decCur := some 1 } })

theorem lane_idle (s : State) (p : Part) (h : s.parts = [(1, p)]) (j : Nat) (hj : j ≠ 1) : decReady s j = false := by
  have hp : s.part j = {} := by
    unfold State.part
    rw [h]
    simp only [Tab.get]
    split
    · rfl
    · rfl
  unfold decReady
  rw [hp]

def reqBlock : List Byte := [1, 0, 1] ++ leBytes 61 0 ++ leBytes 8 0 ++ leBytes 8 64
/-- A receipt, a report and a dump under way. -/
def reporting (b : List Byte) : State := secState .done id (fun s => { at0 0x500000 b s with
  sec := { s.sec with
    rcptBusy := true, attBusy := true, dumpBusy := true, rcptReq := 0x500000, attReq := 0x500000,
    rcptOut := BitVec.ofNat 64 hostWin, attOut := BitVec.ofNat 64 hostWin, dumpAddr := BitVec.ofNat 64 hostWin } })

theorem tags : goodTag.length = 16 ∧ (deciphers (decMsg 32 0 goodTag)).wf = true := by decide +kernel

theorem tag_agrees : gcmTag (Tab.get [] ((deciphers (decMsg 32 0 goodTag)).part 1).key.slots 0) (leBytes 12 7) []
    (cipherText.take 32) = goodTag := by
  have hk : Tab.get [] ((deciphers (decMsg 32 0 goodTag)).part 1).key.slots 0 = slotKey := by decide +kernel
  have hc : cipherText.take 32 = cipherText := by decide
  rw [hk, hc]
  unfold goodTag
  rfl

theorem tag_differs : goodTag ≠ [] := by
  intro h
  have := tags.1
  rw [h] at this
  cases this

def rcptBlock (b : List Byte) : List Byte := fetchAt (reporting b) 0x500000 320
def attBlock (b : List Byte) : List Byte := fetchAt (reporting b) 0x500000 64
/-- The same once its receipt has been asked for, with the answer `rc`. -/
def asked (b : List Byte) (rc : Nat) : State := { reporting b with
  sec := { (reporting b).sec with rcptBlock := rcptBlock b, rcptCode := BitVec.ofNat 8 rc } }

theorem reports_land (b : List Byte) (hb : b = reqBlock) :
    Claims.InHost (asked b 0) hostWin 0x100000000 (signed (asked b 0).free (rcptBody (asked b 0) (rcptBlock b))) ∧
    Claims.InHost (reporting b) hostWin 0x100000000 (signed (reporting b).free (reportBody (reporting b) (attBlock b))) ∧
    Claims.InHost (reporting b) hostWin 0x100000000 (dumpImage (reporting b)) := by
  subst hb
  unfold Claims.InHost
  and_intros <;> decide +kernel

theorem witness_SealedPathAndReports :
    (let s := secState .loaded id (at0 0x500000 desc); let p := s.part 1
     s.wf = true ∧ Claims.MayCommand s .pf 1 ∧ p.load.state = .loaded ∧ p.key.decBusy = false ∧ s.sec.fwState ≠ .window ∧
     decCheck s 1 (fetchAt s p.key.decAddr.toNat 64) = 0 ∧ s.sec.decCur = none ∧ (∀ m, m ≠ 1 → decReady s m = false) ∧
     p.key.keyBusy = false) ∧
    (let s := secState .loaded id (fun s => { s with sec := { s.sec with decCur := some 2 } })
     s.wf = true ∧ Claims.MayCommand s .pf 1 ∧ (s.part 1).load.state = .loaded ∧
     decCheck s 1 (fetchAt s (s.part 1).key.decAddr.toNat 64) ≠ 0 ∧ s.sec.decCur ≠ none) ∧
    (let s := secState .running (fun k => { k with keyBusy := true }) id
     s.wf = true ∧ Claims.MayCommand s .mgmt 1 ∧ (s.part 1).load.state ≠ .loaded ∧ (s.part 1).key.keyBusy = true ∧
     s.hub.stopped = false ∧ keyCheck s 1 (fetchAt s (s.part 1).key.keyAddr.toNat 232) = (1, none)) ∧
    (∀ pos ∈ [0, 16], let m := decMsg pos 0 []; let s := deciphers m
      s.wf = true ∧ s.hub.stopped = false ∧ s.sec.decCur = some 1 ∧ (s.part 1).key.msg = some m ∧ m.result = 0 ∧ m.pos < m.len) ∧
    (∀ m j, j ≠ 1 → decReady (deciphers m) j = false) ∧
    (let m := decMsg 32 0 goodTag; let s := deciphers m
     s.wf = true ∧ (s.part 1).key.msg = some m ∧ m.result = 0 ∧ m.len ≤ m.pos ∧
     gcmTag (Tab.get [] (s.part 1).key.slots m.slot) m.iv [] m.cipher = m.tag ∧
     (gcmCrypt (Tab.get [] (s.part 1).key.slots m.slot) m.iv 0 m.cipher).length = 32 ∧
     Claims.Plain ((openPages 1 m.own m.dst m.len).run s) 1 m.own m.dst 0x1010000 32) ∧
    (let m := decMsg 32 0 []; let s := deciphers m
     s.wf = true ∧ m.result = 0 ∧ m.len ≤ m.pos ∧
     gcmTag (Tab.get [] (s.part 1).key.slots m.slot) m.iv [] m.cipher ≠ m.tag) ∧
    (let m := decMsg 16 3 []; let s := deciphers m
     s.wf = true ∧ (s.part 1).key.msg = some m ∧ m.result ≠ 0) ∧
    (let s := reporting reqBlock
     s.wf = true ∧ s.sec.rcptBusy = true ∧ s.sec.attBusy = true ∧
     reportCheck (s.sec.attFn.getD 0) (attBlock reqBlock) = 0 ∧ s.sec.dumpBusy = true ∧ serving s = true ∧
     fnThere s .pf = true ∧ s.hub.stopped = false) ∧
    (let s := asked reqBlock 0
     s.wf = true ∧ s.sec.rcptBusy = true ∧ s.sec.rcptCode = 0 ∧
     rcptCheck s (s.sec.rcptFn.getD 0) s.sec.rcptBlock = 0 ∧
     ¬ ∃ q ∈ (s.part (leAt s.sec.rcptBlock 0 1)).run.reqs, q.op = receiptOp) ∧
    (let s := asked reqBlock 3
     s.wf = true ∧ s.sec.rcptBusy = true ∧ s.sec.rcptCode ≠ 0) ∧
    (Claims.InHost (asked reqBlock 0) hostWin 0x100000000
        (signed (asked reqBlock 0).free (rcptBody (asked reqBlock 0) (rcptBlock reqBlock))) ∧
      Claims.InHost (reporting reqBlock) hostWin 0x100000000
        (signed (reporting reqBlock).free (reportBody (reporting reqBlock) (attBlock reqBlock))) ∧
      Claims.InHost (reporting reqBlock) hostWin 0x100000000 (dumpImage (reporting reqBlock))) ∧
    ((reporting []).wf = true ∧ rcptCheck (reporting []) 0 (rcptBlock []) ≠ 0 ∧
      reportCheck 0 (fetchAt (at0 0x500000 (leBytes 32 0 ++ [32]) (reporting [])) 0x500000 64) ≠ 0) ∧
    (serving ready = true ∧ fnThere ready (.vf 2) = true ∧ isPf (.vf 2) = false ∧ ready.sec.rcptBusy = false ∧
      ready.sec.attBusy = false) := by
  unfold Claims.MayCommand
  refine ⟨⟨by decide +kernel, by decide +kernel, by decide +kernel, by decide +kernel, by decide +kernel, by decide +kernel,
      by decide +kernel, lane_idle _ _ rfl, by decide +kernel⟩, by decide +kernel, by decide +kernel, by decide +kernel,
    fun m => lane_idle _ _ rfl,
    ⟨tags.2, rfl, by decide +kernel, by decide +kernel, tag_agrees, by decide +kernel,
      plain_of (by decide +kernel) (by decide +kernel)⟩,
    ⟨by decide +kernel, by decide +kernel, by decide +kernel, tag_differs⟩, by decide +kernel, by decide +kernel, by decide +kernel,
    by decide +kernel, reports_land _ rfl, by decide +kernel, by decide +kernel⟩
/-! #### Firmware

An image that passes its check is signed under a key that is a constant of Config with no value, so that no concrete image is one. -/

def firm (f : Sec → Sec) (m : Mgmt → Mgmt) (x : Flt → Flt) : State := { ready with
  sec := f ready.sec
  mgmt := m ready.mgmt
  flt := x ready.flt
  parts := [(1, { key := { slots := [(0, [1])] } })]
  store := { mem := put 0x500000 ([0x4B, 0x46, 0x57, 0x31, 0, 0, 0, 0] ++ leBytes 4 2) ++ put 0x600000 ([0x4B, 0x46, 0x57, 0x31, 1, 0, 0, 0] ++ leBytes 4 3997441) } }
def staged (x : Sec) : Sec := { x with fwState := .staged, fwTarget := 1, pendHub := 5 }

theorem witness_FirmwareAndFlash :
    (let s := firm id id id
     s.wf = true ∧ Claims.Commands s .pf ∧ s.sec.fwState ≠ .staging ∧ s.sec.fwState ≠ .window ∧ s.sec.actAt = none ∧
     s.flt.busy = false ∧ s.mgmt.flashBusy = false ∧ s.hub.stopped = false) ∧
    (let s := firm (fun x => { staged x with actTime := 0x2000000000 + 160000000 }) id id
     s.wf = true ∧ Claims.Commands s .pf ∧ s.sec.fwState = .staged ∧ s.sec.fwTarget = 1 ∧ s.sec.actAt = none ∧
     s.tim.hall.toNat + 160000000 ≤ s.sec.actTime.toNat) ∧
    (let s := firm (fun x => { staged x with actTime := 0x2000000000 + 159999999 }) id id
     s.wf = true ∧ ¬ s.tim.hall.toNat + 160000000 ≤ s.sec.actTime.toNat) ∧
    (∀ a ∈ [0x500000, 0x600000], let s := firm (fun x => { x with fwState := .staging, fwTarget := 1, fwAddr := BitVec.ofNat 64 a }) id id
      s.wf = true ∧ s.sec.fwState = .staging ∧ s.sec.fwTarget.toNat = 1 ∧
      (a = 0x500000 → let head := fetchAt s a 256
        leAt head 8 4 ≤ 3997440 ∧ imageCheck s 1 head (fetchAt s (a + 256) (leAt head 8 4)) ≠ 0) ∧
      (a = 0x600000 → 3997440 < leAt (fetchAt s a 256) 8 4)) ∧
    (∀ k ∈ [0, 1], let s := firm (fun x => { staged x with actAt := some (BitVec.ofNat 64 (0x2000000000 + k)) }) id id
      s.wf = true ∧ s.sec.actAt = some (BitVec.ofNat 64 (0x2000000000 + k)) ∧ s.sec.fwState = .staged ∧
      s.tim.hall = 0x2000000000) ∧
    (let s := firm (fun x => { x with fwState := .window, fwTarget := 1, pendHub := 5, transition := true }) id id
     s.wf = true ∧ s.hub.stopped = false ∧ s.sec.fwState = .window ∧ Claims.Commands s .mgmt ∧ s.mgmt.flashBusy = false) ∧
    (∀ again ∈ [false, true], let s := firm id id (fun x => { x with busy := true, again := again })
      s.wf = true ∧ s.flt.busy = true ∧ s.flt.again = again) ∧
    (let s := { firm id id id with hub := { ready.hub with ready := false, stage := 3 } }
     s.wf = true ∧ s.hub.stopped = false ∧ 3 ≤ s.hub.stage.toNat) ∧
    (∀ k ∈ [1, 2, 3], ∀ sec ∈ [0xF50, 0xF80], let s := firm id (fun m => { m with
        flashBusy := true, flashOp := BitVec.ofNat 2 k, flashSector := BitVec.ofNat 12 sec }) id
      s.wf = true ∧ s.mgmt.flashBusy = true ∧ s.flt.busy = false ∧ s.sec.fwState ≠ .staging ∧ s.mgmt.flashOp.toNat = k ∧
      (s.mgmt.flashSector.toNat < 0xF51 ∨ 0xF7F < s.mgmt.flashSector.toNat)) := by
  unfold Claims.Commands
  and_intros <;> decide +kernel

/-! ### The host interface -/

def wHdmaIn : InsnWord := word [(120, 0x7C), (20, 1)]
def hdmaOp : Op := { op (sid .hdma) wHdmaIn [] with want := 8192 }
def chunk (port : Nat) (act : Bool) (o : Nat) : Chunk :=
  { requester := 1, order := 0, port := port, addr := 0x100000000, len := 64, op := o, active := act }
def moving (cs : List Chunk) (u0 u1 : Bool) : State :=
  at' (fun s => { s with
    hub := ready.hub
    pcie := { s.pcie with up0 := u0, up1 := u1, chunks := cs } }) (flying hdmaOp) id (sid .mov) wNop

theorem witness_HostTrafficMovesInChunks :
    (∀ port ∈ [0, 1], let s := moving [chunk port true 9] true true; let c := chunk port true 9
      s.wf = true ∧ s.pcie.chunks = [c] ∧ c.active = true ∧ c.port = port ∧ c.requester < 33 ∧ portUp s (1 - port) = true ∧
      portUp s port = true ∧ chunkOp s c = none ∧ s.hub.ready = true) ∧
    (let s := moving [chunk 1 true 1] false true
     s.wf = true ∧ portUp s 0 = false ∧ portUp s 1 = true) ∧
    (let s := moving [chunk 0 true 1] false false
     s.wf = true ∧ portUp s 0 = false ∧ portUp s 1 = false) ∧
    (let c := chunk 0 true 1; let s := moving [c] true true; let p := s.part 1
     s.wf = true ∧ chunkOp s c = some hdmaOp ∧ hdmaOp.id = c.op ∧ landsChunks hdmaOp = true ∧ p.recd.fp = false ∧
     p.recd.replay = false ∧ s.hub.debugMode = false ∧ c.out = false ∧
     Claims.Plain s 1 c.own (chunkAddr p hdmaOp c) 0x1000000 64) ∧
    (let s := moving [] true false
     s.wf = true ∧ portUp s 0 = true ∧ portUp s 1 = false ∧ activeChunk s 0 = none ∧ s.pcie.chunks = [] ∧ s.hub.ready = true ∧
     s.hub.stopped = false ∧ s.hub.perst = false) ∧
    (let s := { moving [] true true with hub := { ready.hub with ready := false } }
     s.wf = true ∧ portUp s 0 = true ∧ s.hub.ready = false) ∧
    (let c := chunk 0 false 1; let s := moving [c] false false
     s.wf = true ∧ s.pcie.chunks = [c] ∧ c.active = false ∧ c.port < 2 ∧ portUp s 1 = false) := by
  refine ⟨by decide +kernel, by decide +kernel, by decide +kernel, ?_, by decide +kernel, by decide +kernel, by decide +kernel⟩
  exact ⟨by decide +kernel, by decide +kernel, by decide +kernel, by decide +kernel, by decide +kernel, by decide +kernel,
    by decide +kernel, by decide +kernel, plain_of (by decide +kernel) (by decide +kernel)⟩

def aperture (a : Nat) : State := { ready with hub := { ready.hub with aper := BitVec.ofNat 64 a } }

theorem witness_OuterAccessesReachTheMap :
    (ready.wf = true ∧ ready.hub.stopped = false ∧ ready.hub.perst = false ∧ isPf .pf = true ∧ Claims.Commands ready .pf) ∧
    (let s := { ready with hub := { ready.hub with perst := true } }
     s.wf = true ∧ s.hub.perst = true) ∧
    ((0xFFFFFFFFFFFFFFFC : BitVec 64).toNat % 4 = 0 ∧ (4 : BitVec 64).toNat % 8 ≠ 0 ∧ 16 ∉ [1, 2, 4, 8] ∧
      byteRegion .pf 0x900010 = false ∧ byteRegion .pf 0x6000000 = true) ∧
    (let s := aperture 0x500000
     s.wf = true ∧ Claims.Commands s .pf ∧ localOf s (s.hub.aper.toNat + 0) = 0x500000 ∧
     (∀ i < 8, place s (0x500000 + i) = .dram (0x500000 + i) ∧ sealedAt s (0x500000 + i) = false) ∧ s.parts = []) ∧
    (∀ n, ((aperture 0x500000).part n).run.pages = []) ∧
    (let s := aperture (5 * 2 ^ 48 + 0x500000)
     s.wf = true ∧ localOf s (s.hub.aper.toNat + 0) = 0x500000) ∧
    (let s := aperture (2 ^ 60)
     s.wf = true ∧ Claims.Commands s .pf ∧ localOf s (s.hub.aper.toNat + 0) = 2 ^ 60 ∧ ∀ i < 8, place s (2 ^ 60 + i) = .bad) ∧
    (let s := aperture regBase
     s.wf = true ∧ Claims.Commands s .pf ∧ localOf s (s.hub.aper.toNat + 0x80) = regBase + 0x80 ∧
       place s (regBase + 0x80) = .reg 0x80 ∧ sizeOk .pf 0x80 1 = false) := by
  unfold Claims.Commands
  refine ⟨by decide +kernel, by decide +kernel, by decide +kernel, by decide +kernel, fun n => rfl, ?_⟩
  and_intros <;> decide +kernel

def counted : State := { ready with
  pmc := { ready.pmc with ctr := [(ctrHub 3, 0x123456789ABC)] }
  mgmt := { ready.mgmt with frame := 3, badcmd := 255 } }

theorem witness_ReadsLatchStampAndClear :
    counted.wf = true ∧ counted.hub.stopped = false ∧ isPf (.vf 2) = false ∧ Claims.Serves counted .pf 0x100008 ∧
    (∀ n ∈ [0, 31], ∀ r ∈ [8, 0x10, 0x18], Claims.Serves counted .pf (0x101000 + n * 0x40 + r)) ∧
    Claims.Serves counted .mgmt (0x580018 : BitVec 32).toNat ∧ (0x580018 : BitVec 32).toNat % 8 = 0 ∧
    counterHere counted (0x580018 : BitVec 32).toNat = some (ctrHub 3, 0) ∧ Claims.Serves counted .pf 0x5000000 := by
  unfold Claims.Serves
  and_intros <;> decide +kernel

/-! ### The management port and JTAG -/

theorem witness_ManagementFrames :
    ready.wf = true ∧ ready.hub.stopped = false ∧ (struck (fun h => { h with stopped := true })).hub.stopped = true ∧
    ((0x18 : BitVec 24).toNat < 0x7FF800 ∧ latchHigh ready .mgmt (ready.mgmt.bank.toNat * 0x2000000 + 0x18 * 4) = none ∧
      counterHere ready (ready.mgmt.bank.toNat * 0x2000000 + 0x18 * 4) = none) ∧
    (0x7FF7FF : BitVec 24).toNat < 0x7FF800 ∧ (0x7FFFFF : BitVec 24).toNat < 0x800000 ∧
    (∀ A ∈ [0x800000, 0xFFFFFF], let a := localOf ready (ready.mgmt.aper.toNat + (A - 0x800000) * 4)
      ∀ i < 4, place ready (a + i) = .dram (a + i) ∧ sealedAt ready (a + i) = false) ∧
    (∀ n, (ready.part n).run.pages = []) ∧
    (fld (0x0B000000 : Word) 24 8 = 0x0B ∧ fld (0x02000000 : Word) 24 8 = 0x02 ∧ fld (0xFFFF : Word) 16 16 = 0) := by
  refine ⟨by decide +kernel, by decide +kernel, by decide +kernel, by decide +kernel, by decide +kernel, by decide +kernel,
    by decide +kernel, fun n => rfl, by decide +kernel⟩

theorem witness_spi_write_goes_on : ∃ u, exec (.spiWrite 0 [0]) ready = .next u ∧ u.hub.stopped = false := ⟨_, rfl, by decide +kernel⟩

theorem witness_JtagInstructions :
    (State.reset.hub.stage.toNat ≤ 2 ∨ State.reset.hub.bootFail = true) ∧
    ¬ (ready.hub.stage.toNat ≤ 2 ∨ ready.hub.bootFail = true) ∧ ready.hub.debugMode = false := by decide

/-! ### The machine as a whole -/

theorem witness_EmptyQueuePassesTime :
    ready.pending = [] ∧ ready.hub.stopped = false ∧ (struck (fun h => { h with stopped := true })).pending = [] := by decide

theorem witness_EveryStepKeepsCanonicalForm : ready.wf = true ∧ ∃ t, step ready = .next t := ⟨by decide +kernel, _, rfl⟩

theorem witness_FusesAndQueueAreLeftAlone : ∃ t, exec .idcode ready = .next t := ⟨_, rfl⟩

theorem witness_TreesShareTheWork :
    parentPos 4 0 1 = some (0, 0) ∧ parentPos 4 0 2 = some (0, 1) ∧ (childPos 4 0 0).1 = some 1 ∧ (childPos 4 0 0).2 = some 2 ∧
    (512 : Nat) % 256 = 0 := by decide +kernel

/-! ### Worked examples of the specification -/

/-- The epoch leader of 05, "Worked example: an epoch leader". -/
def leaderWord : InsnWord := 0x820080002756CD00007D000000000005#128

theorem test_leader_fields :
    timed leaderWord = true ∧ opc leaderWord = 0x02 ∧ sub leaderWord = 0 ∧ dep leaderWord = true ∧
    fld leaderWord 64 40 = 660000000 ∧ fld leaderWord 40 24 = 32000 ∧ fld leaderWord 0 32 = 5 ∧
    illegal (sid .ctl) leaderWord = none ∧ leBytes 16 leaderWord.toNat =
      [0x05, 0, 0, 0, 0, 0, 0x7D, 0, 0, 0xCD, 0x56, 0x27, 0, 0x80, 0, 0x82] := by decide +kernel

/-- The multiply of 06, "Worked example: long K in WS mode": 32 passes of 512 cycles, planned for 16,432. -/
theorem test_mmw_duration :
    (mulOf 0x180000000040000000200FFF001FF110#128).map (fun x => decide (x.m = 512 ∧ x.klen = 4096 ∧ x.apitch = 32 ∧
      x.bcs = 0x4000 ∧ x.passes = 32 ∧ x.passTime = 512 ∧ x.dur = 16432)) = some true ∧
    illegal (sid .cell0) 0x180000000040000000200FFF001FF110#128 = none := by
  and_intros <;> decide +kernel

/-- The first multiply of 06, "Worked example: long K in AS mode": 16 passes of 512 cycles, planned for 8,240, to 512 rows. -/
theorem test_mma_duration :
    (mulOf 0x19000000001000003FF807FF001F8100#128).map (fun x => decide (x.m = 64 ∧ x.n = 2048 ∧ x.klen = 2048 ∧
      x.passes = 16 ∧ x.passTime = 512 ∧ x.dur = 8240 ∧ x.rows = 512)) = some true ∧
    illegal (sid .cell0) 0x19000000001000003FF807FF001F8100#128 = none := by
  and_intros <;> decide +kernel

/-- The example of R136: VA = TA 3.0 and VB = TA 5.0 give T32 0.25. -/
theorem test_expd : expdLane 0x4008000000000000 0x4014000000000000 = 0x3E800000 := by decide +kernel

/-- The range of products of two T8 codes (04): 480 × 480 is 1.7578125 × 2^17. -/
theorem test_t8_product : ((fT8.decode 0x7F).mul (fT8.decode 0x7F)).eq ((fT32.decode 0x48610000)) = true := by decide +kernel

/-- The signal of 08, "Worked example: a signal that overtakes its data". -/
theorem test_lsig_fields :
    let w : InsnWord := 0x0A000100050007000245000C00010000#128
    opc w = 0x0A ∧ sub w = 0 ∧ illegal (sid .mov) w = none ∧ fld w 0 32 = 65536 := by
  and_intros <;> decide +kernel

/-! ### Single commands -/

/-- A check of the next state. -/
def after (o : Host.Outcome State Fault Refusal) (f : State → Bool) : Bool := match o with
  | .next t => f t
  | _ => false

/-- Debug mode is set while every partition is EMPTY (R278). -/
theorem test_debug_mode : after (exec (.debugModeWrite .pf 1) ready) (fun t => t.hub.debugMode) = true := by decide +kernel

/-- A doorbell over the wrap of its counters (R168), and the first one that is too far. -/
theorem test_doorbell_wraps : after (exec (.doorbell .pf 9 0xE) (belled wrapping false 9)) (fun t =>
    decide ((t.queue 9).tail = 0xE) && !(t.queue 9).dberr) = true := by decide +kernel
theorem test_doorbell_too_far : after (exec (.doorbell .pf 9 0xF) (belled wrapping false 9)) (fun t =>
    decide ((t.queue 9).tail = 3) && (t.queue 9).dberr) = true := by decide +kernel

/-- Credits saturate at 256 (R206). -/
theorem test_credits : after (exec (.ackReceive l0 0 ⟨[7, 300], Claims.firstCopy⟩) (lk { up with credit1 := 250, credit2 := 0 })) (fun t =>
    decide ((t.link l0).credit1 = 256) && decide ((t.link l0).credit2 = 256)) = true := by decide +kernel

/-- Ten units of hall time in an array cycle (R16). -/
theorem test_tick : after (step ready) (fun t => decide (t.tim.hall = 0x200000000A)) = true := by decide +kernel

/-- The fall of PWR_OK stops the device (R363). -/
theorem test_power_falls : after (exec .pwrOkFall ready) (fun t => t.hub.stopped && !t.hub.ready && decide (t.links = [])) = true := by
  decide +kernel

/-- A second lane failure makes a link FAILED (R222). -/
theorem test_second_lane : after (exec (.laneFailure l0 1) (lk { up with spareIn := true, spareFor := 2 })) (fun t =>
    decide ((t.link l0).state = 3)) = true := by decide +kernel

/-- An illegal opcode is a program fault in its stream (R83, R91). -/
theorem test_illegal : after (exec (.nop (sid .mov) wBad) (at' id id id (sid .mov) wBad)) (fun t =>
    decide ((t.part 1).load.state = .faulted) && (t.part 1).pfault.valid) = true := by decide +kernel

/-- A second copy of an acknowledgement returns no credits again (R208). -/
theorem test_second_copy : after (exec (.ackReceive l0 0 ⟨[7], Claims.firstCopy⟩) (lk { up with credit1 := 20 })) (fun t =>
    after (exec (.ackReceive l0 0 ⟨[7], { no := .second, ok := true }⟩) t) (fun u => decide ((u.link l0).credit1 = 27))) = true := by
  decide +kernel

/-- The deadbolt counts, and sets its alert (R315, R316). -/
theorem test_deadbolt : after (exec (.deadbolt 3 1 ⟨2, none⟩) ready) (fun t =>
    decide (t.hub.dbCause = 3) && decide (t.hub.dbCount = 1) && bit t.hub.alert 0) = true := by decide +kernel

/-! ### Published vectors of the algorithms that the specification names -/

theorem test_sha256_empty : sha256 [] = leBytes 32 emptySha := by decide +kernel
/-- Philox4x32-10 of a zero counter under a zero key. -/
theorem test_philox : philox ⟨0, 0, 0, 0⟩ 0 0 = ⟨0x6627E8D5, 0xE169C58D, 0xBC57AC4C, 0x9B00DBD8⟩ := by decide +kernel
theorem test_p384_generator : p384On p384G = true ∧ (p384Mul p384N p384G).z = 0 := by decide +kernel

/-! ### Ill-formed commands -/

theorem test_wf_refuses_partition : Instr.wf (.loadDone 32) = false ∧ Instr.wf (.loadDone 31) = true := by decide
theorem test_wf_refuses_function : Instr.wf (.dump (.vf 32)) = false ∧ Instr.wf (.dump (.vf 31)) = true := by decide
theorem test_wf_refuses_link : Instr.wf (.flitSend ⟨4, 0⟩) = false ∧ Instr.wf (.flitSend ⟨3, 24⟩) = false ∧
    Instr.wf (.flitSend ⟨3, 23⟩) = true := by decide
theorem test_wf_refuses_stream_rank : Instr.wf (.nop { part := 1, own := 8, kind := .mov, unit := 0 } wNop) = false := by decide
theorem test_wf_refuses_stream_partition : Instr.wf (.nop { part := 32, own := 0, kind := .mov, unit := 0 } wNop) = false := by decide
theorem test_wf_refuses_stream_unit : Instr.wf (.nop { part := 1, own := 0, kind := .cell0, unit := 80 } wNop) = false ∧
    Instr.wf (.nop { part := 1, own := 0, kind := .clx, unit := 4 } wNop) = false ∧
    Instr.wf (.nop { part := 1, own := 0, kind := .hdma, unit := 16 } wNop) = false := by decide
theorem test_wf_refuses_column : (∀ e, Instr.wf (.snapshotDrainPage 1 20 e) = false) ∧ Instr.wf (.shadowRateWrite .pf 20 0) = false := ⟨fun _ => rfl, by decide⟩
theorem test_wf_refuses_channel : Instr.wf (.refreshPosition 19 68) = false ∧ Instr.wf (.refreshPosition 19 67) = true := by decide
theorem test_wf_refuses_spare : ∀ c, Instr.wf (.shadowCompareEnd 0 15 c) = false := by intro c; rfl
theorem test_wf_refuses_hasp : Instr.wf (.haspStrikeComplete 4096) = false := by decide
theorem test_wf_refuses_lane : Instr.wf (.laneFailure l0 5) = false ∧ Instr.wf (.laneSymbolReceive l0 ⟨5, Claims.firstCopy⟩) = false := by decide
theorem test_wf_refuses_bad_block : Instr.wf (.scrubPosition 0 0 [badBlock [(76, 1)]]) = false ∧
    Instr.wf (.scrubPosition 0 0 (List.replicate 5 (badBlock []))) = false := by decide
theorem test_wf_refuses_port : Instr.wf (.pciePortUp 2) = false ∧ Instr.wf (.configRequest 2 .pf) = false := by decide
theorem test_wf_refuses_aperture_size : Instr.wf (.apertureAccess 0 0 none) = false ∧ Instr.wf (.apertureAccess 0 9 none) = false := by
  decide
theorem test_wf_refuses_virtual_function : Instr.wf (.vfFlr 32) = false ∧ Instr.wf (.vfEnableClear true 33) = false := by decide
theorem test_wf_refuses_queue : Instr.wf (.doorbell .pf 65536 0) = false := by decide
theorem test_wf_refuses_quarter : Instr.wf (.quarterReset .pf 80) = false ∧ Instr.wf (.quarterRunEnd 0 4 []) = false := by decide
theorem test_wf_refuses_link_die : Instr.wf (.linkDieReset .pf 4) = false ∧ Instr.wf (.serdesAdaptationEnd 4) = false := by decide
theorem test_wf_refuses_filter_block : Instr.wf (.filterSetApply 24) = false ∧ Instr.wf (.filterSetWrite .pf 24 0 0) = false := by
  decide
theorem test_wf_refuses_vector : Instr.wf (.msixUnmask .pf 64) = false := by decide
theorem test_wf_refuses_spi_counts : Instr.wf (.spiRead 0 0 0) = false ∧ Instr.wf (.spiRead 0 65537 0) = false ∧
    Instr.wf (.spiWrite 0 []) = false := by decide

end Sys2Proof.Tests
end

/-! ## The machine as a whole: the queue and the fuses -/

namespace Sys2Proof.Machine

/-- Settles O1: `step` matches on the queue, whose front here is `c`. -/
theorem stepTakesTheFront : Obligations.StepTakesTheFront := by
  intro c rest s
  rfl

/-- Settles O4: a command's next state comes from a list of elementary effects, none of which writes the fuses or the queue. -/
theorem fusesAndQueueAreLeftAlone : Obligations.FusesAndQueueAreLeftAlone := by
  intro c s t h
  obtain ⟨es, rfl⟩ := exec_effects h
  exact ⟨applyAll_fuses es s, applyAll_pending es s⟩

end Sys2Proof.Machine

/-! ## Reads and what they leave behind (R5, R36, R37, R350, R358) -/

namespace Sys2Proof.Machine

section Reads
variable {s : State} {fn : Fn} {a : Nat} {v : BitVec 32}

/-! ### A function with the rights of the physical function reads the map itself -/

theorem mapOffset_of_isPf (h : isPf fn = true) (a : Nat) : mapOffset fn a = some a := by
  cases fn with
  | vf k => cases h
  | pf | mgmt | peer => rfl

theorem busVal_of_isPf (h : isPf fn = true) (s : State) (a : Nat) : busVal s fn a = regVal s fn a := by
  cases fn with
  | vf k => cases h
  | pf | mgmt | peer => rfl

theorem fnIdx_of_isPf (h : isPf fn = true) : fnIdx fn = 0 := by
  cases fn with
  | vf k => cases h
  | pf | mgmt | peer => rfl

theorem not_stopped_and_fnThere_of_reaches (h : reaches s fn a = true) : s.hub.stopped = false ∧ fnThere s fn = true := by
  simp only [reaches, Bool.and_eq_true, Bool.not_eq_true'] at h
  exact h.1

/-! ### The data of a read -/

/-- The state after the data and the completion of a read have gone out. -/
def State.answered (s : State) (data : BitVec 32) : State :=
  { s with out := { s.out with data := data.setWidth 64, unsupported := false } }

/-- What an action does to a state rests on its effects there alone. -/
theorem Act.run_congr {x y : Act} (h : x s = y s) : x.run s = y.run s := congrArg (applyAll · s) h

/-- A read that is served sends the register's value out and then acts as `readEffect` says. -/
theorem readAct_run_of_serves (h : Claims.Serves s fn a) :
    (readAct fn a).run s = (readEffect fn a).run (s.answered (regVal s fn a)) := by
  obtain ⟨hpf, hr⟩ := h
  obtain ⟨hstop, hfn⟩ := not_stopped_and_fnThere_of_reaches hr
  have hread : busRead s fn a = regVal s fn a := by rw [busRead, if_pos hr, busVal_of_isPf hpf]
  have hserved : reaches (s.answered (regVal s fn a)) fn a = true := hr
  calc (readAct fn a).run s
      = (Act.all [modOut (fun o => { o with data := (regVal s fn a).setWidth 64, unsupported := false }),
          busReadEffect fn a]).run s := Act.run_congr (by simp only [readAct, hstop, hread, hfn]; rfl)
    _ = (busReadEffect fn a).run (s.answered (regVal s fn a)) := by
        rw [Act.run_all_cons, Act.run_all_cons, Act.run_all_nil]; rfl
    _ = (readEffect fn a).run (s.answered (regVal s fn a)) := by
        rw [busReadEffect, Act.run_when, if_pos hserved, mapOffset_of_isPf hpf]

/-! ### The effects of a read -/

/-- The latches after the low word at `a` has been read, whose high word is `v`. -/
def Pcie.latchFor (p : Pcie) (fn : Fn) (a : Nat) (v : BitVec 32) : Pcie :=
  { p with latches := Tab.set 0 p.latches (latchKey fn (a + 4)) v }

/-- The low word of a register that is no counter: its high word is latched, and nothing else changes (R36, R37). -/
theorem readEffect_run_of_latch (hl : latchHigh s fn a = some v) (hc : counterHere s a = none) (ha : a ≠ 0x5000000) :
    (readEffect fn a).run s = { s with pcie := s.pcie.latchFor fn a v } := by
  have hs : readEffect fn a s = Act.all [modPcie (fun p => p.latchFor fn a v), Act.skip, Act.skip] s := by
    simp only [readEffect, hl, hc, ite_self, beq_eq_false_iff_ne.2 ha]; rfl
  rw [Act.run_congr hs]
  simp only [Act.run_all_cons, Act.run_all_nil, Act.run_skip, modPcie_run]; rfl

/-- The low word of a counter: its high word is latched, and the time at which it is sampled is stamped (R350, R358). -/
theorem readEffect_run_of_counter {c : Nat × Nat} (hpf : isPf fn = true) (hl : latchHigh s fn a = some v) (h8 : a % 8 = 0)
    (hc : counterHere s a = some c) (ha : a ≠ 0x5000000) :
    (readEffect fn a).run s = { s with
      pcie := s.pcie.latchFor fn a v
      pmc := { s.pmc with rstamp := Tab.set 0 s.pmc.rstamp (fnLatch fn) (sampleTime s c.2) } } := by
  have hs : readEffect fn a s = Act.all [modPcie (fun p => p.latchFor fn a v),
      modPmc (fun p => { p with rstamp := Tab.set 0 p.rstamp (fnLatch fn) (sampleTime s c.2) }), Act.skip] s := by
    simp only [readEffect, hl, h8, hc, hpf, if_true, beq_eq_false_iff_ne.2 ha]; rfl
  rw [Act.run_congr hs]
  simp only [Act.run_all_cons, Act.run_all_nil, Act.run_skip, modPcie_run, modPmc_run]; rfl

/-- `MGMT_ERR` latches and stamps nothing, and its four counts are cleared (R5, R396). -/
theorem readEffect_run_mgmtErr (fn : Fn) (s : State) : (readEffect fn 0x5000000).run s =
    { s with mgmt := { s.mgmt with frame := 0, short := 0, overrun := 0, badcmd := 0 } } := rfl

/-! ### The map at the registers that latch -/

theorem counterHere_eq_none_of_lt (h : a < 0x500000) (s : State) : counterHere s a = none := by
  rw [counterHere, if_neg (by omega), counterIn, if_pos (.inl h)]

theorem regVal_hallLow (s : State) (fn : Fn) : regVal s fn 0x100008 = lo32 s.tim.hall := rfl

theorem latchHigh_hallLow (s : State) (fn : Fn) : latchHigh s fn 0x100008 = some (hi32 s.tim.hall) := rfl

/-- Offset of register `r` of `TIM_DOM[n]` (R37). -/
def domOffset (n r : Nat) : Nat := 0x101000 + n * 0x40 + r

/-- The register at `r` of `TIM_DOM[n]` is there in the map, with the latched word of its own offset. -/
theorem regVal_domOffset {n r : Nat} (hn : n < 32) (hr : r < 0x40) : regVal s fn (domOffset n r) =
    domReg s n r (Tab.get 0 s.pcie.latches (latchKey fn (domOffset n r))) := by
  have hslot : (domOffset n r - 0x100000 - 0x1000) / 0x40 = n ∧ (domOffset n r - 0x100000) % 0x40 = r ∧
      0x101000 ≤ domOffset n r ∧ domOffset n r < 0x101800 := by unfold domOffset; omega
  obtain ⟨hidx, hreg, hlo, hhi⟩ := hslot
  simp (disch := omega) only [regVal, timReg, if_neg, if_pos, hidx, hreg]

/-- The 64 bit registers of `TIM_DOM[n]` whose low word a read latches the high word of: ORIGIN, HELD_TOTAL and PSC (R37). -/
def domWide (s : State) (n r : Nat) : Option (BitVec 64) :=
  let d := s.dom n
  if r = 8 then some d.origin else if r = 0x10 then some (d.heldNow s.tim.hall) else if r = 0x18 then some d.psc else none

theorem latchHigh_domOffset {n r : Nat} (hn : n < 32) (hr : r < 0x40) :
    latchHigh s fn (domOffset n r) = (domWide s n r).map hi32 := by
  have hslot : (domOffset n r - 0x101000) / 0x40 = n ∧ domOffset n r % 0x40 = r ∧
      0x101000 ≤ domOffset n r ∧ domOffset n r < 0x101800 := by unfold domOffset; omega
  obtain ⟨hidx, hreg, hlo, hhi⟩ := hslot
  simp (disch := omega) only [latchHigh, if_neg, if_pos, hidx, hreg]
  simp only [domWide, apply_ite (Option.map hi32), Option.map_some, Option.map_none]

theorem domWide_eq_some {n r : Nat} {w : BitVec 64} (hw : domWide s n r = some w) :
    (r = 8 ∧ w = (s.dom n).origin) ∨ (r = 0x10 ∧ w = (s.dom n).heldNow s.tim.hall) ∨ (r = 0x18 ∧ w = (s.dom n).psc) := by
  by_cases h8 : r = 8
  · rw [domWide, if_pos h8] at hw
    exact .inl ⟨h8, (Option.some.inj hw).symm⟩
  · by_cases h10 : r = 0x10
    · rw [domWide, if_neg h8, if_pos h10] at hw
      exact .inr (.inl ⟨h10, (Option.some.inj hw).symm⟩)
    · by_cases h18 : r = 0x18
      · rw [domWide, if_neg h8, if_neg h10, if_pos h18] at hw
        exact .inr (.inr ⟨h18, (Option.some.inj hw).symm⟩)
      · rw [domWide, if_neg h8, if_neg h10, if_neg h18] at hw
        cases hw

theorem domReg_eq_lo32 {n r : Nat} {w : BitVec 64} (hw : domWide s n r = some w) (latched : BitVec 32) :
    domReg s n r latched = lo32 w := by
  obtain ⟨rfl, rfl⟩ | ⟨rfl, rfl⟩ | ⟨rfl, rfl⟩ := domWide_eq_some hw
  · rfl
  · rfl
  · rfl

theorem aligned_of_domWide {n r : Nat} {w : BitVec 64} (hw : domWide s n r = some w) : r % 4 = 0 ∧ r < 0x40 := by
  have hr := domWide_eq_some hw
  omega

/-! ### The map at the counters (R351) -/

/-- Where the map has a counter: within the PMC block, on a die that is there. -/
theorem counterHere_eq_some {c : Nat × Nat} (hc : counterHere s a = some c) :
    ¬ (0x560000 ≤ a ∧ a < 0x568000 ∧ absentDie s ((a - 0x560000) / 0x2000)) ∧ 0x500000 ≤ a ∧ a < 0x800000 ∧
    counterAt (a - 0x500000) = some c := by
  by_cases hdie : 0x560000 ≤ a ∧ a < 0x568000 ∧ absentDie s ((a - 0x560000) / 0x2000)
  · rw [counterHere, if_pos hdie] at hc
    cases hc
  · rw [counterHere, if_neg hdie, counterIn] at hc
    by_cases hout : a < 0x500000 ∨ 0x800000 ≤ a
    · rw [if_pos hout] at hc
      cases hc
    · rw [if_neg hout] at hc
      exact ⟨hdie, by omega, by omega, hc⟩

theorem regVal_counter {c : Nat × Nat} (hc : counterHere s a = some c) (h8 : a % 8 = 0) :
    regVal s fn a = (counterVal s (fnIdx fn != 0) c.1).setWidth 32 := by
  obtain ⟨hdie, hlo, hhi, hat⟩ := counterHere_eq_some hc
  have hthere : ¬ (0x60000 ≤ a - 0x500000 ∧ a - 0x500000 < 0x68000 ∧
      absentDie s ((a - 0x500000 - 0x60000) / 0x2000) = true) := by
    rintro ⟨h1, h2, h3⟩
    exact hdie ⟨by omega, by omega, by rwa [Nat.sub_sub] at h3⟩
  simp (disch := omega) only [regVal, if_neg, if_pos, pmcReg, hthere, hat, if_false]

theorem latchHigh_counter {c : Nat × Nat} (hc : counterHere s a = some c) (h8 : a % 8 = 0) :
    latchHigh s fn a = some (((counterVal s (fnIdx fn != 0) c.1) >>> 32).setWidth 32) := by
  obtain ⟨-, hlo, -, hat⟩ := counterHere_eq_some hc
  have hstamp : a ≠ 0x5F0000 := by rintro rfl; cases hat
  simp (disch := omega) only [latchHigh, if_neg, if_pos, if_false, hc, hstamp, Option.map_some]

theorem isCounter_of_counterHere {c : Nat × Nat} (hpf : isPf fn = true) (hc : counterHere s a = some c) (h8 : a % 8 = 0) :
    isCounter fn a = true := by
  obtain ⟨-, hlo, hhi, hat⟩ := counterHere_eq_some hc
  rw [isCounter, mapOffset_of_isPf hpf, Option.bind_some, counterIn, if_neg (by omega), hat, h8]; rfl

theorem counterHere_hub {e : Nat} (he : e < 256) (s : State) : counterHere s (0x580000 + 8 * e) = some (ctrHub e, 0) := by
  have hidx : (0x580000 + 8 * e - 0x500000 - 0x80000) / 8 = e := by omega
  simp (disch := omega) only [counterHere, counterIn, counterAt, if_neg, if_pos, hidx]

theorem counterHere_col {c e : Nat} (hc : c < 20) (he : e < 0xC0) (s : State) :
    ∃ far, counterHere s (0x500000 + c * 0x1000 + 8 * e) = some (ctrCol c e, far) := by
  have hidx : (0x500000 + c * 0x1000 + 8 * e - 0x500000) / 0x1000 = c ∧
      (0x500000 + c * 0x1000 + 8 * e - 0x500000) % 0x1000 = 8 * e ∧ 8 * e / 8 = e := by omega
  obtain ⟨hcol, hoff, hctr⟩ := hidx
  simp (disch := omega) only [counterHere, counterIn, counterAt, if_neg, if_pos, hcol, hoff, hctr]
  exact ⟨_, rfl⟩

/-! ### The commands that read -/

theorem execHallTimeRead_of_not_isPf (h : isPf fn = false) (s : State) : execHallTimeRead fn s = .next s := by
  rw [execHallTimeRead, h, Act.run_guard_false]

theorem execHallTimeRead_of_serves (h : Claims.Serves s fn 0x100008) : execHallTimeRead fn s =
    .next { s.answered (lo32 s.tim.hall) with pcie := s.pcie.latchFor fn 0x100008 (hi32 s.tim.hall) } := by
  rw [execHallTimeRead, h.1, Act.run_guard_true, readAct_run_of_serves h, regVal_hallLow,
    readEffect_run_of_latch (latchHigh_hallLow _ fn) (counterHere_eq_none_of_lt (by decide) _) (by decide)]
  rfl

theorem execLowWordRead_dom {n r : Nat} {w : BitVec 64} (hn : n < 32) (hw : domWide s n r = some w)
    (h : Claims.Serves s fn (domOffset n r)) : execLowWordRead fn (BitVec.ofNat 32 (domOffset n r)) s =
      .next { s.answered (lo32 w) with pcie := s.pcie.latchFor fn (domOffset n r) (hi32 w) } := by
  obtain ⟨halign, hr⟩ := aligned_of_domWide hw
  have hoff : domOffset n r < 0x101800 ∧ domOffset n r % 4 = 0 := by unfold domOffset; omega
  obtain ⟨hlt, h4⟩ := hoff
  have hnat : (BitVec.ofNat 32 (domOffset n r)).toNat = domOffset n r := by
    rw [BitVec.toNat_ofNat, Nat.mod_eq_of_lt (by omega)]
  have hhigh : ∀ d, latchHigh (s.answered d) fn (domOffset n r) = some (hi32 w) := fun d => by
    rw [latchHigh_domOffset hn hr, show domWide (s.answered d) n r = some w from hw, Option.map_some]
  have hserved : (mapOffset fn (domOffset n r)).bind (latchHigh s fn) = some (hi32 w) := by
    rw [mapOffset_of_isPf h.1, Option.bind_some, latchHigh_domOffset hn hr, hw, Option.map_some]
  rw [execLowWordRead, hnat, Act.run_when, if_pos (by rw [h4, hserved]; rfl), readAct_run_of_serves h,
    regVal_domOffset hn hr, domReg_eq_lo32 hw,
    readEffect_run_of_latch (hhigh _) (counterHere_eq_none_of_lt (by omega) _) (by omega)]
  rfl

theorem execPmcCounterRead_of_serves {off : BitVec 32} {k far : Nat} (h : Claims.Serves s fn off.toNat)
    (h8 : off.toNat % 8 = 0) (hc : counterHere s off.toNat = some (k, far)) : execPmcCounterRead fn off s =
      .next { s.answered ((counterVal s false k).setWidth 32) with
        pcie := s.pcie.latchFor fn off.toNat ((counterVal s false k >>> 32).setWidth 32)
        pmc := { s.pmc with rstamp := Tab.set 0 s.pmc.rstamp (fnLatch fn) (sampleTime s far) } } := by
  obtain ⟨-, -, hhi, -⟩ := counterHere_eq_some hc
  have hpf : (fnIdx fn != 0) = false := by rw [fnIdx_of_isPf h.1]; rfl
  have hhigh : ∀ d, latchHigh (s.answered d) fn off.toNat = some ((counterVal s false k >>> 32).setWidth 32) := fun d => by
    rw [latchHigh_counter (s := s.answered d) (c := (k, far)) hc h8, hpf]; rfl
  rw [execPmcCounterRead, isCounter_of_counterHere h.1 hc h8, Act.run_guard_true, readAct_run_of_serves h,
    regVal_counter hc h8, hpf, readEffect_run_of_counter (c := (k, far)) h.1 (hhigh _) h8 hc (by omega)]
  rfl

/-- `MGMT_ERR` reads as its four counts, one to a byte (R396). -/
theorem setWidth_regVal_mgmtErr (s : State) (fn : Fn) : (regVal s fn 0x5000000).setWidth 64 = BitVec.ofNat 64
    (s.mgmt.frame.toNat * 2 ^ 24 + s.mgmt.short.toNat * 2 ^ 16 + s.mgmt.overrun.toNat * 2 ^ 8 + s.mgmt.badcmd.toNat) := by
  have hval : regVal s fn 0x5000000 = w32 [(24, s.mgmt.frame.toNat), (16, s.mgmt.short.toNat),
    (8, s.mgmt.overrun.toNat), (0, s.mgmt.badcmd.toNat)] := rfl
  rw [hval]
  simp only [w32, pack, List.foldl_cons, List.foldl_nil]
  bv_omega

/-- The value read is a variable `d` here: the kernel would otherwise compute it when it compares the fields of the two states. -/
theorem execRcRegisterRead_mgmtErr {d : BitVec 32} (h : Claims.Serves s fn 0x5000000) (hd : regVal s fn 0x5000000 = d) :
    execRcRegisterRead fn 0x5000000 s = .next { s.answered d with
      mgmt := { s.mgmt with frame := 0, short := 0, overrun := 0, badcmd := 0 } } := by
  have hnat : (0x5000000 : BitVec 32).toNat = 0x5000000 := by decide
  rw [execRcRegisterRead, hnat, mapOffset_of_isPf h.1, beq_self_eq_true, Act.run_guard_true, readAct_run_of_serves h,
    hd, readEffect_run_mgmtErr]
  rfl

end Reads

/-- Settles O58: each kind of read acts as the lemma about its command says. -/
theorem readsLatchStampAndClear : Obligations.ReadsLatchStampAndClear := by
  intro s fn _ _
  refine ⟨fun h => execHallTimeRead_of_not_isPf h s, fun h => ⟨_, execHallTimeRead_of_serves h, rfl, rfl, rfl⟩,
    fun n hn => ⟨?origin, ?heldTotal, ?psc⟩, ?counter, fun e he => counterHere_hub he s,
    fun c hc e he => counterHere_col hc he s, ?mgmtErr⟩
  case origin | heldTotal | psc => exact fun h => ⟨_, execLowWordRead_dom hn rfl h, rfl, rfl, rfl⟩
  case counter => exact fun off k far h h8 hc => ⟨_, execPmcCounterRead_of_serves h h8 hc, rfl, rfl, rfl, rfl⟩
  case mgmtErr =>
    intro h
    obtain ⟨d, hd⟩ : ∃ d, regVal s fn 0x5000000 = d := ⟨_, rfl⟩
    have hdata := setWidth_regVal_mgmtErr s fn
    rw [hd] at hdata
    exact ⟨_, execRcRegisterRead_mgmtErr h hd, rfl,
      congrArg ({ s.out with data := ·, unsupported := false }) hdata, rfl⟩

end Sys2Proof.Machine

/-! ## Passes of a multiply and shadow comparisons (R70, R71, R122, R309) -/

namespace Sys2Proof.Machine

section PassesAndComparisons
variable {s : State} {n id c spare : Nat}

/-! ### The units that an action leaves alone -/

section Uses
variable {ks : List Kind} {a : Act} (ha : a.uses ks)
include ha

theorem Act.run_part_of_uses (h : .part ∉ ks) (s : State) (m : Nat) : (a.run s).part m = s.part m := by
  rw [State.part, Act.run_parts ha h]; rfl
theorem Act.run_dom_of_uses (h : .dom ∉ ks) (s : State) (m : Nat) : (a.run s).dom m = s.dom m := by
  rw [State.dom, Act.run_doms ha h]; rfl
theorem Act.run_cell_of_uses (h : .cell ∉ ks) (s : State) (m : Nat) : (a.run s).cell m = s.cell m := by
  rw [State.cell, Act.run_cells ha h]; rfl
theorem Act.run_col_of_uses (h : .col ∉ ks) (s : State) (m : Nat) : (a.run s).col m = s.col m := by
  rw [State.col, Act.run_cols ha h]; rfl

end Uses

/-! ### The unit that an update writes -/

theorem setPasses_run_part {q : Passes} (w : s.wf = true) (m : Nat) : ((setPasses n id q).run s).part m =
    if m = n then { s.part n with run := { (s.part n).run with
      ops := (s.part n).run.ops.map (fun x => if x.id == id then { x with passes := some q } else x) } }
    else s.part m :=
  part_set w

theorem setPasses_run_dom {q : Passes} (m : Nat) : ((setPasses n id q).run s).dom m = s.dom m := rfl

theorem setPasses_run_cell {q : Passes} (m : Nat) : ((setPasses n id q).run s).cell m = s.cell m := rfl

theorem modDom_run_dom {f : Dom → Dom} (w : s.wf = true) (m : Nat) :
    ((modDom n f).run s).dom m = if m = n then f (s.dom n) else s.dom m := dom_set w

theorem count_run_dom {k j : Nat} (m : Nat) : ((count k j).run s).dom m = s.dom m := rfl

theorem count_run_cell {k j : Nat} (m : Nat) : ((count k j).run s).cell m = s.cell m := rfl

theorem modCell_run_cell {f : Cell → Cell} (w : s.wf = true) (m : Nat) :
    ((modCell n f).run s).cell m = if m = n then f (s.cell n) else s.cell m := cell_set w

theorem modCol_run_col {f : Col → Col} (w : s.wf = true) (m : Nat) :
    ((modCol n f).run s).col m = if m = n then f (s.col n) else s.col m := col_set w

/-- A domain slot that keeps its stalls, in the form in which a change of the stalls is stated. -/
theorem dom_eq_ite_stalls (s : State) (n m : Nat) :
    s.dom m = if m = n then { s.dom m with stalls := (s.dom n).stalls } else s.dom m := by
  split
  · next h => rw [h]
  · rfl

theorem stall_run_dom {cause : StallCause} (w : s.wf = true) (hnew : (s.dom n).stalls.contains (cause, id) = false)
    (m : Nat) : ((stall n cause id).run s).dom m =
      if m = n then { s.dom m with stalls := (s.dom n).stalls ++ [(cause, id)] } else s.dom m := by
  rw [stall, modDom_run_dom w, hnew, if_neg Bool.false_ne_true]
  exact ite_congr rfl (fun h => by rw [h]) (fun _ => rfl)

theorem unstall_run_dom {cause : StallCause} (w : s.wf = true) (m : Nat) : ((unstall n cause id).run s).dom m =
    if m = n then { s.dom m with stalls := (s.dom n).stalls.filter (fun e => e != (cause, id)) } else s.dom m := by
  rw [unstall, modDom_run_dom w]
  exact ite_congr rfl (fun h => by rw [h]) (fun _ => rfl)

theorem unstall_run_cell {cause : StallCause} (m : Nat) : ((unstall n cause id).run s).cell m = s.cell m := rfl

/-- A cell whose pass has repeated `k` times, with one repeat more counted (R71). -/
def Cell.repeated (x : Cell) (k : Nat) : Cell := { x with
  retryPass := satAdd x.retryPass 1, maxRepeat := BitVec.ofNat 8 (max x.maxRepeat.toNat k) }

theorem countRepeat_run_cell {cell k : Nat} (w : s.wf = true) (m : Nat) :
    ((countRepeat n cell k).run s).cell m = if m = cell then (s.cell m).repeated k else s.cell m := by
  have hcell : ((countRepeat n cell k).run s).cell m = if m = cell then (s.cell cell).repeated k else s.cell m :=
    cell_set w
  rw [hcell]
  exact ite_congr rfl (fun h => by rw [h]) (fun _ => rfl)

theorem countRepeat_run_dom {cell k : Nat} (m : Nat) : ((countRepeat n cell k).run s).dom m = s.dom m := rfl

theorem countRepeat_uses {cell k : Nat} : (countRepeat n cell k).uses [.dom, .cell, .pmc] :=
  Act.within_all_cons (modCell_within (by simp [Eff.kind])) (Act.within_all_cons (count_within (by simp [Eff.kind]))
    (Act.within_all_cons (count_within (by simp [Eff.kind])) Act.within_all_nil))

/-! ### A pass ends (R70, R122) -/

section Pass
variable {o : Op} {p : Passes} {k : Nat}

/-- The pass in progress of operation `o` repeats `k` times, and PSC has reached its end. -/
structure PassDue (s : State) (n : Nat) (o : Op) (p : Passes) (k : Nat) : Prop where
  found : (s.part n).run.ops.find? (fun x => x.id == o.id) = some o
  passes : o.passes = some p
  repeats : p.repeats[p.idx]? = some k
  due : passEnd o p ≤ (s.dom n).psc.toNat

/-- The hall time one pass after `t`. -/
def Passes.after (p : Passes) (t : BitVec 64) : BitVec 64 := t + BitVec.ofNat 64 (p.time * 10)

theorem passEvent_of_due (h : PassDue s n o p k) : passEvent n o.id s =
    if p.owed = 0 then
      (if k = 0 then setPasses n o.id { p with idx := p.idx + 1 } s
       else Act.all [setPasses n o.id { p with owed := k, endAt := p.after s.tim.hall }, stall n .retry o.id] s)
    else if s.tim.hall.toNat < p.endAt.toNat then []
    else if p.owed = 1 then Act.all [setPasses n o.id { p with idx := p.idx + 1, owed := 0 },
      countRepeat n p.cell k, unstall n .retry o.id] s
    else Act.all [setPasses n o.id { p with owed := p.owed - 1, endAt := p.after p.endAt }, countRepeat n p.cell k] s := by
  simp only [passEvent, h.found, h.passes, h.repeats, if_neg (Nat.not_lt.2 h.due), Passes.after]

/-- What the end of a pass changes: the operation's passes, the partition's stalls and, where a repeat ends (`rep`), its cell. -/
def PassMoved (s : State) (n : Nat) (o : Op) (p : Passes) (k : Nat) (q : Passes) (stalls : List (StallCause × Nat))
    (rep : Bool) (t : State) : Prop :=
  (t.part n).run = { (s.part n).run with ops := (s.part n).run.ops.map (fun x =>
    if x.id == o.id then { x with passes := some q } else x) } ∧
  (∀ m, m ≠ n → t.part m = s.part m) ∧ (∀ m, t.dom m = if m = n then { s.dom m with stalls := stalls } else s.dom m) ∧
  (∀ m, t.cell m = if rep = true ∧ m = p.cell then (s.cell m).repeated k else s.cell m) ∧
  t = { s with parts := t.parts, doms := t.doms, cells := t.cells, pmc := t.pmc }

/-- An action that writes only domain slots, cells and counters. -/
theorem Act.run_stalls_and_cells {a : Act} (ha : a.uses [.dom, .cell, .pmc]) (s : State) :
    a.run s = { s with doms := (a.run s).doms, cells := (a.run s).cells, pmc := (a.run s).pmc } := by
  have hrest := Act.run_rest (Act.uses_mono (by decide) ha) s
  rwa [Act.run_flt ha (by decide), Act.run_free ha (by decide), Act.run_parts ha (by decide),
    Act.run_queues ha (by decide)] at hrest

/-- `setPasses` writes the operation, and what follows it the stalls and the cell. -/
theorem passMoved_run {q : Passes} {stalls : List (StallCause × Nat)} {rep : Bool} {a : Act} (w : s.wf = true)
    (ha : a.uses [.dom, .cell, .pmc])
    (hdom : ∀ m, (a.run ((setPasses n o.id q).run s)).dom m = if m = n then { s.dom m with stalls := stalls } else s.dom m)
    (hcell : ∀ m, (a.run ((setPasses n o.id q).run s)).cell m =
      if rep = true ∧ m = p.cell then (s.cell m).repeated k else s.cell m) :
    PassMoved s n o p k q stalls rep (a.run ((setPasses n o.id q).run s)) := by
  have hparts := Act.run_parts ha (by decide) ((setPasses n o.id q).run s)
  have hpart := Act.run_part_of_uses ha (by decide) ((setPasses n o.id q).run s)
  refine ⟨?_, fun m hm => ?_, hdom, hcell, ?_⟩
  · rw [hpart, setPasses_run_part w, if_pos rfl]
  · rw [hpart, setPasses_run_part w, if_neg hm]
  · rw [hparts]
    exact Act.run_stalls_and_cells ha _

/-- A pass with no overflow gives way to the next. -/
theorem passEvent_gives_way (w : s.wf = true) (h : PassDue s n o p k) (howed : p.owed = 0) (hk : k = 0) :
    PassMoved s n o p k { p with idx := p.idx + 1 } (s.dom n).stalls false ((passEvent n o.id).run s) := by
  have ha : passEvent n o.id s = setPasses n o.id { p with idx := p.idx + 1 } s := by
    rw [passEvent_of_due h, if_pos howed, if_pos hk]
  rw [Act.run_congr ha]
  exact passMoved_run (a := Act.skip) w Act.within_skip (dom_eq_ite_stalls s n) (fun _ => rfl)

/-- A pass with overflow owes its repeats, and the partition stalls. -/
theorem passEvent_stalls (w : s.wf = true) (h : PassDue s n o p k) (howed : p.owed = 0) (hk : k ≠ 0)
    (hnew : (s.dom n).stalls.contains (.retry, o.id) = false) :
    PassMoved s n o p k { p with owed := k, endAt := p.after s.tim.hall } ((s.dom n).stalls ++ [(.retry, o.id)]) false
      ((passEvent n o.id).run s) := by
  have ha : passEvent n o.id s = Act.all [setPasses n o.id { p with owed := k, endAt := p.after s.tim.hall },
      stall n .retry o.id] s := by
    rw [passEvent_of_due h, if_pos howed, if_neg hk]
  rw [Act.run_congr ha, Act.run_all_cons]
  refine passMoved_run w (Act.within_all_cons (stall_within (by simp [Eff.kind])) Act.within_all_nil)
    (fun m => ?_) (fun _ => rfl)
  rw [Act.run_all_cons, Act.run_all_nil, stall_run_dom (Act.run_wf w) hnew, setPasses_run_dom, setPasses_run_dom]

/-- A repeat whose pass time has not passed goes on. -/
theorem passEvent_run_of_not_elapsed (h : PassDue s n o p k) (howed : p.owed ≠ 0)
    (hend : ¬ p.endAt.toNat ≤ s.tim.hall.toNat) : (passEvent n o.id).run s = s := by
  have ha : passEvent n o.id s = Act.skip s := by
    rw [passEvent_of_due h, if_neg howed, if_pos (Nat.not_le.1 hend)]; rfl
  rw [Act.run_congr ha, Act.run_skip]

/-- The last repeat is counted, the stall ends and the next pass begins. -/
theorem passEvent_ends_stall (w : s.wf = true) (h : PassDue s n o p k) (howed : p.owed = 1)
    (hend : p.endAt.toNat ≤ s.tim.hall.toNat) :
    PassMoved s n o p k { p with idx := p.idx + 1, owed := 0 } ((s.dom n).stalls.filter (fun e => e != (.retry, o.id))) true
      ((passEvent n o.id).run s) := by
  have ha : passEvent n o.id s = Act.all [setPasses n o.id { p with idx := p.idx + 1, owed := 0 },
      countRepeat n p.cell k, unstall n .retry o.id] s := by
    rw [passEvent_of_due h, if_neg (by omega), if_neg (Nat.not_lt.2 hend), if_pos howed]
  rw [Act.run_congr ha, Act.run_all_cons]
  refine passMoved_run w (Act.within_all_cons countRepeat_uses
    (Act.within_all_cons (unstall_within (by simp [Eff.kind])) Act.within_all_nil)) (fun m => ?_) (fun m => ?_)
  · simp only [Act.run_all_cons, Act.run_all_nil]
    rw [unstall_run_dom (Act.run_wf (Act.run_wf w))]
    simp only [countRepeat_run_dom, setPasses_run_dom]
  · simp only [Act.run_all_cons, Act.run_all_nil, unstall_run_cell, countRepeat_run_cell (Act.run_wf w),
      setPasses_run_cell, true_and]

/-- A repeat that is not the last is counted, and the next one begins. -/
theorem passEvent_repeats (w : s.wf = true) (h : PassDue s n o p k) (howed : 2 ≤ p.owed)
    (hend : p.endAt.toNat ≤ s.tim.hall.toNat) :
    PassMoved s n o p k { p with owed := p.owed - 1, endAt := p.after p.endAt } (s.dom n).stalls true
      ((passEvent n o.id).run s) := by
  have ha : passEvent n o.id s = Act.all [setPasses n o.id { p with owed := p.owed - 1, endAt := p.after p.endAt },
      countRepeat n p.cell k] s := by
    rw [passEvent_of_due h, if_neg (by omega), if_neg (Nat.not_lt.2 hend), if_neg (by omega)]
  rw [Act.run_congr ha, Act.run_all_cons]
  refine passMoved_run w (Act.within_all_cons countRepeat_uses Act.within_all_nil) (fun m => ?_) (fun m => ?_)
  · simp only [Act.run_all_cons, Act.run_all_nil, countRepeat_run_dom, setPasses_run_dom]
    exact dom_eq_ite_stalls s n m
  · simp only [Act.run_all_cons, Act.run_all_nil, countRepeat_run_cell (Act.run_wf w), setPasses_run_cell, true_and]

end Pass

/-! ### Snapshots that are not draining -/

theorem snapFinish_run_of_not_draining (h : (s.part n).snap.state ≠ .draining) : (snapFinish n).run s = s := by
  have hnone : snapFinish n s = Act.skip s := by
    simp only [snapFinish, bne_iff_ne.2 h, Bool.true_or, if_true]
    cases (s.part n).obj <;> rfl
  rw [Act.run_congr hnone, Act.run_skip]

theorem snapAbort_run_of_not_draining (h : (s.part n).snap.state ≠ .draining) : (snapAbort n).run s = s := by
  have hnone : snapAbort n s = Act.skip s := by rw [snapAbort, if_pos (bne_iff_ne.2 h)]; rfl
  rw [Act.run_congr hnone, Act.run_skip]

/-! ### A comparison is counted (R309) -/

variable {r : ShadowRec}

/-- A spare whose comparison has ended, with the passes that it has repeated (R71). -/
def Cell.spared (x : Cell) (r : ShadowRec) : Cell := { x with
  role := .unbound, shadowOf := none, shadowDone := satAdd x.shadowDone 1,
  retryPass := satAdd x.retryPass r.repeats.sum,
  maxRepeat := BitVec.ofNat 8 (max x.maxRepeat.toNat (r.repeats.foldl max 0)) }

/-- A cell that a spare has been compared with. -/
def Cell.compared (x : Cell) : Cell := { x with shadowDone := satAdd x.shadowDone 1 }

/-- What every comparison's end counts: in the spare, in the cell, and in the counters. -/
def shadowCounted (c spare : Nat) (r : ShadowRec) : Act := Act.all [
  modCell (c * 18 + spare) (·.spared r), count (ctrCol c (0x12 + spare)) r.repeats.sum, modCell r.cell Cell.compared,
  count (ctrCol c (0x24 + r.cell % 18)) 1, count (ctrCol c (0x24 + spare)) 1, count (ctrBank r.part 0x11) 1]

theorem shadowEnd_run (h : (s.cell (c * 18 + spare)).shadowOf = some r) (bad : Bool) : (shadowEnd c spare bad).run s =
    (snapFinish r.part).run ((Act.guard bad (shadowMismatch c spare r)).run ((shadowCounted c spare r).run s)) := by
  have ha : shadowEnd c spare bad s = Act.all [
      modCell (c * 18 + spare) (·.spared r), count (ctrCol c (0x12 + spare)) r.repeats.sum, modCell r.cell Cell.compared,
      count (ctrCol c (0x24 + r.cell % 18)) 1, count (ctrCol c (0x24 + spare)) 1, count (ctrBank r.part 0x11) 1,
      Act.guard bad (shadowMismatch c spare r), snapFinish r.part] s := by
    simp only [shadowEnd, h]; rfl
  rw [Act.run_congr ha]
  simp only [shadowCounted, Act.run_all_cons, Act.run_all_nil]

theorem shadowCounted_run_cell (w : s.wf = true) (hne : r.cell ≠ c * 18 + spare) (m : Nat) :
    ((shadowCounted c spare r).run s).cell m = if m = c * 18 + spare then (s.cell (c * 18 + spare)).spared r
      else if m = r.cell then (s.cell m).compared else s.cell m := by
  simp only [shadowCounted, Act.run_all_cons, Act.run_all_nil, count_run_cell]
  rw [modCell_run_cell (Act.run_wf (Act.run_wf w)), count_run_cell, count_run_cell, modCell_run_cell w,
    modCell_run_cell w, if_neg hne]
  by_cases hm : m = r.cell
  · rw [if_pos hm, hm, if_neg hne, if_pos rfl]
  · rw [if_neg hm, if_neg hm]

theorem shadowCounted_uses : (shadowCounted c spare r).uses [.cell, .pmc] :=
  Act.within_all_cons (modCell_within (by simp [Eff.kind])) (Act.within_all_cons (count_within (by simp [Eff.kind]))
    (Act.within_all_cons (modCell_within (by simp [Eff.kind])) (Act.within_all_cons (count_within (by simp [Eff.kind]))
      (Act.within_all_cons (count_within (by simp [Eff.kind])) (Act.within_all_cons (count_within (by simp [Eff.kind]))
        Act.within_all_nil)))))

theorem shadowCounted_run_rest (s : State) : (shadowCounted c spare r).run s =
    { s with cells := ((shadowCounted c spare r).run s).cells, pmc := ((shadowCounted c spare r).run s).pmc } := by
  have hrest := Act.run_stalls_and_cells (Act.uses_mono (by decide) (shadowCounted_uses (c := c) (spare := spare) (r := r))) s
  rwa [Act.run_doms shadowCounted_uses (by decide)] at hrest

theorem shadowCounted_not_draining (h : (s.part r.part).snap.state ≠ .draining) :
    (((shadowCounted c spare r).run s).part r.part).snap.state ≠ .draining := by
  rwa [Act.run_part_of_uses shadowCounted_uses (by decide)]

theorem shadowCounted_run_dom (s : State) (m : Nat) : ((shadowCounted c spare r).run s).dom m = s.dom m :=
  Act.run_dom_of_uses shadowCounted_uses (by decide) s m

theorem shadowCounted_run_col (s : State) (m : Nat) : ((shadowCounted c spare r).run s).col m = s.col m :=
  Act.run_col_of_uses shadowCounted_uses (by decide) s m

/-! ### A hold is raised (R29) -/

theorem raiseHold_uses : (raiseHold n).uses [.dom, .tim, .link, .pmc] :=
  raiseHold_within (by simp [Eff.kind]) (by simp [Eff.kind]) (by simp [Eff.kind]) (by simp [Eff.kind])

theorem raiseHold_run_part (n : Nat) (s : State) (m : Nat) : ((raiseHold n).run s).part m = s.part m :=
  Act.run_part_of_uses raiseHold_uses (by decide) s m

/-- The record of a hold that the device raises now (R29). -/
def State.raiseRec (s : State) : HoldRec := {
  source := s.hub.devno, seq := s.tim.holdSeq, release := false
  effect := s.tim.hall + BitVec.ofNat 64 s.tim.lead.toNat, taken := false }

theorem sendHold_run_holds (w : s.wf = true) :
    (((sendHold n false).run s).dom n).holds = (s.dom n).holds ++ [s.raiseRec] := by
  show (((Act.all _).run s).dom n).holds = _
  rw [Act.run_all_cons, Act.run_dom_of_uses (ks := [.tim, .link]) _ (by decide), modDom_run_dom w, if_pos rfl]
  · rfl
  · exact Act.within_all_cons (modTim_within (by simp [Eff.kind])) (Act.within_all_cons (noteSeen_within (by simp [Eff.kind]))
      (Act.within_all_cons (floodSym_within (by simp [Eff.kind])) Act.within_all_nil))

/-- A partition's raise stands last among the holds of its domain (R29). -/
theorem raiseHold_run_holds (w : s.wf = true) (h : (s.dom n).active = true) :
    (((raiseHold n).run s).dom n).holds = (s.dom n).holds ++ [s.raiseRec] := by
  rw [← sendHold_run_holds w, raiseHold, Act.run_when, if_pos h]
  simp only [Act.run_all_cons, Act.run_all_nil, count_run_dom, modDom_run_dom (Act.run_wf w), if_true]

/-! ### A column's spares change (R10) -/

theorem withSpares_run (a : Act) (s : State) : (withSpares c a).run s = (sparesChanged s c).run (a.run s) := by
  have ha : withSpares c a s = Act.all [a, sparesChanged s c] s := rfl
  rw [Act.run_congr ha, Act.run_all_cons, Act.run_all_cons, Act.run_all_nil]

/-- A property of cells that every update of an action keeps holds of each cell after it. -/
theorem each_modCell_run_keeps {Q : Cell → Prop} {f : Cell → Cell} (hQ : ∀ x, Q x → Q (f x)) (g : Nat → Nat) (xs : List Nat)
    {m : Nat} (w : s.wf = true) (h : Q (s.cell m)) : Q (((Act.each xs (fun x => modCell (g x) f)).run s).cell m) := by
  induction xs generalizing s with
  | nil => exact h
  | cons x xs ih =>
    rw [Act.run_each_cons]
    refine ih (Act.run_wf w) ?_
    rw [modCell_run_cell w]
    split
    · next hm => exact hQ _ (hm ▸ h)
    · exact h

/-- A cell whose comparison ends because the spare is needed elsewhere (R10). -/
def Cell.unshadowed (x : Cell) : Cell := { x with
  shadowOf := none, role := if x.role == .shadowing then .unbound else x.role }

/-- The shadowing of a column stops, which the device counts (R10). -/
def shadowStops (c : Nat) : Act := Act.all [
  modCol c (fun x => { x with shadowStop := satAdd x.shadowStop 1 }), fltEvent c 16 .shadowStop none 1]

theorem shadowStops_uses : (shadowStops c).uses [.col, .flt, .free] :=
  Act.within_all_cons (modCol_within (by simp [Eff.kind]))
    (Act.within_all_cons (fltEvent_low_within (by decide) (by simp [Eff.kind]) (by simp [Eff.kind])) Act.within_all_nil)

theorem shadowStops_run_col (w : s.wf = true) :
    ((shadowStops c).run s).col c = { s.col c with shadowStop := satAdd (s.col c).shadowStop 1 } := by
  have hevent : (fltEvent c 16 .shadowStop none 1).uses [.flt, .free] :=
    fltEvent_low_within (by decide) (by simp [Eff.kind]) (by simp [Eff.kind])
  have hcol := modCol_run_col (n := c) (f := fun x => { x with shadowStop := satAdd x.shadowStop 1 }) w c
  rw [if_pos rfl] at hcol
  rw [← hcol, shadowStops, Act.run_all_cons, Act.run_all_cons, Act.run_all_nil, Act.run_col_of_uses hevent (by decide)]

/-- A change of the spares ends comparisons of some of them, and then may stop the column's shadowing. -/
theorem sparesChanged_run (before s : State) (c : Nat) : ∃ (stops : Bool) (ps : List Nat), (sparesChanged before c).run s =
    (Act.guard stops (shadowStops c)).run ((Act.each ps (fun p => modCell (c * 18 + p) Cell.unshadowed)).run s) := by
  obtain ⟨stops, ps, ha⟩ : ∃ (stops : Bool) (ps : List Nat), sparesChanged before c s = Act.all [
      Act.each ps (fun p => modCell (c * 18 + p) Cell.unshadowed), Act.guard stops (shadowStops c)] s := ⟨_, _, rfl⟩
  refine ⟨stops, ps, ?_⟩
  rw [Act.run_congr ha, Act.run_all_cons, Act.run_all_cons, Act.run_all_nil]

theorem unshadow_uses (ps : List Nat) : (Act.each ps (fun p => modCell (c * 18 + p) Cell.unshadowed)).uses [.cell] :=
  Act.within_each (fun _ _ => modCell_within (by simp [Eff.kind]))

theorem sparesChanged_run_dom (before s : State) (m : Nat) : ((sparesChanged before c).run s).dom m = s.dom m := by
  obtain ⟨stops, ps, hrun⟩ := sparesChanged_run before s c
  rw [hrun, Act.run_dom_of_uses (Act.within_guard shadowStops_uses) (by decide),
    Act.run_dom_of_uses (unshadow_uses ps) (by decide)]

theorem sparesChanged_run_part (before s : State) (m : Nat) : ((sparesChanged before c).run s).part m = s.part m := by
  obtain ⟨stops, ps, hrun⟩ := sparesChanged_run before s c
  rw [hrun, Act.run_part_of_uses (Act.within_guard shadowStops_uses) (by decide),
    Act.run_part_of_uses (unshadow_uses ps) (by decide)]

theorem sparesChanged_run_cell_keeps {Q : Cell → Prop} (hQ : ∀ x, Q x → Q x.unshadowed) (before : State) {m : Nat}
    (w : s.wf = true) (h : Q (s.cell m)) : Q (((sparesChanged before c).run s).cell m) := by
  obtain ⟨stops, ps, hrun⟩ := sparesChanged_run before s c
  rw [hrun, Act.run_cell_of_uses (Act.within_guard shadowStops_uses) (by decide)]
  exact each_modCell_run_keeps hQ _ _ w h

theorem sparesChanged_run_col (before : State) (w : s.wf = true) :
    ∃ k, ((sparesChanged before c).run s).col c = { s.col c with shadowStop := k } := by
  obtain ⟨stops, ps, hrun⟩ := sparesChanged_run before s c
  have hcol : ((Act.each ps (fun p => modCell (c * 18 + p) Cell.unshadowed)).run s).col c = s.col c :=
    Act.run_col_of_uses (unshadow_uses ps) (by decide) s c
  rw [hrun]
  cases stops with
  | false => exact ⟨_, hcol⟩
  | true => exact ⟨_, (shadowStops_run_col (Act.run_wf w)).trans (by rw [hcol])⟩

/-! ### A mismatch (R309, R310) -/

/-- A column that has found a mismatch of spare `spare`: the cell is fenced, and the first mismatch is captured. -/
def Col.mismatched (x : Col) (spare : Nat) (r : ShadowRec) : Col :=
  let y := { x with fenced := x.fenced ||| BitVec.ofNat 18 (2 ^ (r.cell % 18)), shadowMm := satAdd x.shadowMm 1 }
  if x.mmValid then y else { y with
    mmValid := true, mmPart := BitVec.ofNat 5 r.part, mmLqtr := BitVec.ofNat 8 r.lqtr,
    mmCell := BitVec.ofNat 5 (r.cell % 18), mmSpare := BitVec.ofNat 5 spare, mmPsc := r.psc, mmQpos := r.qpos }

theorem bit_fenced_mismatched (x : Col) : bit (x.mismatched spare r).fenced (r.cell % 18) = true := by
  have hlt : r.cell % 18 < 18 := Nat.mod_lt _ (by decide)
  have hfenced : (x.mismatched spare r).fenced = x.fenced ||| BitVec.ofNat 18 (2 ^ (r.cell % 18)) := by
    unfold Col.mismatched; cases x.mmValid <;> rfl
  rw [hfenced, bit, BitVec.getLsbD_or, BitVec.getLsbD_ofNat, Nat.testBit_two_pow_self]
  simp [hlt]

theorem shadowMm_mismatched (x : Col) : (x.mismatched spare r).shadowMm = satAdd x.shadowMm 1 := by
  unfold Col.mismatched; cases x.mmValid <;> rfl

theorem mmValid_mismatched (x : Col) : (x.mismatched spare r).mmValid = true := by
  unfold Col.mismatched
  split
  · assumption
  · rfl

theorem capture_mismatched {x : Col} (hv : x.mmValid = false) : (x.mismatched spare r).mmPsc = r.psc ∧
    (x.mismatched spare r).mmQpos = r.qpos ∧ (x.mismatched spare r).mmSpare = BitVec.ofNat 5 spare := by
  unfold Col.mismatched; rw [hv]; exact ⟨rfl, rfl, rfl⟩

theorem mmPsc_mismatched {x : Col} (hv : x.mmValid = true) : (x.mismatched spare r).mmPsc = x.mmPsc := by
  unfold Col.mismatched; rw [hv]; rfl

/-- What a mismatch marks in the cells and their column. -/
def mismatchMarks (c spare : Nat) (r : ShadowRec) : Act := Act.all [
  modCell r.cell (fun x => { x with role := .fenced, fences := x.fences + 1 }),
  modCell (c * 18 + spare) (fun x => { x with witness := true }),
  modCol c (·.mismatched spare r)]

theorem mismatchMarks_run_role (w : s.wf = true) (hne : r.cell ≠ c * 18 + spare) :
    (((mismatchMarks c spare r).run s).cell r.cell).role = .fenced := by
  have hcell := modCell_run_cell (n := c * 18 + spare) (f := fun x => { x with witness := true })
    (Act.run_wf (a := modCell r.cell (fun x => { x with role := .fenced, fences := x.fences + 1 })) w) r.cell
  rw [if_neg hne, modCell_run_cell w, if_pos rfl] at hcell
  exact congrArg Cell.role hcell

theorem mismatchMarks_run_witness (w : s.wf = true) :
    (((mismatchMarks c spare r).run s).cell (c * 18 + spare)).witness = true := by
  have hcell := modCell_run_cell (n := c * 18 + spare) (f := fun x => { x with witness := true })
    (Act.run_wf (a := modCell r.cell (fun x => { x with role := .fenced, fences := x.fences + 1 })) w) (c * 18 + spare)
  rw [if_pos rfl] at hcell
  exact congrArg Cell.witness hcell

theorem mismatchMarks_run_col (w : s.wf = true) :
    ((mismatchMarks c spare r).run s).col c = (s.col c).mismatched spare r := by
  simp only [mismatchMarks, Act.run_all_cons, Act.run_all_nil]
  rw [modCol_run_col (Act.run_wf (Act.run_wf w)), if_pos rfl]; rfl

/-- What a mismatch reports, besides its hold: the event, the interrupt and the taint of a snapshot to come. -/
def mismatchReports (c : Nat) (r : ShadowRec) : Act := Act.all [
  fltEventC c (r.cell % 18) .shadowMismatch (some r.part) 2 (leBytes 8 r.psc.toNat ++ leBytes 4 r.qpos.toNat),
  irq 0 (32 + r.part),
  modPart r.part (fun p => { p with snap := { p.snap with tainted := true } })]

section Reports
variable {die unit f v : Nat} {code : FltCode} {part : Option Nat} {sev : Nat} {capture : List Byte}

theorem fltEventC_uses : (fltEventC die unit code part sev capture).uses [.out, .pcie, .flt, .free, .mem, .host, .kwy] :=
  fltEventC_within (by simp [Eff.kind]) (by simp [Eff.kind]) (by simp [Eff.kind]) (by simp [Eff.kind])
    (by simp [Eff.kind]) (by simp [Eff.kind]) (by simp [Eff.kind])

theorem irq_uses : (irq f v).uses [.out, .pcie] := irq_within (by simp [Eff.kind]) (by simp [Eff.kind])

end Reports

theorem mismatchReports_uses : (mismatchReports c r).uses [.out, .pcie, .flt, .free, .mem, .host, .kwy, .part] :=
  Act.within_all_cons (Act.uses_mono (by decide) fltEventC_uses)
    (Act.within_all_cons (Act.uses_mono (by decide) irq_uses)
      (Act.within_all_cons (modPart_within (by simp [Eff.kind])) Act.within_all_nil))

theorem mismatchReports_run_snapState (w : s.wf = true) : (((mismatchReports c r).run s).part r.part).snap.state =
    (s.part r.part).snap.state := by
  simp only [mismatchReports, Act.run_all_cons, Act.run_all_nil, modPart_run]
  rw [part_set (Act.run_wf (Act.run_wf w)), if_pos rfl, Act.run_part_of_uses irq_uses (by decide),
    Act.run_part_of_uses fltEventC_uses (by decide)]

theorem healthChange_uses : healthChange.uses [.out, .pcie, .flt, .free, .mem, .host, .kwy, .hub] := by
  have hwrite : healthWrite.uses [.out, .pcie, .flt, .free, .mem, .host, .kwy, .hub] :=
    modHub_within (by simp [Eff.kind])
  have hcheck : checkRepl.uses [.out, .pcie, .flt, .free, .mem, .host, .kwy, .hub] :=
    fun s => Act.within_all_cons (Act.within_each (fun _ _ => replReason_within (by simp [Eff.kind]) (by simp [Eff.kind])
        (by simp [Eff.kind]) (by simp [Eff.kind]) (by simp [Eff.kind]) (by simp [Eff.kind]) (by simp [Eff.kind])
        (by simp [Eff.kind])))
      (Act.within_all_cons (Act.within_guard hwrite) Act.within_all_nil) s
  exact Act.within_all_cons hwrite (Act.within_all_cons hcheck Act.within_all_nil)

/-! ### The state after a mismatch -/

/-- What a mismatch does, in order: marks, hold, reports, health record, spares. -/
theorem shadowMismatch_run (w : s.wf = true) (h : (s.part r.part).snap.state ≠ .draining) :
    (shadowMismatch c spare r).run s = (sparesChanged s c).run (healthChange.run ((mismatchReports c r).run
      ((raiseHold r.part).run ((mismatchMarks c spare r).run s)))) := by
  have wr : ((raiseHold r.part).run ((mismatchMarks c spare r).run s)).wf = true := Act.run_wf (Act.run_wf w)
  have hdrain : (((mismatchReports c r).run ((raiseHold r.part).run ((mismatchMarks c spare r).run s))).part
      r.part).snap.state ≠ .draining := by
    rw [mismatchReports_run_snapState wr, raiseHold_run_part]; exact h
  have habort := Act.run_guard (decide (r.psc.toNat < (s.part r.part).snap.strikePsc.toNat)) (snapAbort r.part)
    ((mismatchReports c r).run ((raiseHold r.part).run ((mismatchMarks c spare r).run s)))
  rw [snapAbort_run_of_not_draining hdrain, ite_self] at habort
  rw [shadowMismatch, withSpares_run, ← habort]
  show (sparesChanged s c).run ((Act.all _).run s) = _
  simp only [mismatchMarks, mismatchReports, Act.run_all_cons, Act.run_all_nil, Col.mismatched]

section Mismatch
variable (w : s.wf = true) (h : (s.part r.part).snap.state ≠ .draining)
include w h

theorem shadowMismatch_run_cell_keeps {Q : Cell → Prop} (hQ : ∀ x, Q x → Q x.unshadowed) {m : Nat}
    (hm : Q (((mismatchMarks c spare r).run s).cell m)) : Q (((shadowMismatch c spare r).run s).cell m) := by
  rw [shadowMismatch_run w h]
  refine sparesChanged_run_cell_keeps hQ _ (Act.run_wf (Act.run_wf (Act.run_wf (Act.run_wf w)))) ?_
  rwa [Act.run_cell_of_uses healthChange_uses (by decide), Act.run_cell_of_uses mismatchReports_uses (by decide),
    Act.run_cell_of_uses raiseHold_uses (by decide)]

theorem shadowMismatch_run_col :
    ∃ k, ((shadowMismatch c spare r).run s).col c = { (s.col c).mismatched spare r with shadowStop := k } := by
  obtain ⟨k, hk⟩ := sparesChanged_run_col (c := c) s (Act.run_wf (a := healthChange)
    (Act.run_wf (a := mismatchReports c r) (Act.run_wf (a := raiseHold r.part) (Act.run_wf (a := mismatchMarks c spare r) w))))
  refine ⟨k, ?_⟩
  rw [shadowMismatch_run w h, hk, ← mismatchMarks_run_col w, Act.run_col_of_uses healthChange_uses (by decide),
    Act.run_col_of_uses mismatchReports_uses (by decide), Act.run_col_of_uses raiseHold_uses (by decide)]

theorem shadowMismatch_run_holds (hact : (s.dom r.part).active = true) :
    (((shadowMismatch c spare r).run s).dom r.part).holds = (s.dom r.part).holds ++ [s.raiseRec] := by
  rw [shadowMismatch_run w h, sparesChanged_run_dom,
    Act.run_dom_of_uses healthChange_uses (by decide), Act.run_dom_of_uses mismatchReports_uses (by decide)]
  exact raiseHold_run_holds (s := (mismatchMarks c spare r).run s) (Act.run_wf w) hact

theorem shadowMismatch_run_snapState :
    (((shadowMismatch c spare r).run s).part r.part).snap.state = (s.part r.part).snap.state := by
  rw [shadowMismatch_run w h, sparesChanged_run_part,
    Act.run_part_of_uses healthChange_uses (by decide), mismatchReports_run_snapState (Act.run_wf (Act.run_wf w)),
    raiseHold_run_part]
  rfl

end Mismatch

/-! ### The end of a comparison -/

theorem execShadowCompareEnd_match (hrec : (s.cell (c * 18 + spare)).shadowOf = some r)
    (h : (s.part r.part).snap.state ≠ .draining) :
    execShadowCompareEnd c spare false s = .next ((shadowCounted c spare r).run s) := by
  rw [execShadowCompareEnd, shadowEnd_run hrec, Act.run_guard_false,
    snapFinish_run_of_not_draining (shadowCounted_not_draining h)]

theorem execShadowCompareEnd_mismatch (w : s.wf = true) (hrec : (s.cell (c * 18 + spare)).shadowOf = some r)
    (h : (s.part r.part).snap.state ≠ .draining) :
    execShadowCompareEnd c spare true s = .next ((shadowMismatch c spare r).run ((shadowCounted c spare r).run s)) := by
  have hdrain : (((shadowMismatch c spare r).run ((shadowCounted c spare r).run s)).part r.part).snap.state ≠ .draining := by
    rw [shadowMismatch_run_snapState (Act.run_wf w) (shadowCounted_not_draining h)]
    exact shadowCounted_not_draining h
  rw [execShadowCompareEnd, shadowEnd_run hrec, Act.run_guard_true, snapFinish_run_of_not_draining hdrain]

end PassesAndComparisons

/-- Settles O34: each clause is the lemma about its branch of `passEvent` or about the two ends of `shadowEnd`. -/
theorem passesAndComparisonsEnd : Obligations.PassesAndComparisonsEnd := by
  refine ⟨?passes, ?comparisons⟩
  case passes =>
    intro s n o p k w after elapsed hfound hpasses hrepeats hdue
    have h : PassDue s n o p k := ⟨hfound, hpasses, hrepeats, hdue⟩
    exact ⟨fun h0 hk => ⟨_, rfl, passEvent_gives_way w h h0 hk⟩,
      fun h0 hk hnew => ⟨_, rfl, passEvent_stalls w h h0 hk hnew⟩,
      fun h0 hend => congrArg _ (passEvent_run_of_not_elapsed h h0 hend),
      fun h1 hend => ⟨_, rfl, passEvent_ends_stall w h h1 hend⟩,
      fun h2 hend => ⟨_, rfl, passEvent_repeats w h h2 hend⟩⟩
  case comparisons =>
    intro s c spare r w key hrec hne hdrain
    refine ⟨⟨_, execShadowCompareEnd_match hrec hdrain, shadowCounted_run_cell w hne, shadowCounted_run_rest s⟩, fun hact => ?_⟩
    have w' : ((shadowCounted c spare r).run s).wf = true := Act.run_wf w
    have hdrain' := shadowCounted_not_draining (c := c) (spare := spare) hdrain
    have hact' : (((shadowCounted c spare r).run s).dom r.part).active = true := by
      rw [shadowCounted_run_dom]; exact hact
    have hholds := shadowMismatch_run_holds (c := c) (spare := spare) w' hdrain' hact'
    obtain ⟨stops, hcol⟩ := shadowMismatch_run_col (c := c) (spare := spare) w' hdrain'
    rw [shadowCounted_run_dom] at hholds
    rw [shadowCounted_run_col] at hcol
    refine ⟨_, execShadowCompareEnd_mismatch w hrec hdrain,
      shadowMismatch_run_cell_keeps (Q := (·.role = .fenced)) w' hdrain' ?role (mismatchMarks_run_role w' hne),
      shadowMismatch_run_cell_keeps (Q := (·.witness = true)) w' hdrain' (fun _ hx => hx) (mismatchMarks_run_witness w'),
      ?_, ?_, ?_, ?_, ?_, _, hholds, rfl, congrArg Hub.devno (Act.run_hub shadowCounted_uses (by decide) s)⟩
    case role => intro x hx; simp [Cell.unshadowed, hx]
    all_goals rw [hcol]
    · exact bit_fenced_mismatched (s.col c)
    · exact shadowMm_mismatched (s.col c)
    · exact mmValid_mismatched (s.col c)
    · exact capture_mismatched
    · exact mmPsc_mismatched

end Sys2Proof.Machine

/-! ## The canonical form along a step (R103, R125, R174) -/

namespace Sys2Proof.Machine

/-- What a step can do: elementary effects on the state whose queue has lost its front. -/
theorem step_effects {s t : State} (h : step s = .next t) : ∃ es, t = applyAll es { s with pending := s.pending.tail } := by
  unfold step at h
  cases hp : s.pending with
  | nil =>
    rw [hp] at h
    injection h with h
    have hs : { s with pending := ([] : List Instr).tail } = s := by rw [List.tail_nil, ← hp]
    exact ⟨tick s, by rw [hs]; exact h.symm⟩
  | cons c rest =>
    rw [hp] at h
    exact exec_effects h

/-- Settles O3: a step makes elementary effects alone; each keeps the canonical form, which does not speak of the queue. -/
theorem everyStepKeepsCanonicalForm : Obligations.EveryStepKeepsCanonicalForm := by
  intro s t w h
  obtain ⟨es, rfl⟩ := step_effects h
  exact applyAll_wf w

end Sys2Proof.Machine

/-! ## Transfers and multiplies of a cell (R107, R110 to R118, R122, R264) -/

namespace Sys2Proof.Machine

section CellInstructions
variable {s : State} {sid : StreamId} {w : InsnWord} {st : Stream}

/-! ### Ranges outside memory -/

/-- The range lies in no rank's memory: nothing of it has a home that could be REMOTE or in the host window. -/
def Rng.offMemory (r : Rng) : Prop := ∀ own, r.space ≠ .mem own

theorem tbRng_offMemory (k row count : Nat) : (tbRng k row count).offMemory := nofun
theorem maskRng_offMemory : maskRng.offMemory := nofun

/-- The parts of a range that lie in the host window (R192). -/
def Rng.hostFetches (p : Part) (r : Rng) : List Fetch := match r.space with
  | .mem own => hostParts p own [(r.lo, r.hi - r.lo)]
  | _ => []

theorem Rng.hostFetches_of_offMemory {r : Rng} (h : r.offMemory) (p : Part) : r.hostFetches p = [] := by
  obtain ⟨space, lo, hi⟩ := r
  cases space with
  | mem own => exact absurd rfl (h own)
  | tb _ | vreg | gen | slot _ => rfl

theorem hostWrites_eq_each (n id : Nat) (rs : List Rng) : hostWrites n id rs = fun s =>
    Act.each (rs.flatMap (Rng.hostFetches (s.part n))) (fun f => addChunks true n f.own id f.addr f.len) s := rfl

theorem hostWrites_append_of_offMemory {ws xs : List Rng} (h : ∀ x ∈ xs, x.offMemory) (n id : Nat) :
    hostWrites n id (ws ++ xs) = hostWrites n id ws := by
  funext s
  have hnone : xs.flatMap (Rng.hostFetches (s.part n)) = [] :=
    List.flatMap_eq_nil_iff.2 fun x hx => Rng.hostFetches_of_offMemory (h x hx) _
  simp only [hostWrites_eq_each, List.flatMap_append, hnone, List.append_nil]

theorem homeUnreached_append (s : State) (n : Nat) (rs xs : List Rng) :
    homeUnreached s n (rs ++ xs) = (homeUnreached s n rs || homeUnreached s n xs) := List.any_append

theorem homeUnreached_of_offMemory {rs : List Rng} (h : ∀ x ∈ rs, x.offMemory) (s : State) (n : Nat) :
    homeUnreached s n rs = false := by
  refine List.any_eq_false.2 fun x hx => ?_
  obtain ⟨space, lo, hi⟩ := x
  cases space with
  | mem own => exact absurd rfl (h _ hx own)
  | tb _ | vreg | gen | slot _ => exact Bool.false_ne_true

/-- What is asked of the homes of an instruction's ranges rests on those of its ranges that lie in memory. -/
theorem homeUnreached_of_append {n : Nat} {rs xs ys : List Rng} (h : homeUnreached s n rs = false)
    (hxs : ∀ x ∈ xs, x.offMemory) (hys : ∀ x ∈ ys, x.offMemory) : homeUnreached s n (xs ++ (rs ++ ys)) = false := by
  rw [homeUnreached_append, homeUnreached_append, h, homeUnreached_of_offMemory hxs, homeUnreached_of_offMemory hys]
  rfl

theorem offMemory_singleton {x : Rng} (h : x.offMemory) : ∀ y ∈ [x], y.offMemory := List.forall_mem_singleton.2 h

theorem offMemory_ite {b : Bool} {x : Rng} (h : x.offMemory) : ∀ y ∈ (if b then [x] else []), y.offMemory := by
  cases b with
  | false => exact nofun
  | true => exact offMemory_singleton h

/-! ### An instruction that issues as one operation and what it sends -/

/-- An action that writes only counters, cells and free values. -/
theorem Act.run_eq_of_quiet {a : Act} (hw : a.uses [.pmc, .cell, .free]) (s : State) :
    a.run s = { s with pmc := (a.run s).pmc, cells := (a.run s).cells, free := (a.run s).free } := by
  obtain ⟨hdoms, hparts, hqueues, hflt⟩ := Act.run_quiet hw s
  refine (Act.run_rest (Act.uses_mono (by decide) hw) s).trans ?_
  rw [hdoms, hparts, hqueues, hflt]

/-- The instruction becomes one operation in flight that waits for nothing but time and bytes, the queue goes on by one entry, and
nothing breaks the ward. -/
structure Go.Plain (g : Go) : Prop where
  inFlight : g.inFlight = true
  next : g.next = none
  wait : g.wait = .none
  coll : g.coll = none
  ward : g.ward = none

theorem Put.startsReading {g : Go} {u : State} (hg : g.Plain) (hu : Put s sid w st g (putOp s sid w st g) u) :
    Claims.StartsReading s sid w st g.fetch g.dur g.pend g.want u (putOp s sid w st g) := by
  have hops := congrArg Run.ops hu.run
  rw [hg.inFlight, if_pos rfl] at hops
  have hqueue := hu.queue
  rw [hg.next, Option.getD_none] at hqueue
  exact ⟨hqueue, hu.contained, hu.cells, hops, putOp_launched s sid w st g, hg.wait, rfl, hg.coll, rfl⟩

/-- A ready instruction whose body answers a plain `g`: it sends what `g` fetches and what its ranges write to the host window, makes
its effects `more`, and whatever else it does at issue (`rest`) shows in counters, cells and free values alone. -/
theorem moves_of_go {c : Instr} {isRow : Bool} {body : Ctx → Verdict} {g : Go} {ws xs : List Rng} {more : Act} {rest : Nat → Act}
    (r : Ready s sid w st) (hexec : exec c s = .next ((issueR sid w isRow body).run s)) (hrow : isRow = true)
    (hbody : body (Claims.ctx s sid w st) = .go g) (hplain : g.Plain) (hhomes : homeUnreached s sid.part (g.rd ++ g.wr) = false)
    (hwr : g.wr = ws ++ xs) (hxs : ∀ x ∈ xs, x.offMemory) (hact : ∀ id, g.act id = Act.all [more, rest id])
    (hrest : ∀ id, (rest id).uses [.pmc, .cell, .free]) :
    Claims.Moves c s sid w st g.fetch ws g.dur g.pend g.want more := by
  obtain ⟨u, hu, hrun⟩ := issueGo_put (traffic := traffic) (g := g) r
  have hgo : reachable body { s := s, sid := sid, st := st, w := w } = .go g := by
    rw [reachable, show body { s := s, sid := sid, st := st, w := w } = .go g from hbody]
    exact if_neg (Bool.eq_false_iff.1 hhomes)
  have hissue : (issueR sid w isRow body).run s = (issueGo traffic sid w g).run s :=
    Act.run_congr (by rw [issueR, issueWith_ready r hrow, hgo])
  refine ⟨u, putOp s sid w st g, hu.startsReading hplain, _, hexec, ?_⟩
  rw [hissue, hrun, hplain.ward]
  simp only [traffic, hact, hwr, hostWrites_append_of_offMemory hxs, Act.run_all_cons, Act.run_all_nil, Act.run_skip]
  exact Act.run_eq_of_quiet (hrest _) _

/-! ### The issue to a cell -/

/-- An instruction of a cell runs there once its logical cell is the resident one (R264, R314). -/
theorem onCell_of_go {f : CellRef → Ctx → Verdict} {g : Go} (r : Ready s sid w st) (hcell : Claims.OnCell s sid st)
    (hf : f (Claims.cell sid st) (Claims.ctx s sid w st) = .go g) : onCell f (Claims.ctx s sid w st) =
      .go { g with act := fun id => Act.all [Claims.swap s sid st, g.act id] } := by
  have hgo : f { own := sid.own, lq := sid.unit, j := cellNo st } { s := s, sid := sid, st := st, w := w } = .go g := hf
  simp only [onCell, Claims.ctx, Ctx.p, hgo]
  by_cases huu : sid.kind = .uu
  · rw [Claims.OnCell, if_pos huu] at hcell
    rw [if_pos (beq_iff_eq.2 huu), r.noOps]
    exact if_neg (fun h => hcell (beq_iff_eq.1 h))
  · rw [Claims.OnCell, if_neg huu] at hcell
    rw [if_neg (fun h => huu (beq_iff_eq.1 h))]
    exact if_neg (Bool.eq_false_iff.1 hcell)

/-- A cell instruction whose meaning answers a plain `g`, with counters, cells and free values as its own effects at issue. -/
theorem moves_onCell {c : Instr} {isRow : Bool} {f : CellRef → Ctx → Verdict} {g : Go} {ws xs : List Rng}
    (r : Ready s sid w st) (hcell : Claims.OnCell s sid st)
    (hexec : exec c s = .next ((issueR sid w isRow (onCell f)).run s)) (hrow : isRow = true)
    (hf : f (Claims.cell sid st) (Claims.ctx s sid w st) = .go g) (hplain : g.Plain)
    (hhomes : homeUnreached s sid.part (g.rd ++ g.wr) = false) (hwr : g.wr = ws ++ xs) (hxs : ∀ x ∈ xs, x.offMemory)
    (hact : ∀ id, (g.act id).uses [.pmc, .cell, .free]) :
    Claims.Moves c s sid w st g.fetch ws g.dur g.pend g.want (Claims.swap s sid st) :=
  moves_of_go (g := { g with act := fun id => Act.all [Claims.swap s sid st, g.act id] }) r hexec hrow (onCell_of_go r hcell hf)
    ⟨hplain.inFlight, hplain.next, hplain.wait, hplain.coll, hplain.ward⟩ hhomes hwr hxs (fun _ => rfl) hact

/-! ### The meanings, one equation for each form that breaks no ward -/

section Meanings
variable {cell : CellRef} {c : Ctx}

theorem memRngs_nil (own : Nat) : memRngs own [] = [] := rfl

theorem cldBody_of_inside (hmem : wardOf c (memRows c.w) = none) (hsto : storeWard c.p cell [storeSpan c.w] = none) :
    cldBody cell c = .go {
      dur := cellDur c (memRows c.w) (storeSpan c.w).2, unit := unitLoad cell.j, rd := memRngs cell.own (memRows c.w),
      wr := storeRngs c.p cell [storeSpan c.w], pend := cldWrites c.s c.n cell c.w, fetch := fetchOf c (memRows c.w) } := by
  rw [cldBody, hmem, hsto]
  rfl

theorem cstBody_of_inside (hmem : wardOf c (memRows c.w) = none) (hsto : storeWard c.p cell [storeSpan c.w] = none) :
    cstBody cell c = .go {
      dur := cellDur c (memRows c.w) (storeSpan c.w).2, unit := unitStore cell.j, rd := storeRngs c.p cell [storeSpan c.w],
      wr := memRngs cell.own (memRows c.w), pend := cstWrites c.s c.n cell c.w } := by
  rw [cstBody, hmem, hsto]
  rfl

theorem tbWard_eq_none {row count : Nat} (h : row + count ≤ 1024) : tbWard row count = none := if_neg (Nat.not_lt.2 h)

theorem tbWrite_whole_row {k row : Nat} (h : row < 1024) (lanes : List (BitVec 64)) :
    tbWrite k row 0 lanes = [.tb k (row * 256) lanes] := by
  rw [tbWrite, if_pos (show row < tbRows from h), Nat.add_zero]

/-- Whole rows that lie in the total buffer are written one effect to a row. -/
theorem flatMap_tbWrite {k row count : Nat} (h : row + count ≤ 1024) (lanes : Nat → List (BitVec 64)) :
    (List.range count).flatMap (fun i => tbWrite k (row + i) 0 (lanes i)) =
      (List.range count).map (fun i => .tb k ((row + i) * 256) (lanes i)) := by
  rw [List.map_eq_flatMap, List.flatMap_def, List.flatMap_def]
  refine congrArg List.flatten (List.map_congr_left fun i hi => ?_)
  have hcount := List.mem_range.1 hi
  exact tbWrite_whole_row (by omega) _

/-- The total buffer rows that a TBI or a TBD names (R115). -/
def CellRef.tbRange (cell : CellRef) (c : Ctx) : Rng := tbRng (cell.tb c.p) (tbFirst c.w) (tbCount c.w)

theorem CellRef.tbRange_offMemory (cell : CellRef) (c : Ctx) : (cell.tbRange c).offMemory := tbRng_offMemory _ _ _

/-- Zeros into each of these rows. -/
def CellRef.tbZeros (cell : CellRef) (c : Ctx) : List Wr :=
  (List.range (tbCount c.w)).map (fun i => .tb (cell.tb c.p) ((tbFirst c.w + i) * 256) (List.replicate 256 0))

/-- The lanes of row `i` of them, as bytes. -/
def CellRef.tbLanes (cell : CellRef) (c : Ctx) (i : Nat) : List Byte :=
  (tbRow c.s (cell.tb c.p) (tbFirst c.w + i)).flatMap (fun v => leBytes 8 v.toNat)

section TotalBuffer
variable (hrows : tbFirst c.w + tbCount c.w ≤ 1024)
include hrows

theorem tbiBody_of_zero (hsrc : fld c.w 10 2 = 0) : tbiBody cell c = .go {
    dur := 8 + ceilDiv (tbCount c.w) 8, unit := unitCompute cell.j, wr := [cell.tbRange c],
    pend := cell.tbZeros c } := by
  have htwo : fld c.w 10 2 ≠ 2 := by omega
  have hone : fld c.w 10 2 ≠ 1 := by omega
  simp only [tbiBody, tbiWrites, if_pos hsrc, if_neg hone, if_neg htwo, flatMap_tbWrite hrows, tbWard_eq_none hrows]
  rfl

theorem tbiBody_of_store (hsrc : fld c.w 10 2 = 1) (hsto : storeWard c.p cell [tbStore c.w] = none) :
    tbiBody cell c = .go {
      dur := 8 + 2 * tbCount c.w, unit := unitCompute cell.j, rd := storeRngs c.p cell [tbStore c.w],
      wr := [cell.tbRange c],
      pend := (List.range (tbCount c.w)).map (fun i => .tb (cell.tb c.p) ((tbFirst c.w + i) * 256)
        ((chunks 8 (storeRead c.s c.n cell ((tbStore c.w).1 + 2048 * i) 2048)).map (fun b => BitVec.ofNat 64 (leNat b)))) } := by
  have hzero : fld c.w 10 2 ≠ 0 := by omega
  have htwo : fld c.w 10 2 ≠ 2 := by omega
  simp only [tbiBody, tbiWrites, if_neg hzero, if_pos hsrc, if_neg htwo, flatMap_tbWrite hrows, tbWard_eq_none hrows, hsto,
    memRngs_nil, List.append_nil]
  rfl

theorem tbiBody_of_mem (hsrc : fld c.w 10 2 = 2) (hmem : wardOf c [tbMem c.w] = none) :
    tbiBody cell c = .go {
      dur := cellDur c [tbMem c.w] (tbMem c.w).2, unit := unitCompute cell.j, rd := memRngs cell.own [tbMem c.w],
      wr := [cell.tbRange c], fetch := fetchOf c [tbMem c.w],
      pend := (List.range (tbCount c.w)).map (fun i => .tb (cell.tb c.p) ((tbFirst c.w + i) * 256)
        ((chunks 8 (readL c.s c.n cell.own ((tbMem c.w).1 + 2048 * i) 2048)).map (fun b => BitVec.ofNat 64 (leNat b)))) } := by
  have hzero : fld c.w 10 2 ≠ 0 := by omega
  have hone : fld c.w 10 2 ≠ 1 := by omega
  simp only [tbiBody, tbiWrites, if_neg hzero, if_neg hone, if_pos hsrc, flatMap_tbWrite hrows, tbWard_eq_none hrows, hmem]
  rfl

theorem tbdBody_of_store (hsrc : fld c.w 10 2 = 1) (hsto : storeWard c.p cell [tbStore c.w] = none) :
    tbdBody cell c = .go {
      dur := 8 + 2 * tbCount c.w + (if bit c.w 107 then ceilDiv (tbCount c.w) 8 else 0), unit := unitCompute cell.j,
      rd := [cell.tbRange c],
      wr := storeRngs c.p cell [tbStore c.w] ++ (if bit c.w 107 then [cell.tbRange c] else []),
      pend := (List.range (tbCount c.w)).map (fun i =>
        storeWrite c.p cell ((tbStore c.w).1 + 2048 * i) (cell.tbLanes c i)) ++
        (if bit c.w 107 then cell.tbZeros c else []) } := by
  simp only [tbdBody, tbdWrites, if_pos hsrc, flatMap_tbWrite hrows, tbWard_eq_none hrows, hsto, memRngs_nil,
    List.append_nil]
  rfl

theorem tbdBody_of_mem (hsrc : fld c.w 10 2 ≠ 1) (hmem : wardOf c [tbMem c.w] = none) :
    tbdBody cell c = .go {
      dur := cellDur c [tbMem c.w] (tbMem c.w).2 + (if bit c.w 107 then ceilDiv (tbCount c.w) 8 else 0),
      unit := unitCompute cell.j, rd := [cell.tbRange c],
      wr := memRngs cell.own [tbMem c.w] ++ (if bit c.w 107 then [cell.tbRange c] else []),
      pend := (List.range (tbCount c.w)).map (fun i =>
        .mem cell.own ((tbMem c.w).1 + 2048 * i) (cell.tbLanes c i)) ++
        (if bit c.w 107 then cell.tbZeros c else []) } := by
  simp only [tbdBody, tbdWrites, if_neg hsrc, flatMap_tbWrite hrows, tbWard_eq_none hrows, hmem]
  rfl

end TotalBuffer

/-- The physical cell that executes for a logical one (R314), which counts its non-finite outputs and its repeats. -/
def CellRef.exec (cell : CellRef) (p : Part) : Nat := (p.execCell cell.own cell.lq cell.j).getD 0

theorem mulBody_of_inside {x : Mul} (hx : mulOf c.w = some x) (hsto : storeWard c.p cell x.reads = none)
    (hrows : x.tbr + x.rows ≤ 1024) : mulBody cell c = .go {
      dur := x.dur, unit := unitCompute cell.j,
      rd := storeRngs c.p cell x.reads ++ ((if x.acc then [tbRng (cell.tb c.p) x.tbr x.rows] else []) ++
        (if x.mask then [maskRng] else [])),
      wr := [tbRng (cell.tb c.p) x.tbr x.rows],
      pend := (Mul.results c.s c.n c.st cell x).wr ++ [.nonfin (cell.exec c.p) (Mul.results c.s c.n c.st cell x).nonfin],
      passes := some {
        cell := cell.exec c.p, time := x.passTime, repeats := (Mul.results c.s c.n c.st cell x).repeats, idx := 0, owed := 0 },
      act := fun id => Act.all [modCell (cell.exec c.p) (fun y => { y with mode := !x.ws }),
        Act.guard (!bit c.w 105) (sample c.sid (cell.exec c.p) id)] } := by
  simp only [mulBody, hx, hsto, tbWard_eq_none hrows, List.append_assoc]
  rfl

theorem cmaskBody_of_window (h : ¬ (fld c.w 64 2 = 2 ∧ fld c.w 72 32 = 0)) : cmaskBody cell c = .go {
    dur := 1, unit := unitCompute cell.j, wr := [maskRng],
    pend := [.mask (BitVec.ofNat 32 (fld c.w 72 32)) (BitVec.ofNat 2 (fld c.w 64 2)) (BitVec.ofNat 32 (fld c.w 32 32))
      (BitVec.ofNat 32 (fld c.w 0 32))] } :=
  if_neg (by simpa using h)

end Meanings

/-! ### Multiplies (R104, R105, R112, R113, R117, R122) -/

section Multiplies
variable {x : Mul}

/-- The fields of an MMW: always 256 output columns (R112). -/
theorem mulOf_fields_of_mmw (hx : mulOf w = some x) (hop : opc w = 0x18) :
    x.ws = true ∧ x.m = fld w 12 10 + 1 ∧ x.n = 256 ∧ x.klen = fld w 32 16 + 1 := by
  obtain ⟨p, -, rfl⟩ := Option.map_eq_some_iff.1 hx
  simp [hop]

/-- The fields of an MMA, whose word gives the number of its output columns (R113). -/
theorem mulOf_fields_of_mma (hx : mulOf w = some x) (hop : opc w = 0x19) :
    x.ws = false ∧ x.m = fld w 15 7 + 1 ∧ x.n = fld w 51 13 + 1 ∧ x.klen = fld w 32 16 + 1 := by
  obtain ⟨p, -, rfl⟩ := Option.map_eq_some_iff.1 hx
  simp [hop]

theorem Mul.dur_of_ws (h : x.ws = true) : x.dur = ceilDiv x.klen x.pair.kpass * max x.m 32 + 48 := by
  rw [Mul.dur, Mul.passTime, if_pos h, Mul.passes]

theorem Mul.dur_of_as (h : x.ws = false) :
    x.dur = ceilDiv x.klen x.pair.kpass * max (ceilDiv (x.n * max x.m 32) 256) 16 + 48 := by
  rw [Mul.dur, Mul.passTime, if_neg (Bool.eq_false_iff.1 h), Mul.passes]

theorem withFree_within {P : Eff → Prop} {f : Nat → Act} (h : ∀ k, (f k).within P) (hfree : ∀ k, P (.free k)) :
    (withFree f).within P :=
  Act.within_look (f := fun s => Act.all [f s.free, fun t => [.free (t.free + 1)]]) fun s =>
    Act.within_all_cons (h s.free) (Act.within_all_cons (free_within hfree) Act.within_all_nil)

/-- The choice of what is shadowed writes cells and a free value (R119 to R121, R308). -/
theorem sample_uses (sid : StreamId) (cell id : Nat) : (sample sid cell id).uses [.cell, .free] := by
  have hcell : ∀ k f, (modCell k f).uses [.cell, .free] := fun k f => modCell_within (by simp [Eff.kind])
  intro s e he
  simp only [sample] at he
  split at he
  · cases he
  · refine withFree_within (P := fun e => e.kind ∈ [Kind.cell, .free]) (fun k => Act.within_when fun s e he => ?_)
      (by simp [Eff.kind]) s e he
    split at he
    · exact hcell _ _ s e he
    · split at he
      · cases he
      · exact hcell _ _ s e he

/-- A multiply at its cell, MMW or MMA: its planned duration, its results with the count of the non-finite ones, and nothing sent. -/
theorem multiply_moves {c : Instr} {isRow : Bool} (r : Ready s sid w st) (hcell : Claims.OnCell s sid st)
    (hexec : exec c s = .next ((issueR sid w isRow (onCell mulBody)).run s)) (hrow : isRow = true) (hx : mulOf w = some x)
    (hsto : storeWard (s.part sid.part) (Claims.cell sid st) x.reads = none) (hrows : x.tbr + x.rows ≤ 1024)
    (hhomes : Claims.Homes s sid (storeRngs (s.part sid.part) (Claims.cell sid st) x.reads)) :
    let out := Mul.results s sid.part st (Claims.cell sid st) x
    Claims.Moves c s sid w st [] [] x.dur
      (out.wr ++ [.nonfin ((Claims.cell sid st).exec (s.part sid.part)) out.nonfin]) 0 (Claims.swap s sid st) := by
  have htb := tbRng_offMemory ((Claims.cell sid st).tb (s.part sid.part)) x.tbr x.rows
  have hoff : ∀ y ∈ (if x.acc then [tbRng ((Claims.cell sid st).tb (s.part sid.part)) x.tbr x.rows] else []) ++
      (if x.mask then [maskRng] else []), y.offMemory :=
    List.forall_mem_append.2 ⟨offMemory_ite htb, offMemory_ite maskRng_offMemory⟩
  have hread := homeUnreached_of_append (xs := []) hhomes nofun hoff
  have hmoves := moves_onCell r hcell hexec hrow (mulBody_of_inside (c := Claims.ctx s sid w st) hx hsto hrows)
    ⟨rfl, rfl, rfl, rfl, rfl⟩ (homeUnreached_of_append (xs := []) hread nofun (offMemory_singleton htb))
    (List.nil_append _).symm (offMemory_singleton htb)
    (fun id => Act.within_all_cons (modCell_within (by simp [Eff.kind]))
      (Act.within_all_cons (Act.within_guard (Act.uses_mono (by decide) (sample_uses _ _ _))) Act.within_all_nil))
  exact hmoves

/-! ### Masks (R116, R117) -/

/-- The condition of R117, with q - p over the naturals once p ≤ q holds. -/
theorem maskedAt_iff (st : Stream) (i j : Nat) : maskedAt st i j = true ↔
    (1 ≤ st.maskMode.toNat ∧ (st.maskQ + BitVec.ofNat 32 i).toNat < (st.maskK + BitVec.ofNat 32 j).toNat) ∨
    (st.maskMode = 2 ∧ (st.maskK + BitVec.ofNat 32 j).toNat ≤ (st.maskQ + BitVec.ofNat 32 i).toNat ∧
      st.maskWindow.toNat ≤ (st.maskQ + BitVec.ofNat 32 i).toNat - (st.maskK + BitVec.ofNat 32 j).toNat) := by
  have hmode : st.maskMode.toNat = 2 ↔ st.maskMode = 2 := by bv_omega
  simp only [maskedAt, Bool.or_eq_true, Bool.and_eq_true, decide_eq_true_eq, beq_iff_eq, hmode, and_assoc]
  refine or_congr_right (and_congr_right fun _ => and_congr_right fun hle => ?_)
  rw [BitVec.toNat_sub_of_le hle]

/-- A masked element of a row that lies in the total buffer is delivered as minus infinity (R117). -/
theorem Mul.block_masked {k : Nat} {a : List Nat} {cols : List (List Nat)} {i j0 e : Nat} (he : e < cols.length)
    (hmask : x.mask = true) (hat : maskedAt st i (j0 + e) = true) (hrow : x.row i j0 < 1024) :
    ∃ vs, (Mul.block s x st k a cols i j0).wr = [.tb k (x.row i j0 * 256) vs] ∧ vs[e]? = some 0xFFF0000000000000 := by
  refine ⟨_, tbWrite_whole_row hrow _, ?_⟩
  have hcol : cols.zipIdx[e]? = some (cols[e], e) := by
    rw [List.getElem?_zipIdx, List.getElem?_eq_getElem he, Option.map_some, Nat.zero_add]
  have hmasked : (x.mask && maskedAt st i (j0 + e)) = true := by rw [hmask, hat]; rfl
  simp only [List.getElem?_map, hcol, Option.map_some, hmasked, if_true]
  rfl

end Multiplies

end CellInstructions

/-- Settles O14: each form's meaning is a plain `g` by the equation of its case, and `moves_onCell` says what that issue leaves.
Each `hmoves` is stated before it meets the goal, so that durations are compared only once `g` is known. -/
theorem cellTransfersIssue : Obligations.CellTransfersIssue := by
  intro s sid w st r hcell
  refine ⟨?cld, ?cst, ?tbi, ?tbd⟩
  case cld =>
    intro hop hmem hsto hhomes
    have hmoves := moves_onCell (c := .cld sid w) r hcell rfl (beq_iff_eq.2 hop) (cldBody_of_inside hmem hsto)
      ⟨rfl, rfl, rfl, rfl, rfl⟩ hhomes (List.append_nil _).symm nofun (fun _ => Act.within_skip)
    exact hmoves
  case cst =>
    intro hop hmem hsto hhomes
    have hmoves := moves_onCell (c := .cst sid w) r hcell rfl (beq_iff_eq.2 hop) (cstBody_of_inside hmem hsto)
      ⟨rfl, rfl, rfl, rfl, rfl⟩ hhomes (List.append_nil _).symm nofun (fun _ => Act.within_skip)
    exact hmoves
  case tbi =>
    intro hop hrows
    have htb := offMemory_singleton ((Claims.cell sid st).tbRange_offMemory (Claims.ctx s sid w st))
    refine ⟨fun hsrc => ?zeros, fun hsrc hsto hhomes => ?cellStore, fun hsrc hmem hhomes => ?memory⟩
    case zeros =>
      have hmoves := moves_onCell (c := .tbi sid w) r hcell rfl (beq_iff_eq.2 hop) (tbiBody_of_zero hrows hsrc)
        ⟨rfl, rfl, rfl, rfl, rfl⟩ (homeUnreached_of_offMemory htb s _) (List.nil_append _).symm htb (fun _ => Act.within_skip)
      exact hmoves
    case cellStore =>
      have hmoves := moves_onCell (c := .tbi sid w) r hcell rfl (beq_iff_eq.2 hop) (tbiBody_of_store hrows hsrc hsto)
        ⟨rfl, rfl, rfl, rfl, rfl⟩ (homeUnreached_of_append (xs := []) hhomes nofun htb) (List.nil_append _).symm htb
        (fun _ => Act.within_skip)
      exact hmoves
    case memory =>
      have hmoves := moves_onCell (c := .tbi sid w) r hcell rfl (beq_iff_eq.2 hop) (tbiBody_of_mem hrows hsrc hmem)
        ⟨rfl, rfl, rfl, rfl, rfl⟩ (homeUnreached_of_append (xs := []) hhomes nofun htb) (List.nil_append _).symm htb
        (fun _ => Act.within_skip)
      exact hmoves
  case tbd =>
    intro hop hrows
    have htb := (Claims.cell sid st).tbRange_offMemory (Claims.ctx s sid w st)
    refine ⟨fun hsrc hsto hhomes => ?cellStore, fun hsrc hmem hhomes => ?memory⟩
    case cellStore =>
      have hmoves := moves_onCell (c := .tbd sid w) r hcell rfl (beq_iff_eq.2 hop) (tbdBody_of_store hrows hsrc hsto)
        ⟨rfl, rfl, rfl, rfl, rfl⟩ (homeUnreached_of_append hhomes (offMemory_singleton htb) (offMemory_ite htb)) rfl
        (offMemory_ite htb) (fun _ => Act.within_skip)
      exact hmoves
    case memory =>
      have hnot : fld w 10 2 ≠ 1 := by omega
      have hmoves := moves_onCell (c := .tbd sid w) r hcell rfl (beq_iff_eq.2 hop) (tbdBody_of_mem hrows hnot hmem)
        ⟨rfl, rfl, rfl, rfl, rfl⟩ (homeUnreached_of_append hhomes (offMemory_singleton htb) (offMemory_ite htb)) rfl
        (offMemory_ite htb) (fun _ => Act.within_skip)
      exact hmoves

/-- Settles O15: the two multiplies differ in the fields of their words and in the pass time alone, CMASK is a plain `g`, and the
mask is the condition of R117 read at each element of a row block. -/
theorem multipliesIssue : Obligations.MultipliesIssue := by
  intro s sid w st r hcell
  refine ⟨fun x hx hsto hrows hhomes => ⟨fun hop => ?mmw, fun hop => ?mma⟩, fun hop hwindow => ?cmask, maskedAt_iff st,
    fun x k a cols i j0 e he hmask hat hrow => Mul.block_masked he hmask hat hrow⟩
  case mmw =>
    obtain ⟨hws, hm, hn, hklen⟩ := mulOf_fields_of_mmw hx hop
    have hmoves := multiply_moves (c := .mmw sid w) r hcell rfl (beq_iff_eq.2 hop) hx hsto hrows hhomes
    rw [Mul.dur_of_ws hws] at hmoves
    exact ⟨hm, hn, hklen, hmoves⟩
  case mma =>
    obtain ⟨hws, hm, hn, hklen⟩ := mulOf_fields_of_mma hx hop
    have hmoves := multiply_moves (c := .mma sid w) r hcell rfl (beq_iff_eq.2 hop) hx hsto hrows hhomes
    rw [Mul.dur_of_as hws] at hmoves
    exact ⟨hm, hn, hklen, hmoves⟩
  case cmask =>
    have hslot := offMemory_singleton maskRng_offMemory
    have hmoves := moves_onCell (c := .cmask sid w) r hcell rfl (beq_iff_eq.2 hop) (cmaskBody_of_window hwindow)
      ⟨rfl, rfl, rfl, rfl, rfl⟩ (homeUnreached_of_offMemory hslot s _) (List.nil_append _).symm hslot
      (fun _ => Act.within_skip)
    exact hmoves

end Sys2Proof.Machine

/-! ## The vector engine (R125 to R148) -/

namespace Sys2Proof.Machine

section VectorInstructions
variable {s : State} {sid : StreamId} {w : InsnWord} {st : Stream}

/-! ### An instruction whose ranges all lie outside memory -/

theorem fetchBy_nil (d : Nat → Msg → Act) (sid : StreamId) (id : Nat) : fetchBy d sid id [] = Act.skip := by
  funext s
  rw [fetchBy]
  cases (s.part sid.part).recd.replay <;> rfl

theorem hostWrites_of_offMemory {xs : List Rng} (h : ∀ x ∈ xs, x.offMemory) (n id : Nat) : hostWrites n id xs = Act.skip := by
  rw [← List.nil_append xs, hostWrites_append_of_offMemory h]
  rfl

theorem traffic_uses_of_offMemory {g : Go} {ks : List Kind} (hfetch : g.fetch = []) (hwr : ∀ x ∈ g.wr, x.offMemory) (id : Nat) :
    (traffic sid id g).uses ks := by
  rw [traffic, hfetch, fetchBy_nil, hostWrites_of_offMemory hwr]
  exact Act.within_all_cons Act.within_skip (Act.within_all_cons Act.within_skip Act.within_all_nil)

/-- An instruction starts when every rank that is home to a part of its ranges can be reached (R424). -/
theorem reachable_of_homes {body : Ctx → Verdict} {g : Go} {c : Ctx} (hbody : body c = .go g)
    (hhomes : homeUnreached c.s c.n (g.rd ++ g.wr) = false) : reachable body c = .go g := by
  rw [reachable, hbody]
  exact if_neg (Bool.eq_false_iff.1 hhomes)

/-- A ready instruction whose body answers a plain `g` that touches no memory issues as one operation that waits for nothing but
time. -/
theorem runs_of_go {c : Instr} {isRow : Bool} {body : Ctx → Verdict} {g : Go} (r : Ready s sid w st)
    (hexec : exec c s = .next ((issueR sid w isRow body).run s)) (hrow : isRow = true)
    (hbody : body (Claims.ctx s sid w st) = .go g) (hplain : g.Plain) (hwant : g.want = 0) (hfetch : g.fetch = [])
    (hrd : ∀ x ∈ g.rd, x.offMemory) (hwr : ∀ x ∈ g.wr, x.offMemory) (hact : ∀ id, (g.act id).uses [.pmc, .cell, .free]) :
    Claims.Runs c s sid w st g.dur g.pend :=
  have hhomes := homeUnreached_of_offMemory (List.forall_mem_append.2 ⟨hrd, hwr⟩) s sid.part
  ⟨_, hexec, issued_of_go r hrow (reachable_of_homes hbody hhomes) hplain.inFlight hplain.next hplain.ward hplain.wait hwant
    hplain.coll hfetch (traffic_uses_of_offMemory hfetch hwr) hact⟩

/-! ### The register forms (R128) -/

theorem regRng_offMemory (k : Nat) : (regRng k).offMemory := nofun
theorem genRng_offMemory : genRng.offMemory := nofun

theorem vxIssue_uses (q cycles : Nat) : (vxIssue q cycles).uses [.pmc, .cell, .free] := count_within (by simp [Eff.kind])

/-- A register form runs for its planned duration and then writes the value `v i` into each lane `i` of VD. -/
theorem runs_of_vxGo {c : Instr} {isRow : Bool} {body : Ctx → Verdict} {interval dur : Nat} {srcs : List Nat} {gen : Bool}
    {f : Ctx → Nat → Nat} {v : Nat → Nat} (r : Ready s sid w st)
    (hexec : exec c s = .next ((issueR sid w isRow body).run s)) (hrow : isRow = true)
    (hbody : body (Claims.ctx s sid w st) = vxGo interval dur srcs gen f (Claims.ctx s sid w st))
    (hlane : ∀ i, f (Claims.ctx s sid w st) i = v i) : Claims.Runs c s sid w st dur (Claims.writesVd s sid w v) := by
  have hsrcs : ∀ x ∈ srcs.map regRng, x.offMemory := List.forall_mem_map.2 fun k _ => regRng_offMemory k
  have hruns := runs_of_go r hexec hrow hbody ⟨rfl, rfl, rfl, rfl, rfl⟩ rfl rfl
    (List.forall_mem_append.2 ⟨hsrcs, offMemory_ite genRng_offMemory⟩) (offMemory_singleton (regRng_offMemory _))
    (fun _ => vxIssue_uses _ _)
  rw [← funext hlane]
  exact hruns

/-- The planned duration of a VAR (R148). -/
theorem varTime_duration (ft sb : Nat) : (varTime ft sb).2 =
    if sb = 8 ∨ sb = 9 then (if ft = 5 then 48 else 24) else if ft = 5 then 14 else 8 := by
  by_cases hslow : sb = 8 ∨ sb = 9 <;> by_cases hta : ft = 5 <;> simp only [varTime, hslow, hta, if_true, if_false]

/-- The issue interval and the planned duration of a VRED: both rest on its FT, the duration on the levels of its tree too (R148). -/
theorem vredBody_eq (c : Ctx) : vredBody c = vxGo (if fFT c.w = 5 then 4 else 1)
    (if fFT c.w = 5 then 14 + 8 * fld c.w 19 4 else 8 + 4 * fld c.w 19 4) (srcs 1 c.w) false vredLane c := by
  by_cases hta : fFT c.w = 5
  · simp only [vredBody, if_pos hta]
  · simp only [vredBody, if_neg hta]

/-- A CVT reads the generator and its index register only when it rounds under RSTO (R140). -/
theorem cvtBody_eq (c : Ctx) : cvtBody c = vxGo 1 (if fRM c.w = 4 then 24 else 8) (srcs (if fRM c.w = 4 then 2 else 1) c.w)
    (decide (fRM c.w = 4)) cvtLane c := by
  by_cases hrsto : fRM c.w = 4
  · rw [cvtBody, if_pos hrsto, if_pos hrsto, if_pos hrsto, decide_eq_true hrsto]
  · rw [cvtBody, if_neg hrsto, if_neg hrsto, if_neg hrsto, decide_eq_false hrsto]

/-- A CVT between two formats of R38 rounds the source's value once (R138). -/
theorem cvtLane_of_formats {c : Ctx} {fa fd : Fmt} (ha : fmtOf (fFT c.w) = some fa) (hd : fmtOf (fFD c.w) = some fd) (i : Nat) :
    cvtLane c i = fd.encode (cvtMode c i) (bit c.w 104) (fa.decode (laneOf c (fVA c.w) i)) := by
  rw [cvtLane, ha, hd]

/-! ### Values of lanes and immediates (R50, R132, R133) -/

theorem fld_lt {k : Nat} (x : BitVec k) (lo n : Nat) : fld x lo n < 2 ^ n := Nat.mod_lt _ (Nat.two_pow_pos n)

theorem intOf_of_lt {k x : Nat} (h : x < 2 ^ k) (sg : Bool) :
    intOf k sg x = if sg = true ∧ 2 ^ (k - 1) ≤ x then (x : Int) - 2 ^ k else x := by
  simp only [intOf, Nat.mod_eq_of_lt h, Bool.and_eq_true, decide_eq_true_eq, ge_iff_le]

/-- The sign extension of a 32-bit immediate to 64 bits. -/
theorem ofInt_intOf_imm {x : Nat} (h : x < 2 ^ 32) :
    ofInt 64 (intOf 32 true x) = if 2 ^ 31 ≤ x then x + (2 ^ 64 - 2 ^ 32) else x := by
  rw [intOf_of_lt h, ofInt]
  by_cases hneg : 2 ^ 31 ≤ x
  · rw [if_pos ⟨rfl, hneg⟩, if_pos hneg]
    omega
  · rw [if_neg (fun hs => hneg hs.2), if_neg hneg]
    omega

theorem bcastValue_imm (ft : Nat) {x : Nat} (h : x < 2 ^ 32) : bcastValue ft x =
    if ft = 5 then fTA.rne (fT32.decode x) else if ft = 13 ∧ 2 ^ 31 ≤ x then x + (2 ^ 64 - 2 ^ 32) else x := by
  rw [bcastValue, ofInt_intOf_imm h]
  by_cases hi64 : ft = 13
  · simp only [hi64, if_true, true_and]
  · simp only [hi64, if_false, false_and]

/-- The width of an integer FT (R38, R132). -/
theorem laneWidth_of_int {ft : Nat} (h : ft = 11 ∨ ft = 12 ∨ ft = 13) : laneWidth ft = vxIntW ft := by
  rcases h with rfl | rfl | rfl <;> rfl

theorem vxFloat_of_int {ft : Nat} (h : ft = 11 ∨ ft = 12 ∨ ft = 13) : vxFloat ft = false := by
  rcases h with rfl | rfl | rfl <;> rfl

theorem laneOf_lt (c : Ctx) (k i : Nat) : laneOf c k i < 2 ^ laneWidth (fFT c.w) := Nat.mod_lt _ (Nat.two_pow_pos _)

/-- The number that a lane holds in an integer FT: I32, U32 or I64 (R132). -/
def vxNumber (ft x : Nat) : Int := if ft ≠ 12 ∧ 2 ^ (vxIntW ft - 1) ≤ x then (x : Int) - 2 ^ vxIntW ft else x

theorem intOf_vxSigned {ft x : Nat} (h : x < 2 ^ vxIntW ft) : intOf (vxIntW ft) (vxSigned ft) x = vxNumber ft x := by
  simp only [intOf_of_lt h, vxSigned, bne_iff_ne, vxNumber]

/-- The relations of a VCMP on numbers (R133). -/
def numbersRelate (sb : Nat) (x y : Int) : Bool := match sb with
  | 0 => x == y
  | 1 => x != y
  | 2 => decide (x < y)
  | _ => decide (x ≤ y)

theorem vcmpHolds_of_int {ft x y : Nat} (hft : ft = 11 ∨ ft = 12 ∨ ft = 13) (sb : Nat) (hx : x < 2 ^ laneWidth ft)
    (hy : y < 2 ^ laneWidth ft) : vcmpHolds ft sb x y = numbersRelate sb (vxNumber ft x) (vxNumber ft y) := by
  rw [laneWidth_of_int hft] at hx hy
  rw [vcmpHolds, vxFloat_of_int hft, ← intOf_vxSigned hx, ← intOf_vxSigned hy]
  rfl

/-! ### Transfers and generator instructions that stay within the ward (R130, R146) -/

theorem vldBody_of_inside {c : Ctx} (h : wardOf c [vxMem c.w] = none) : vldBody c = .go {
    dur := vxDur c [vxMem c.w] (vxMem c.w).2, interval := 1, rd := memRngs c.sid.own [vxMem c.w], wr := [regRng (fVD c.w)],
    pend := vldWrites c.s c.n c.sid.own c.slice c.w, fetch := fetchOf c [vxMem c.w], act := fun _ => vxIssue c.slice 1 } := by
  rw [vldBody, h]
  rfl

theorem vstBody_of_inside {c : Ctx} (h : wardOf c [vxMem c.w] = none) : vstBody c = .go {
    dur := vxDur c [vxMem c.w] (vxMem c.w).2, interval := 1, rd := [regRng (fVD c.w)], wr := memRngs c.sid.own [vxMem c.w],
    pend := vstWrites c.s c.sid.own c.slice c.w, act := fun _ => vxIssue c.slice 1 } := by
  rw [vstBody, h]
  rfl

theorem vseedBody_of_inside {c : Ctx} (h : wardOf c [seedBlock c.w] = none) : vseedBody c = .go {
    dur := vxDur c [seedBlock c.w] 144 + 24, interval := 1, rd := memRngs c.sid.own [seedBlock c.w], wr := [genRng],
    pend := seedWrites c.s c.n c.sid.own c.slice c.w, fetch := fetchOf c [seedBlock c.w],
    act := fun _ => vxIssue c.slice 1 } := by
  rw [vseedBody, h]
  rfl

theorem kindAccepts_of_legal (h : illegal sid w = none) : kindAccepts sid.kind (opc w) = true := by
  cases hacc : kindAccepts sid.kind (opc w) with
  | true => rfl
  | false =>
    have hsome : illegal sid w ≠ none := by
      rw [illegal, hacc]
      cases opcKnown (opc w) <;> exact nofun
    exact absurd h hsome

/-- Only a VX stream accepts the vector engine's opcodes (R79). -/
theorem kind_of_vector_legal (h : illegal sid w = none) (hlo : 0x30 ≤ opc w) (hhi : opc w < 0x50) : sid.kind = .vx := by
  have hk := kindAccepts_of_legal h
  rw [kindAccepts, if_neg (by omega), if_neg (by omega), if_pos hhi, beq_iff_eq] at hk
  revert hk
  cases sid.kind <;> decide

/-- The vector engine's class 0 peak is 512 bytes per cycle (R182). -/
theorem planned_eq_vxDur (hkind : sid.kind = .vx) (rs : List (Nat × Nat)) (n : Nat) :
    Claims.planned s sid rs 512 n = vxDur (Claims.ctx s sid w st) rs n := by
  have hengine : { engineOf (s.part sid.part) sid with peak0 := 512 } = engineOf (s.part sid.part) sid := by
    rw [engineOf, hkind]
    rfl
  rw [Claims.planned, hengine, Nat.mul_comm 256 512]
  rfl

/-- A transfer of the vector engine: at issue it does nothing of its own but count its issue cycle. -/
theorem moves_vector {c : Instr} {isRow : Bool} {body : Ctx → Verdict} {g : Go} {ws xs : List Rng} {q cycles : Nat}
    (r : Ready s sid w st) (hexec : exec c s = .next ((issueR sid w isRow body).run s)) (hrow : isRow = true)
    (hbody : body (Claims.ctx s sid w st) = .go g) (hplain : g.Plain) (hhomes : homeUnreached s sid.part (g.rd ++ g.wr) = false)
    (hwr : g.wr = ws ++ xs) (hxs : ∀ x ∈ xs, x.offMemory) (hact : g.act = fun _ => vxIssue q cycles) :
    Claims.Moves c s sid w st g.fetch ws g.dur g.pend g.want Act.skip := by
  refine moves_of_go (rest := fun _ => vxIssue q cycles) r hexec hrow hbody hplain hhomes hwr hxs (fun id => ?_)
    (fun _ => vxIssue_uses _ _)
  rw [hact]
  funext t
  exact (List.append_nil _).symm

end VectorInstructions

/-- Settles O16: each form is a `vxGo`, so only the values of the lanes are left to compare: the immediate of VBCAST, and the numbers
that VCMP reads in the lanes of an integer format. -/
theorem vectorIntegerFormsIssue : Obligations.VectorIntegerFormsIssue := by
  intro s sid w st r a b full ft width num
  refine ⟨fun hop => ?vbcast, fun hop => ?vint, fun hop hft => ?vcmp, fun hop => ?vsel⟩
  case vbcast =>
    exact runs_of_vxGo (c := .vbcast sid w) r rfl (beq_iff_eq.2 hop) rfl (fun _ => bcastValue_imm ft (fld_lt w 64 32))
  case vint => exact runs_of_vxGo (c := .vint sid w) r rfl (beq_iff_eq.2 hop) rfl (fun _ => rfl)
  case vcmp =>
    refine runs_of_vxGo (c := .vcmp sid w) r rfl (beq_iff_eq.2 hop) rfl (fun i => ?_)
    have hholds : vcmpHolds ft (sub w) (a i) (b i) = numbersRelate (sub w) (num (a i)) (num (b i)) :=
      vcmpHolds_of_int hft _ (laneOf_lt (Claims.ctx s sid w st) _ i) (laneOf_lt (Claims.ctx s sid w st) _ i)
    have hwidth : laneWidth ft = width := laneWidth_of_int hft
    have hmask : (if vcmpHolds ft (sub w) (a i) (b i) then 2 ^ laneWidth ft - 1 else 0) =
        if numbersRelate (sub w) (num (a i)) (num (b i)) then 2 ^ width - 1 else 0 := by rw [hholds, hwidth]
    exact hmask
  case vsel => exact runs_of_vxGo (c := .vsel sid w) r rfl (beq_iff_eq.2 hop) rfl (fun _ => rfl)

/-- Settles O17: each form is a `vxGo` whose lanes are the model's functions of the lanes of its sources. -/
theorem vectorFloatFormsIssue : Obligations.VectorFloatFormsIssue := by
  intro s sid w st r a b c ft k
  refine ⟨fun hop => ?var, fun hop _ => ?vcmp, fun hop hsub => ?vtr, fun hop hsub => ?vtrExpd, fun hop => ?vred⟩
  case var =>
    rw [← varTime_duration]
    exact runs_of_vxGo (c := .var sid w) r rfl (beq_iff_eq.2 hop) (varBody.eq_1 _) (fun _ => rfl)
  case vcmp => exact runs_of_vxGo (c := .vcmp sid w) r rfl (beq_iff_eq.2 hop) rfl (fun _ => rfl)
  case vtr => exact runs_of_vxGo (c := .vtr sid w) r rfl (by simp [hop, hsub]) rfl (fun _ => rfl)
  case vtrExpd => exact runs_of_vxGo (c := .vtrExpd sid w) r rfl (by simp [hop, hsub]) rfl (fun _ => rfl)
  case vred => exact runs_of_vxGo (c := .vred sid w) r rfl (beq_iff_eq.2 hop) (vredBody_eq _) (fun _ => rfl)

/-- Settles O18: CVT and VRND are `vxGo`s, VSTEP touches the generator alone, and a transfer that stays within the ward is a plain
`g`, whose planned duration is the one of a VX engine because no other stream accepts these opcodes. -/
theorem vectorMemoryAndDrawsIssue : Obligations.VectorMemoryAndDrawsIssue := by
  intro s sid w st r n ft k lanes q mem seed g drawn
  have hplanned : 0x30 ≤ opc w → opc w < 0x50 → ∀ rs n, Claims.planned s sid rs 512 n = vxDur (Claims.ctx s sid w st) rs n :=
    fun hlo hhi => planned_eq_vxDur (kind_of_vector_legal r.legal hlo hhi)
  refine ⟨fun hop hmem hhomes => ?vld, fun hop hmem hhomes => ?vst, fun hop fa fd ha hd => ?cvt, fun hop => ?vrnd,
    fun hop hmem hhomes => ?vseed, fun hop => ?vstep⟩
  case vld =>
    rw [hplanned (by omega) (by omega)]
    have hreg := offMemory_singleton (regRng_offMemory (fVD w))
    have hmoves := moves_vector (c := .vld sid w) r rfl (beq_iff_eq.2 hop) (vldBody_of_inside hmem) ⟨rfl, rfl, rfl, rfl, rfl⟩
      (homeUnreached_of_append (xs := []) hhomes nofun hreg) (List.nil_append _).symm hreg rfl
    exact hmoves
  case vst =>
    rw [hplanned (by omega) (by omega)]
    have hmoves := moves_vector (c := .vst sid w) r rfl (beq_iff_eq.2 hop) (vstBody_of_inside hmem) ⟨rfl, rfl, rfl, rfl, rfl⟩
      (homeUnreached_of_append (ys := []) hhomes (offMemory_singleton (regRng_offMemory (fVD w))) nofun)
      (List.append_nil _).symm nofun rfl
    exact hmoves
  case cvt =>
    exact runs_of_vxGo (c := .cvt sid w) r rfl (beq_iff_eq.2 hop) (cvtBody_eq _)
      (cvtLane_of_formats (c := Claims.ctx s sid w st) ha hd)
  case vrnd => exact runs_of_vxGo (c := .vrnd sid w) r rfl (beq_iff_eq.2 hop) rfl (fun _ => rfl)
  case vseed =>
    rw [hplanned (by omega) (by omega)]
    have hgen := offMemory_singleton genRng_offMemory
    have hmoves := moves_vector (c := .vseed sid w) r rfl (beq_iff_eq.2 hop) (vseedBody_of_inside hmem) ⟨rfl, rfl, rfl, rfl, rfl⟩
      (homeUnreached_of_append (xs := []) hhomes nofun hgen) (List.nil_append _).symm hgen rfl
    exact hmoves
  case vstep =>
    have hgen := offMemory_singleton genRng_offMemory
    have hruns := runs_of_go (c := .vstep sid w) r rfl (beq_iff_eq.2 hop) (body := vstepBody) rfl ⟨rfl, rfl, rfl, rfl, rfl⟩ rfl rfl
      hgen hgen (fun _ => vxIssue_uses _ _)
    exact hruns

end Sys2Proof.Machine
